-- ==== Sys2Proof/Word.lean ====
section
/-! DEFINITION. The smallest addressable unit and the byte. -/

namespace Sys2Proof

/-- One byte of memory or of a frame (R4: multi-byte values are little-endian sequences of these). -/
abbrev Byte := BitVec 8

end Sys2Proof
end

