-- ==== Sys2Proof/Syntax.lean ====
section
/-! DEFINITION. The commands of the block, one constructor for each row of the table of operations and events. What
the row's text leaves to the outside world (an address, a frame, a measurement, an error that a read meets) is an
operand. -/

namespace Sys2Proof

/-- What the storage answers to the reads of one command: the first addresses of the blocks (64 B in a stack, 8 B in
an SRAM) whose error cannot be corrected (R84), and of those in which one error was corrected (R58, R60). [DESIGN CHOICE: log entry 47] -/
structure Ecc where
  uncorr : List Nat
  corr : List Nat
  deriving DecidableEq, Repr

/-- What an attention meets in storage: the errors of its reads, and the page table entries that others change while it runs, with page
index and the entry as the unit's first and second read find it (R249). -/
structure KvReads where
  ecc : Ecc
  races : List (Nat × Nat × Nat)
  deriving DecidableEq, Repr

/-- What a request's header holds of its kind (Table 8-1): the access type ACC and the TAG. -/
structure ReqHeader where
  acc : Nat
  tag : Nat
  deriving DecidableEq, Repr

/-- What a sensor port delivers for one sample (R383 to R392): its bytes, the port's raw timestamp sources in ns,
the selector that the stream's SEL is matched with, and whether the port found the transfer good. [DESIGN CHOICE: log entry 11] -/
structure Arrival where
  data : List Byte
  rawTs : Nat
  sel : Nat
  good : Bool
  deriving DecidableEq, Repr

/-- An image of the boot flash: the header fields of Table 17-2, the body, and the room its directory entry gives. -/
structure Image where
  magic : Nat
  format : Nat
  typ : Nat
  keySlot : Nat
  rollback : Nat
  loadAddr : Nat
  bodyHash : Nat
  pubX : Nat
  pubY : Nat
  sigR : Nat
  sigS : Nat
  body : List Byte
  dirLength : Nat
  deriving DecidableEq, Repr

/-- One axis of the axis map of the configuration record, with the gains of its net record (Table 14-3). -/
structure AxisMap where
  axis : Nat
  ring : Nat
  node : Nat
  vendor : Nat
  model : Nat
  rate : Nat
  nmiss : Nat
  kpn : Nat
  kvn : Nat
  dec : Nat
  kimu : List Nat
  deriving DecidableEq, Repr

/-- The contents of the configuration record (Table 17-3) and the outcome of the checks of its two section
signatures. The manual gives the contents no byte layout, so they stand as fields. -/
structure CfgRecord where
  factoryOk : Bool
  integratorKeyHash : Nat
  integratorOk : Bool
  integratorByAumalen : Bool
  deviceId : Nat
  intKeyHash : Nat
  vMin : List (List (Int × Nat))
  teGold : List Nat
  kvGold : List Nat
  epbMem : Nat
  epbLink : Nat
  pwTag : Nat
  lc : Nat
  pkgCap : Nat
  rails : List (Nat × Nat × Nat)
  windows : List (Nat × Nat × Nat × Nat)
  axes : List AxisMap
  netCfg : Nat
  netTime : Nat
  netVz : Nat
  wdog : Nat
  tktAllowLo : Nat
  tktAllowHi : Nat
  raise : List Nat
  deriving DecidableEq, Repr

/-- An entry of the health record (R639). Bank and row of a remap entry are those of a page of the stack (R45). -/
inductive HealthEntry
  | remap (stack pseudoChannel page : Nat)
  | retired (stack page : Nat)
  | fenced (granule : Nat)
  | engine (g count : Nat)
  | kvFailed (d : Nat)
  deriving DecidableEq, Repr

/-- One slot of the health record: SEQ, the entries, and the outcome of the MAC check (R639). -/
structure HealthSlot where
  seq : Nat
  entries : List HealthEntry
  macOk : Bool
  deriving DecidableEq, Repr

/-- The boot flash (R630, Table 17-1): images of slot A and slot B of each TYPE, the record contents carried by the
two TYPE 3 images, the health record's slots, the update area and the rollback area. -/
structure Flash where
  dirOk : Bool
  imageA : List (Nat × Image)
  imageB : List (Nat × Image)
  cfgA : Option CfgRecord
  cfgB : Option CfgRecord
  healthA : Option HealthSlot
  healthB : Option HealthSlot
  update : Option Image
  minVer : List (Nat × Nat)
  lcMin : Nat
  deriving DecidableEq, Repr

/-- What the silicon and the board show at a power-on: the device secret that the PUF yields (none: reconstruction
fails, R633), the nonce of the random generator (R657), what faulty engines and KV units give in place of the signature of a step in their golden
tests (unit, step, another signature or none; R176, R264), the dies whose HBM trains, the spare rows that each stack has left for post-package repair (R89), and a new flash content if the
board programmed one. [DESIGN CHOICE: log entry 160] -/
structure BootEnv where
  secret : Option Nat
  nonce : Nat
  teWrong : List (Nat × Nat × Option Nat)
  kvWrong : List (Nat × Nat × Option Nat)
  trained : List Nat
  spare : List Nat
  flash : Option Flash
  deriving DecidableEq, Repr

/-- A received Sync, with its Follow_Up (R370 to R373): the domain, the port's raw ingress time, the master's origin timestamp and
the correctionField, all three in 2⁻¹⁶ ns. [PRESUMED: log entry 25] -/
structure SyncMsg where
  domain : Nat
  raw : Int
  origin : Int
  corr : Int
  deriving DecidableEq, Repr

/-- A received Announce (R370, R375): its domain, and the grandmaster that it announces. -/
structure AnnounceMsg where
  domain : Nat
  gm : Nat
  deriving DecidableEq, Repr

/-- The kind and the domain of a delay or peer-delay message (R370). -/
structure DelayHeader where
  kind : Nat
  domain : Nat
  deriving DecidableEq, Repr

/-- The port whose sync interval ends, and the interval's base-2 logarithm in seconds (Table 9-3). -/
structure SyncSend where
  port : Nat
  logInterval : Int
  deriving DecidableEq, Repr

/-- One request arriving at a turnstile (R332): its ticket and its data bytes. -/
structure Arrived where
  ticket : Nat
  bytes : Nat
  deriving DecidableEq, Repr

/-- A job's estimate of the block energy model in one power window: the client charged, the estimate, whether the job is planned
work (R309, R609). -/
structure JobUse where
  client : Nat
  estimate : Nat
  planned : Bool
  deriving DecidableEq, Repr

/-- The estimates of the block energy model for one core rail in one power window: of the jobs that ran on its blocks, and of its idle
blocks (R309). -/
structure RailUse where
  jobs : List JobUse
  idle : List Nat
  deriving DecidableEq, Repr

/-- What the activity counters give for one power window: by core rail (0 to 3 VDD_C[d], 4 VDD_H) the estimates of its jobs and idle
blocks, and the signature of the window (R309, R604). -/
structure PowerUse where
  rails : List RailUse
  signature : Nat
  deriving DecidableEq, Repr

/-- The commands: one constructor per row of opcode_table.json. `u` is a unit index of Table 7-6, `d` a compute die,
`g` an engine, `init` the initiator of a write and `tkt` its ticket. `wrong` lists what a faulty unit gives in place
of the signature of a step: another signature, or none. `times` of SOLVE are the grid cycles after the boundary at which
its iterations end, `store` a read of its operand store that cannot be corrected; `mem` of AXIS_UPDATE the axes whose tables or loop state
meet such an error; `times` of FEED the decode times of
its records. -/
inductive Instr
  | registerWrite (init tkt : Nat) (addr : Nat) (width data : Nat)
  | porstN (env : BootEnv)
  | wrstN
  | resetWarm (init tkt : Nat)
  | resetDie (init tkt d : Nat)
  | resetEng (init tkt g : Nat)
  | pllLock
  | pwrgdAssert (input : Nat)
  | pwrgdLoss (input : Nat)
  | controlFrameBoundary
  | doorbellWrite (init q data : Nat)
  | queueEnable (init tkt : Nat)
  | queueDisable (init tkt : Nat)
  | descriptorTake (q u : Nat) (ecc : Ecc)
  | creditWaitStart (die ctr : Nat)
  | jobComplete (u cycles bytes energy : Nat) (ecc : Ecc)
  | openDispatch (u : Nat) (ecc : Ecc)
  | planSlotTake (slot : Nat) (ecc : Ecc)
  | preemptRequest (u : Nat)
  | preemptRelease (u cycles : Nat)
  | copySwitchDone (u : Nat)
  | slotStart (slot : Nat)
  | slotDeadline (slot : Nat)
  | jobStopAtTile (u : Nat)
  | linear (u : Nat) (ecc : Ecc)
  | strided (u : Nat) (ecc : Ecc)
  | gather (u : Nat) (ecc : Ecc)
  | scatter (u : Nat) (ecc : Ecc)
  | fill (u : Nat) (ecc : Ecc)
  | matmul (u : Nat) (ecc : Ecc)
  | conv (u : Nat) (ecc : Ecc)
  | eltwise (u : Nat) (ecc : Ecc)
  | reduce (u : Nat) (ecc : Ecc)
  | golden (u : Nat) (wrong : List (Nat × Option Nat))
  | goldenCompare (g step : Nat) (wrong : Option (Option Nat))
  | teSigTest (init tkt g : Nat)
  | append (u : Nat) (ecc : Ecc)
  | attn (u : Nat) (r : KvReads)
  | attnBwd (u : Nat) (r : KvReads)
  | kvGold (u : Nat) (wrong : List (Nat × Option Nat))
  | ctxWrite (u : Nat) (ecc : Ecc)
  | ctxRead (u : Nat) (ecc : Ecc)
  | ctxAdvance (u : Nat) (ecc : Ecc)
  | ctxTruncate (u : Nat) (ecc : Ecc)
  | ctxPin (u : Nat) (ecc : Ecc)
  | ctxUnpin (u : Nat) (ecc : Ecc)
  | ctxRelease (u : Nat) (ecc : Ecc)
  | ctxSummary (u : Nat) (ecc : Ecc)
  | kvCheckCompare (d step : Nat) (wrong : Option (Option Nat))
  | kvSigTest (init tkt d : Nat)
  | sgJoin (init g ctx qrows : Nat)
  | sgLeave (init g ctx : Nat)
  | sgSetq (init g ctx qrows : Nat)
  | sgStep (init mask : Nat)
  | sgPublish (g : Nat) (ecc : Ecc)
  | sgDisable (init tkt g : Nat)
  | stage (init tkt : Nat)
  | stageReadDone (ecc : Ecc)
  | activate (init tkt : Nat)
  | stop (init tkt : Nat)
  | discard (init tkt : Nat)
  | fabricRequest (init tkt : Nat) (h : ReqHeader) (addr : Nat) (len : Nat) (data : List Byte) (ecc : Ecc)
  | turnstileAdmit (port : Nat) (arrivals : List Arrived)
  | budgetWindow
  | latencyMiss (port t : Nat)
  | fwWindowWrite (init tkt w word data : Nat)
  | fwWindowSync
  | fwTsRateWrite (init tkt page l t data : Nat)
  | hartTicketWrite (hart value : Nat)
  | yeliloRequest (p tkt : Nat) (h : ReqHeader) (addr : Nat) (len : Nat) (data : List Byte) (ecc : Ecc)
  | linkReplay (d l : Nat)
  | linkDown (d l : Nat)
  | refresh (stack : Nat)
  | patrolScrub (block : Nat) (verdict : Nat)
  | rowMoveSwitch (stack : Nat)
  | healthRecordWrite
  | timeLoad (init tkt data : Nat)
  | timeSecRead (init : Nat)
  | ptpSync (port : Nat) (m : SyncMsg) (gm : Nat)
  | ptpAnnounce (port : Nat) (m : AnnounceMsg) (selected : Nat)
  | ptpDelayMessage (port : Nat) (h : DelayHeader) (t1 t2 t3 t4 : Int)
  | ptpSyncInterval (x : SyncSend)
  | holdoverTimeout (kind : Nat)
  | referenceLost (pll : Bool)
  | tcapEdge (i kind : Nat)
  | capTsRead (init i : Nat)
  | tpulseEdge (j : Nat)
  | pulseCfgWrite (init j word data : Nat)
  | csi2Frame (i : Nat) (a : Arrival)
  | ethernetSample (i : Nat) (a : Arrival)
  | spiDrdy (i : Nat) (a : Arrival)
  | i3cSample (i : Nat) (a : Arrival)
  | canFrame (i : Nat) (a : Arrival)
  | derivedRecord (i : Nat) (a : Arrival)
  | cycleClose (g : Nat)
  | fuStreamEnable (init tkt i : Nat)
  | reinstate (init i : Nat)
  | groupDisable (init g : Nat)
  | calCommit (init i : Nat)
  | fuse (u : Nat) (ecc : Ecc)
  | mapClear (init : Nat)
  | mapClearDone
  | mapCells (u : Nat) (ecc : Ecc)
  | mapFuse (u : Nat) (ecc : Ecc)
  | mapCommit (u : Nat)
  | mapCopyDone
  | plan (u : Nat) (ecc : Ecc)
  | emit (u : Nat) (ecc : Ecc)
  | solve (u : Nat) (times : List Nat) (store : Bool) (ecc : Ecc)
  | cmd (u : Nat) (ecc : Ecc)
  | feed (u : Nat) (times : List Nat) (ecc : Ecc)
  | decodeBudgetOverrun (u : Nat) (ecc : Ecc)
  | axisGridPoint
  | fbFrame (ring : Nat) (frame : List Byte)
  | fbDeadline
  | takePoint (ecc : Ecc)
  | axisUpdate (ring : Nat) (mem : List Nat)
  | axisFrameOther (ring : Nat) (frame : List Byte)
  | ringRun (init tkt r : Nat)
  | enum (init tkt r : Nat)
  | discRsp (ring : Nat) (frame : List Byte)
  | enumDone
  | read (init tkt r node axis : Nat)
  | identRsp (ring : Nat) (frame : List Byte)
  | identReqTimeout
  | config (init tkt axis ring node : Nat) (ecc : Ecc)
  | tabDataAccess (init : Nat) (write : Bool) (data : Nat)
  | faultClear (init axis : Nat)
  | doubtWireAssert (wires : List (Nat × Nat))
  | doubtRequest (init : Nat)
  | netUpdate
  | netArm (init : Nat)
  | lockstepMismatch (pair : Nat)
  | watchdogExpiry (which : Nat)
  | netWatchdogExpiry
  | watchWatchdogExpiry
  | islandWatchdogExpiry
  | hostKick (init : Nat)
  | reintRequest (init : Nat)
  | reintGoldenTimeout
  | carouselStepDone (e : Nat) (ok : Bool)
  | logWrite
  | logTailWrite (init tkt value : Nat)
  | currentWindow (estimates : List Nat)
  | gainUpdate (avs pmbus : List Nat)
  | powerWindow (use : PowerUse)
  | voteReceived (port : Nat) (entries : List (Nat × Nat × Nat))
  | tempSample (temps mems : List (List Int))
  | stateReqA0 (init tkt : Nat)
  | stateReqP1 (init tkt : Nat)
  | stateReqP2 (init tkt : Nat)
  | stateReqP3 (init tkt : Nat)
  | stateDone (env : BootEnv)
  | wakeEvent (kind i : Nat)
  | unlockPw (password : Nat)
  | nonce
  | unlockCr (levels pubX pubY sigR sigS reserved : Nat)
  | intForceWrite (init tkt page data : Nat)
  | intRouteWrite (init tkt page data : Nat)
  | yeliloEnable (init p : Nat)
  | yeliloCodewordFail (p : Nat)
  | yeliloLossOfLock (p : Nat)
  | gridCycle (n : Nat)
  | yeliloLinkUp (p trained peer : Nat)
  | yeliloReplayRequest (p n : Nat)
  | portLinkChange (ring : Nat) (up : Bool)
  deriving DecidableEq, Repr

end Sys2Proof
end

