-- ==== Sys2Proof/Decode.lean ====
section
/-! DEFINITION. The commands that a word spells. The rows of opcode_table.json give no bits, so no word spells a
command. -/

namespace Sys2Proof

/-- The command that the `nbits` bits of `w` spell by the bits of opcode_table.json. No row of the table has bits. [DESIGN CHOICE: log entry 24] -/
def decodeTableWord (_nbits _w : Nat) : Option Instr := none

end Sys2Proof
end

