-- ==== Sys2Proof/Machine/Bits.lean ====
section
/-! DEFINITION. Bit fields (R5), two's complement and little-endian byte order (R4), on plain numbers. -/

namespace Sys2Proof.Machine

/-- Bits `[hi:lo]` of `v` (R5). -/
def field (v hi lo : Nat) : Nat := (v / 2 ^ lo) % 2 ^ (hi + 1 - lo)

/-- Bit `n` of `v`. -/
def bit (v n : Nat) : Bool := (v / 2 ^ n) % 2 == 1

/-- 1 for true. -/
def ofBool (b : Bool) : Nat := if b then 1 else 0

/-- `v` with bit `n` set. -/
def setBit (v n : Nat) : Nat := if bit v n then v else v + 2 ^ n

/-- `v` with bit `n` clear. -/
def clearBit (v n : Nat) : Nat := if bit v n then v - 2 ^ n else v

/-- `v` read as a `w`-bit two's complement number. -/
def toSigned (w v : Nat) : Int :=
  if v % 2 ^ w < 2 ^ (w - 1) then ((v % 2 ^ w : Nat) : Int) else ((v % 2 ^ w : Nat) : Int) - 2 ^ w

/-- The `w`-bit two's complement pattern of `i`. -/
def ofSigned (w : Nat) (i : Int) : Nat := (i % 2 ^ w).toNat

/-- `i` clamped to the interval from `lo` to `hi`. -/
def clampI (lo hi i : Int) : Int := if i < lo then lo else if hi < i then hi else i

/-- The low `n` bytes of `v`, least significant first (R4). -/
def leBytes : Nat → Nat → List Byte
  | 0, _ => []
  | n + 1, v => BitVec.ofNat 8 v :: leBytes n (v / 256)

/-- The number whose bytes, least significant first, are `bs` (R4). -/
def ofLe : List Byte → Nat
  | [] => 0
  | b :: r => b.toNat + 256 * ofLe r

/-- The number whose bytes, most significant first, are `bs` (fields of Ethernet frames and keys). -/
def ofBe (bs : List Byte) : Nat := ofLe bs.reverse

/-- The low `n` bytes of `v`, most significant first. -/
def beBytes (n v : Nat) : List Byte := (leBytes n v).reverse

/-- Little-endian number of the `n` bytes of `bs` from offset `o`. -/
def le (bs : List Byte) (o n : Nat) : Nat := ofLe ((bs.drop o).take n)

/-- `a` divided by `b`, rounded up. -/
def ceilDiv (a b : Nat) : Nat := (a + b - 1) / b

/-- `v` saturated at `2 ^ w - 1`. -/
def satU (w v : Nat) : Nat := if v < 2 ^ w then v else 2 ^ w - 1

/-- `i` saturated to the `w`-bit two's complement range. -/
def satS (w : Nat) (i : Int) : Int := clampI (-(2 ^ (w - 1))) (2 ^ (w - 1) - 1) i

/-- `0, 1, ..., n - 1` each mapped by `f`. -/
def tab {α : Type} (n : Nat) (f : Nat → α) : List α := (List.range n).map f

end Sys2Proof.Machine
end

