-- ==== Sys2Proof/Machine/Formats.lean ====
section
/-! DEFINITION. Number formats (R93 to R122): exact values, the eighteen formats, rounding, conversion, packing and MX
blocks, and FP32 arithmetic on codes (R117). -/

namespace Sys2Proof.Machine

/-- An exact value: a NaN, an infinity, or (-1)^neg × m × 2^e. -/
inductive Val
  | nan
  | inf (neg : Bool)
  | fin (neg : Bool) (m : Nat) (e : Int)
  deriving DecidableEq, Repr

/-! ### Formats (Table 3-1, Table 3-2) -/

/-- A floating-point format: exponent bits, mantissa bits, bias, code of the largest finite magnitude, whether it has
infinities, and its canonical NaN if it has one (R95, R97). -/
structure FloatFmt where
  eb : Nat
  mb : Nat
  bias : Nat
  maxCode : Nat
  hasInf : Bool
  nan : Option Nat
  deriving DecidableEq, Repr

/-- Table 3-2 by format code. -/
def floatFmt (f : Nat) : FloatFmt :=
  if f = 0 then ⟨8, 23, 127, 0x7F7FFFFF, true, some 0x7FC00000⟩
  else if f = 1 then ⟨5, 10, 15, 0x7BFF, true, some 0x7E00⟩
  else if f = 2 then ⟨8, 7, 127, 0x7F7F, true, some 0x7FC0⟩
  else if f = 3 then ⟨4, 3, 7, 0x7E, false, some 0x7F⟩
  else if f = 4 then ⟨5, 2, 15, 0x7B, true, some 0x7E⟩
  else if f = 5 then ⟨3, 2, 3, 0x1F, false, none⟩
  else if f = 6 then ⟨2, 3, 1, 0x1F, false, none⟩
  else ⟨2, 1, 1, 0x7, false, none⟩

def isFloat (f : Nat) : Bool := f < 8
def isMX (f : Nat) : Bool := 8 ≤ f && f < 12
def isInt (f : Nat) : Bool := 12 ≤ f && f < 15
def isBell (f : Nat) : Bool := f == 15 || f == 16
def isQ32 (f : Nat) : Bool := f == 17
/-- A code of Table 3-1. [DEDUCED: log entry 31] -/
def isFmt (f : Nat) : Bool := f < 18

/-- Element bits (Table 3-1). -/
def fmtBits (f : Nat) : Nat :=
  if f = 0 ∨ f = 12 ∨ f = 17 then 32
  else if f = 1 ∨ f = 2 then 16
  else if f = 3 ∨ f = 4 ∨ f = 8 ∨ f = 11 ∨ f = 13 then 8
  else if f = 5 ∨ f = 6 ∨ f = 9 then 6
  else if f = 7 ∨ f = 10 ∨ f = 14 ∨ f = 15 then 4
  else 3

/-- Element format of MXFP8, MXFP6 and MXFP4; emax of R108; bytes of a block (R106). -/
def mxElem (f : Nat) : Nat := if f = 8 then 3 else if f = 9 then 5 else 7
def mxEmax (f : Nat) : Int := if f = 8 then 8 else if f = 9 then 4 else if f = 10 then 2 else 0
def mxBytes (f : Nat) : Nat := if f = 9 then 25 else if f = 10 then 17 else 33

/-- The bytes of `n` elements packed together (R100, R106, R121). -/
def rowBytes (f n : Nat) : Nat := if isMX f then ceilDiv n 32 * mxBytes f else ceilDiv (n * fmtBits f) 8

/-- The multiple that a packed row of format `f` needs (R120, R138). -/
def fmtMultiple (f : Nat) : Nat :=
  if isMX f then 32 else if f = 16 then 8 else if fmtBits f = 6 then 4 else if fmtBits f = 4 then 2 else 1

/-! ### Bell grids (Table 3-3, Table 3-4) -/

/-- Levels n of a bell format by magnitude index. -/
def bellLevels (f : Nat) : List Nat := if f = 15 then [0, 13, 26, 40, 56, 73, 95, 127] else [0, 35, 74, 127]

/-- Place of the sign bit of a bell code. -/
def bellSign (f : Nat) : Nat := if f = 15 then 3 else 2

/-- Sign and level n of a bell code (R101, R102). [DEDUCED: log entry 34] -/
def bellSigned (f c : Nat) : Int :=
  let n : Nat := (bellLevels f).getD (c % 2 ^ bellSign f) 0
  if bit c (bellSign f) then -(n : Int) else n

/-! ### Decoding -/

/-- The value of a floating-point code (R95, R96). [DEDUCED: log entry 37] -/
def decodeFloat (F : FloatFmt) (c : Nat) : Val :=
  let neg := bit c (F.eb + F.mb)
  let ex := field c (F.eb + F.mb - 1) F.mb
  let m := c % 2 ^ F.mb
  if F.hasInf ∧ ex = 2 ^ F.eb - 1 then (if m = 0 then .inf neg else .nan)
  else if F.nan.isSome ∧ !F.hasInf ∧ c % 2 ^ (F.eb + F.mb) = 2 ^ (F.eb + F.mb) - 1 then .nan
  else if ex = 0 then .fin neg m (1 - (F.bias : Int) - F.mb)
  else .fin neg (2 ^ F.mb + m) ((ex : Int) - F.bias - F.mb)

/-- An integer as a value. -/
def valInt (i : Int) : Val := .fin (decide (i < 0)) i.natAbs 0

/-- The value of an element code that needs no block scale (R95, R99, R101, R102). -/
def elemVal (f c : Nat) : Val :=
  if isFloat f then decodeFloat (floatFmt f) c
  else if isBell f then .fin (bit c (bellSign f)) (bellSigned f c).natAbs (-7)
  else valInt (toSigned (fmtBits f) c)

/-- A value times 2^k. -/
def Val.scale (k : Int) : Val → Val
  | .fin n m e => .fin n m (e + k)
  | v => v

/-- Element `c` of an MX block with scale code `sc` (R107). -/
def mxVal (f sc c : Nat) : Val :=
  if sc = 0xFF then .nan
  else if f = 11 then (valInt (toSigned 8 c)).scale ((sc : Int) - 127 - 6)
  else (decodeFloat (floatFmt (mxElem f)) c).scale ((sc : Int) - 127)

/-- The `n` codes of width `w` packed in `bs` (R100). -/
def unpackBits (w n : Nat) (bs : List Byte) : List Nat :=
  let v := ofLe bs
  tab n fun i => v / 2 ^ (w * i) % 2 ^ w

/-- The scale code of block `b`, and its element codes. -/
def mxScaleAt (f : Nat) (bs : List Byte) (b : Nat) : Nat := le bs (b * mxBytes f) 1
def mxCodesAt (f : Nat) (bs : List Byte) (b : Nat) : List Nat :=
  unpackBits (fmtBits f) 32 ((bs.drop (b * mxBytes f + 1)).take (mxBytes f - 1))

/-- The values of `n` elements packed in `bs` (R100, R106, R107). -/
def rowVals (f n : Nat) (bs : List Byte) : List Val :=
  if isMX f then
    ((List.range (ceilDiv n 32)).flatMap fun b => (mxCodesAt f bs b).map (mxVal f (mxScaleAt f bs b))).take n
  else (unpackBits (fmtBits f) n bs).map (elemVal f)

/-! ### Rounding (R112 to R114) -/

/-- sr_bits (R114). -/
def srBits (seed idx : Nat) : Nat :=
  let h := Nat.xor (seed % 2 ^ 32) (idx * 0x9E3779B9 % 2 ^ 32)
  let h := (Nat.xor h (h / 2 ^ 16)) * 0x85EBCA6B % 2 ^ 32
  let h := (Nat.xor h (h / 2 ^ 13)) * 0xC2B2AE35 % 2 ^ 32
  (Nat.xor h (h / 2 ^ 16)) / 2 ^ 16

/-- num / den rounded to nearest, ties to even (R112). -/
def rne (num den : Nat) : Nat :=
  let q := num / den
  let r := num % den
  if 2 * r < den then q else if den < 2 * r then q + 1 else if q % 2 = 0 then q else q + 1

/-- num / den rounded by R112, or by R113 with the number `r`. -/
def roundGrid (r : Option Nat) (num den : Nat) : Nat :=
  match r with
  | none => rne num den
  | some r => if r < 65536 * (num % den) / den then num / den + 1 else num / den

/-- floor(log2(num / den)), for num not 0. -/
def floorLog2 (num den : Nat) : Int :=
  let k : Int := (Nat.log2 num : Int) - Nat.log2 den
  if den * 2 ^ k.toNat ≤ num * 2 ^ (-k).toNat then k else k - 1

/-- The unsigned code of num / den × 2^e, rounded on the format's grid with its range taken as unbounded. -/
def floatCode (F : FloatFmt) (r : Option Nat) (num den : Nat) (e : Int) : Nat :=
  if num = 0 then 0 else
  let q := max (floorLog2 num den + e) (1 - (F.bias : Int)) - F.mb
  let sh := e - q
  let n := roundGrid r (num * 2 ^ sh.toNat) (den * 2 ^ (-sh).toNat)
  (q + F.mb + F.bias - 1).toNat * 2 ^ F.mb + n

/-- A converted element: its code, and whether it counts as out of range (R116) or as NaN lost. -/
structure Conv where
  code : Nat
  oor : Bool
  lost : Bool
  deriving DecidableEq, Repr

/-- Convert to a floating-point format (R112, R113, R116, Table 3-5). -/
def convFloat (F : FloatFmt) (r : Option Nat) (v : Val) : Conv :=
  let sg (neg : Bool) : Nat := if neg then 2 ^ (F.eb + F.mb) else 0
  match v with
  | .nan => match F.nan with
    | some c => ⟨c, false, false⟩
    | none => ⟨0, false, true⟩
  | .inf neg => if F.hasInf then ⟨sg neg + (2 ^ F.eb - 1) * 2 ^ F.mb, false, false⟩ else ⟨sg neg + F.maxCode, true, false⟩
  | .fin neg m e =>
    ⟨sg neg + min (floatCode F r m 1 e) F.maxCode, decide (F.maxCode < floatCode F none m 1 e), false⟩

/-- |v| × 2^k as a ratio. -/
def ratio (m : Nat) (e : Int) : Nat × Nat := (m * 2 ^ e.toNat, 2 ^ (-e).toNat)

/-- Convert to a `w`-bit integer (Table 3-5). -/
def convInt (w : Nat) (r : Option Nat) (v : Val) : Conv :=
  match v with
  | .nan => ⟨0, false, true⟩
  | .inf neg => ⟨if neg then 2 ^ (w - 1) else 2 ^ (w - 1) - 1, true, false⟩
  | .fin neg m e =>
    let lim := if neg then 2 ^ (w - 1) else 2 ^ (w - 1) - 1
    let q := ratio m e
    let n := min (roundGrid r q.1 q.2) lim
    ⟨ofSigned w (if neg then -(n : Int) else n), decide (lim < rne q.1 q.2), false⟩

/-- The largest index whose level is at most num / den. -/
def bellBelow (ls : List Nat) (num den : Nat) : Nat := (ls.filter (fun n => n * den ≤ num)).length - 1

/-- Convert to a bell format (R104, R113, Table 3-5). [DEDUCED: log entry 34] -/
def convBell (f : Nat) (r : Option Nat) (v : Val) : Conv :=
  let ls := bellLevels f
  let top := ls.length - 1
  let put (neg : Bool) (j : Nat) : Nat := if neg && j != 0 then 2 ^ bellSign f + j else j
  match v with
  | .nan => ⟨0, false, true⟩
  | .inf neg => ⟨put neg top, true, false⟩
  | .fin neg m e =>
    let q := ratio m (e + 7)
    if 127 * q.2 < q.1 then ⟨put neg top, true, false⟩
    else
      let j := bellBelow ls q.1 q.2
      let lo := ls.getD j 0
      let hi := ls.getD (j + 1) 0
      let up : Bool := if q.1 = lo * q.2 then false else match r with
        | none => decide ((lo + hi) * q.2 < 2 * q.1) || ((lo + hi) * q.2 == 2 * q.1 && j % 2 == 1)
        | some r => decide (r < 65536 * (q.1 - lo * q.2) / ((hi - lo) * q.2))
      ⟨put neg (if up then j + 1 else j), false, false⟩

/-- Convert to a format that has no block scale (Table 3-5). Q32 data is only ever copied (R119). [DEDUCED: log entry 34] -/
def convert (f : Nat) (r : Option Nat) (v : Val) : Conv :=
  if isFloat f then convFloat (floatFmt f) r v
  else if isBell f then convBell f r v
  else convInt (fmtBits f) r v

/-! ### MX blocks (R105 to R109) -/

/-- |a| < |b| of finite values. -/
def magLt (m1 : Nat) (e1 : Int) (m2 : Nat) (e2 : Int) : Bool :=
  decide (m1 * 2 ^ (e1 - e2).toNat < m2 * 2 ^ (e2 - e1).toNat)

/-- The largest magnitude of finite values, as mantissa and exponent; 0 for none. -/
def maxMag : List Val → Nat × Int
  | [] => (0, 0)
  | .fin _ m e :: r => let b := maxMag r; if magLt b.1 b.2 m e then (m, e) else b
  | _ :: r => maxMag r

def Val.isFinite : Val → Bool
  | .fin _ _ _ => true
  | _ => false

/-- An encoded block: scale code, element codes, elements counted out of range, and whether X was clamped to 127. -/
structure MxBlock where
  scale : Nat
  codes : List Nat
  oor : Nat
  clamped : Bool
  deriving DecidableEq, Repr

/-- Encode a block (R108, R109); `r i` is the stochastic number of element `i`, if any. -/
def mxEncode (f : Nat) (r : Nat → Option Nat) (vs : List Val) : MxBlock :=
  if vs.any (fun v => !v.isFinite) then ⟨0xFF, vs.map (fun _ => 0), 0, false⟩
  else
    let a := maxMag vs
    if a.1 = 0 then ⟨0, vs.map (fun _ => 0), 0, false⟩
    else
      let x0 := floorLog2 a.1 1 + a.2 - mxEmax f
      let x := clampI (-127) 127 x0
      let cs := vs.zipIdx.map fun q =>
        if f = 11 then
          let c := convInt 8 (r q.2) ((q.1.scale (6 - x)))
          if c.code = 0x80 then { c with code := 0x81, oor := true } else c
        else convFloat (floatFmt (mxElem f)) (r q.2) (q.1.scale (-x))
      ⟨(x + 127).toNat, cs.map Conv.code, if 127 < x0 then (cs.filter Conv.oor).length else 0, decide (127 < x0)⟩

/-- Codes of width `w` packed into bytes (R100). -/
def packBits (w : Nat) (cs : List Nat) : List Byte :=
  leBytes (ceilDiv (w * cs.length) 8) (cs.foldr (fun c acc => c % 2 ^ w + 2 ^ w * acc) 0)

/-- Lists of at most `n` elements each. -/
def chunks {α : Type} (n : Nat) : Nat → List α → List (List α)
  | 0, _ => []
  | k + 1, xs => if xs.isEmpty then [] else xs.take n :: chunks n k (xs.drop n)

/-- A converted row: its bytes, and the elements counted out of range and as NaN lost. -/
structure RowConv where
  bytes : List Byte
  oor : Nat
  lost : Nat
  deriving DecidableEq, Repr

/-- Convert a row of values to format `f` (R112 to R121). -/
def convertRow (f : Nat) (r : Nat → Option Nat) (vs : List Val) : RowConv :=
  if isMX f then
    let bs := (chunks 32 vs.length vs).zipIdx.map fun q => mxEncode f (fun i => r (32 * q.2 + i)) q.1
    ⟨bs.flatMap (fun b => BitVec.ofNat 8 b.scale :: packBits (fmtBits f) b.codes), bs.foldl (fun n b => n + b.oor) 0, 0⟩
  else
    let cs := vs.zipIdx.map fun q => convert f (r q.2) q.1
    ⟨packBits (fmtBits f) (cs.map Conv.code), (cs.filter Conv.oor).length, (cs.filter Conv.lost).length⟩

/-! ### FP32 arithmetic on codes (R117) -/

/-- FP32 code of num / den × 2^e with a sign; beyond range it is an infinity. -/
def f32Ratio (neg : Bool) (num den : Nat) (e : Int) : Nat :=
  (if neg then 0x80000000 else 0) + min (floatCode (floatFmt 0) none num den e) 0x7F800000

def f32NaN : Nat := 0x7FC00000
def f32Inf (neg : Bool) : Nat := if neg then 0xFF800000 else 0x7F800000
def f32Zero (neg : Bool) : Nat := if neg then 0x80000000 else 0

/-- A value rounded to FP32. -/
def f32 : Val → Nat
  | .nan => f32NaN
  | .inf n => f32Inf n
  | .fin n m e => f32Ratio n m 1 e

/-- The value of an FP32 code. [DEDUCED: log entry 37] -/
def f32Val (c : Nat) : Val := decodeFloat (floatFmt 0) c

/-- Exact sum of two finite values; an exact zero is negative only when both are (R117). -/
def addFin (n1 : Bool) (m1 : Nat) (e1 : Int) (n2 : Bool) (m2 : Nat) (e2 : Int) : Val :=
  let e := min e1 e2
  let i (n : Bool) (m : Nat) (x : Int) : Int := let k : Int := (m * 2 ^ (x - e).toNat : Nat); if n then -k else k
  let s := i n1 m1 e1 + i n2 m2 e2
  if s = 0 then .fin (n1 && n2) 0 0 else .fin (decide (s < 0)) s.natAbs e

def Val.add : Val → Val → Val
  | .nan, _ | _, .nan => .nan
  | .inf a, .inf b => if a = b then .inf a else .nan
  | .inf a, _ => .inf a
  | _, .inf b => .inf b
  | .fin n1 m1 e1, .fin n2 m2 e2 => addFin n1 m1 e1 n2 m2 e2

def Val.neg : Val → Val
  | .nan => .nan
  | .inf a => .inf !a
  | .fin n m e => .fin (!n) m e

def Val.mul : Val → Val → Val
  | .nan, _ | _, .nan => .nan
  | .inf a, .inf b => .inf (a != b)
  | .inf a, .fin n m _ => if m = 0 then .nan else .inf (a != n)
  | .fin n m _, .inf b => if m = 0 then .nan else .inf (n != b)
  | .fin n1 m1 e1, .fin n2 m2 e2 => .fin (n1 != n2) (m1 * m2) (e1 + e2)

def fadd (a b : Nat) : Nat := f32 ((f32Val a).add (f32Val b))
def fsub (a b : Nat) : Nat := f32 ((f32Val a).add (f32Val b).neg)
def fmul (a b : Nat) : Nat := f32 ((f32Val a).mul (f32Val b))

def fdiv (a b : Nat) : Nat := match f32Val a, f32Val b with
  | .nan, _ | _, .nan => f32NaN
  | .inf _, .inf _ => f32NaN
  | .inf x, .fin n _ _ => f32Inf (x != n)
  | .fin n _ _, .inf y => f32Zero (n != y)
  | .fin n1 m1 e1, .fin n2 m2 e2 =>
    if m2 = 0 then (if m1 = 0 then f32NaN else f32Inf (n1 != n2))
    else f32Ratio (n1 != n2) m1 m2 (e1 - e2)

/-- Whole part of the square root by halving the interval `fuel` times. -/
def isqrt (fuel n lo hi : Nat) : Nat := match fuel with
  | 0 => lo
  | k + 1 =>
    let mid := (lo + hi) / 2
    if hi ≤ lo + 1 then lo else if mid * mid ≤ n then isqrt k n mid hi else isqrt k n lo mid

/-- floor(sqrt n). -/
def sqrtNat (n : Nat) : Nat := isqrt (Nat.log2 n + 2) n 0 (2 ^ (Nat.log2 n / 2 + 1))

def fsqrt (a : Nat) : Nat := match f32Val a with
  | .nan => f32NaN
  | .inf n => if n then f32NaN else f32Inf false
  | .fin n m e =>
    if m = 0 then f32Zero n else if n then f32NaN
    else
      -- m × 2^e = M × 2^(2h) with M of at least 60 bits; a remainder is kept as an odd last bit
      let k : Nat := 64 + (e % 2).toNat
      let M := m * 2 ^ k
      let r := sqrtNat M
      f32Ratio false (if r * r = M then 2 * r else 2 * r + 1) 1 ((e - k) / 2 - 1)

/-- Order of two values that are no NaN. -/
def Val.lt : Val → Val → Bool
  | .inf a, .inf b => a && !b
  | .inf a, .fin _ _ _ => a
  | .fin _ _ _, .inf b => !b
  | .fin n1 m1 e1, .fin n2 m2 e2 => match (addFin n1 m1 e1 (!n2) m2 e2) with
    | .fin s m _ => s && m != 0
    | _ => false
  | _, _ => false

def isNaN32 (a : Nat) : Bool := f32Val a == .nan
def isInf32 (a : Nat) : Bool := match f32Val a with | .inf _ => true | _ => false
def flt (a b : Nat) : Bool := (f32Val a).lt (f32Val b)
def fle (a b : Nat) : Bool := !(isNaN32 a) && !(isNaN32 b) && !(flt b a)

/-- A code as a unit writes it: any NaN is the canonical one (R97). -/
def canon32 (a : Nat) : Nat := if isNaN32 a then f32NaN else a

/-- Maximum and minimum; a NaN gives the canonical NaN (R148). Of +0 and -0 the first operand is the result. [DESIGN CHOICE: log entry 245] -/
def fmax (a b : Nat) : Nat := if isNaN32 a || isNaN32 b then f32NaN else if flt a b then b else a
/-- The minimum of two values. [DESIGN CHOICE: log entry 245] -/
def fmin (a b : Nat) : Nat := if isNaN32 a || isNaN32 b then f32NaN else if flt b a then b else a

def fabs (a : Nat) : Nat := if isNaN32 a then f32NaN else a % 2 ^ 31
def fneg (a : Nat) : Nat := if isNaN32 a then f32NaN else if bit a 31 then a - 2 ^ 31 else a + 2 ^ 31

/-- An integer converted to FP32. -/
def f32Int (i : Int) : Nat := f32 (valInt i)

/-- i × 2^-p in FP32. -/
def f32Fix (p : Nat) (i : Int) : Nat := f32 ((valInt i).scale (-(p : Int)))

/-- An FP32 code as Q with `p` fractional bits in `w` bits: value and overflow flag (R111). -/
def toFix (w p c : Nat) : Int × Bool := match f32Val c with
  | .nan => (0, true)
  | .inf n => (if n then -(2 ^ (w - 1) : Int) else 2 ^ (w - 1) - 1, true)
  | .fin n m e =>
    let q := ratio m (e + p)
    let i : Int := if n then -(rne q.1 q.2 : Int) else rne q.1 q.2
    (satS w i, decide (satS w i ≠ i))

/-- An integer divided by a positive integer, nearest, ties to even. -/
def rneInt (i : Int) (d : Nat) : Int := if i < 0 then -(rne i.natAbs d : Int) else rne i.natAbs d

/-- A value with `pin` fractional bits brought to `pout`, saturated to `w` bits: value and overflow flag (R111). -/
def rescale (w pin pout : Nat) (i : Int) : Int × Bool :=
  let v := if pout ≤ pin then rneInt i (2 ^ (pin - pout)) else i * 2 ^ (pout - pin)
  (satS w v, decide (satS w v ≠ v))

end Sys2Proof.Machine
end

