-- ==== Sys2Proof/Config.lean ====
section
/-! DEFINITION. The values the manual leaves open, as constants without a body. -/

namespace Sys2Proof.Config

/-- The byte at an address of a storage range whose content the manual calls unpredictable or lost
(R7, R76, R77, R82, R135, Table 17-8). `gen` numbers the event that lost the range. [DESIGN CHOICE: log entry 1] -/
opaque freeByte : Nat → Nat → BitVec 8

/-- A 64-bit value the manual leaves open, one for each value of the free-value counter. [DESIGN CHOICE: log entry 1] -/
opaque freeWord : Nat → BitVec 64

/-- The operands of the KV check that the manual does not give (R263): 0 Q_FMT, 1 SM_SCALE, 2 KSCALE, 3 VSCALE, 4 POS_BASE, 5
ROPE_PAIRS, 6 + i entry i of the frequency table. [DESIGN CHOICE: log entry 40] -/
opaque kvCheck : Nat → BitVec 32

/-- The symbol or bit of the error that is found at a storage location in a grid cycle, which a record of it names (Table 18-12). [DESIGN CHOICE: log entry 250] -/
opaque eccSymbol : Nat → Nat → BitVec 8

end Sys2Proof.Config
end

