-- ==== Sys2Proof/Machine/Map.lean ====
section
/-! DEFINITION. Sparse maps from numbers, kept in one canonical form: keys strictly rising. -/

namespace Sys2Proof.Machine

/-- A sparse map from numbers to `V`. [DESIGN CHOICE: log entry 223] -/
abbrev SMap (V : Type) := List (Nat × V)

variable {V : Type}

/-- The value at `k`, if one is listed. -/
def mget : SMap V → Nat → Option V
  | [], _ => none
  | (a, v) :: r, k => if a = k then some v else mget r k

/-- `m` with `v` at `k`. [DESIGN CHOICE: log entry 223] -/
def mset : SMap V → Nat → V → SMap V
  | [], k, v => [(k, v)]
  | (a, w) :: r, k, v =>
    if k < a then (k, v) :: (a, w) :: r
    else if k = a then (k, v) :: r
    else (a, w) :: mset r k v

/-- `m` with nothing listed at `k`. -/
def mdel (m : SMap V) (k : Nat) : SMap V := m.filter (fun p => !(p.1 == k))

/-- `m` with every key of which `p` holds removed. -/
def mdelIf (m : SMap V) (p : Nat → Bool) : SMap V := m.filter (fun q => !(p q.1))

/-- The canonical form: keys strictly rising. -/
abbrev mwf (m : SMap V) : Prop := m.Pairwise fun a b => a.1 < b.1

/-- The value at `k`, or `d`. -/
def mgetD (m : SMap V) (k : Nat) (d : V) : V := (mget m k).getD d

/-- The listed keys. -/
def mkeys (m : SMap V) : List Nat := m.map Prod.fst

end Sys2Proof.Machine
end

