-- ==== Sys2Proof/Machine/Fields.lean ====
section
/-! DEFINITION. The register fields of every page, one per row of the manual's register tables
(R660, R679, Table 18-3 give the pages; each docstring names the table). -/

namespace Sys2Proof.Machine

/-- A register field: byte offset of its register from 0xF0_0000_0000, lowest bit, width, reset value (0 where
the table says X or LD: log entries 2 and 3). [DESIGN CHOICE: log entries 2, 3] -/
structure Fld where
  off : Nat
  lsb : Nat
  width : Nat
  reset : Nat
  deriving DecidableEq, Repr

/-- The key of a field in the register map. -/
def Fld.key (f : Fld) : Nat := f.off * 64 + f.lsb

/-- BT_HBM_CTRL SCRUB_HOURS, Table 2-9. -/
def BT_HBM_CTRL_SCRUB_HOURS (n : Nat) : Fld := ⟨(16 + 16 * n) * 0x10000 + (0x100), 24, 8, 24⟩
/-- BT_HBM_CTRL ROW_THR, Table 2-9. -/
def BT_HBM_CTRL_ROW_THR (n : Nat) : Fld := ⟨(16 + 16 * n) * 0x10000 + (0x100), 16, 8, 4⟩
/-- BT_HBM_CTRL SCRUB_EN, Table 2-9. -/
def BT_HBM_CTRL_SCRUB_EN (n : Nat) : Fld := ⟨(16 + 16 * n) * 0x10000 + (0x100), 0, 1, 1⟩
/-- BT_HBM_HEALTH PPR_LEFT (LD), Table 2-10. -/
def BT_HBM_HEALTH_PPR_LEFT (n : Nat) : Fld := ⟨(16 + 16 * n) * 0x10000 + (0x108), 22, 10, 0⟩
/-- BT_HBM_HEALTH REMAP_USED (LD), Table 2-10. -/
def BT_HBM_HEALTH_REMAP_USED (n : Nat) : Fld := ⟨(16 + 16 * n) * 0x10000 + (0x108), 9, 13, 0⟩
/-- BT_HBM_HEALTH LOST_USED, Table 2-10. -/
def BT_HBM_HEALTH_LOST_USED (n : Nat) : Fld := ⟨(16 + 16 * n) * 0x10000 + (0x108), 0, 9, 0⟩
/-- BT_LOST VALID, Table 2-11. -/
def BT_LOST_VALID (n i : Nat) : Fld := ⟨(16 + 16 * n) * 0x10000 + (0x400 + 8 * i), 63, 1, 0⟩
/-- BT_LOST BLOCK, Table 2-11. -/
def BT_LOST_BLOCK (n i : Nat) : Fld := ⟨(16 + 16 * n) * 0x10000 + (0x400 + 8 * i), 6, 42, 0⟩
/-- BT_HBM_CAP USABLE_PAGES (LD), Table 2-12. -/
def BT_HBM_CAP_USABLE_PAGES (n : Nat) : Fld := ⟨(16 + 16 * n) * 0x10000 + (0x10C), 0, 21, 0⟩
/-- BT_ECC_CNT UNCORR, Table 2-13. -/
def BT_ECC_CNT_UNCORR (n : Nat) : Fld := ⟨(16 + 16 * n) * 0x10000 + (0x110), 16, 16, 0⟩
/-- BT_ECC_CNT CORR, Table 2-13. -/
def BT_ECC_CNT_CORR (n : Nat) : Fld := ⟨(16 + 16 * n) * 0x10000 + (0x110), 0, 16, 0⟩
/-- BT_LINK_STAT DOWN, Table 2-14. -/
def BT_LINK_STAT_DOWN (n i : Nat) : Fld := ⟨(16 + 16 * n) * 0x10000 + (0x200 + 4 * i), 31, 1, 0⟩
/-- BT_LINK_STAT LANES_REPAIRED, Table 2-14. -/
def BT_LINK_STAT_LANES_REPAIRED (n i : Nat) : Fld := ⟨(16 + 16 * n) * 0x10000 + (0x200 + 4 * i), 24, 4, 0⟩
/-- BT_LINK_STAT REPLAYS, Table 2-14. -/
def BT_LINK_STAT_REPLAYS (n i : Nat) : Fld := ⟨(16 + 16 * n) * 0x10000 + (0x200 + 4 * i), 0, 16, 0⟩
/-- CE_CTR VALUE, Table 2-15. -/
def CE_CTR_VALUE (n i : Nat) : Fld := ⟨(17 + 16 * n) * 0x10000 + (0x1000 + 4 * i), 0, 16, 0⟩
/-- CE_STATUS CTR_OVF, Table 2-16. -/
def CE_STATUS_CTR_OVF (n : Nat) : Fld := ⟨(17 + 16 * n) * 0x10000 + (0x18), 16, 1, 0⟩
/-- CE_STATUS BUSY, Table 2-16. -/
def CE_STATUS_BUSY (n : Nat) : Fld := ⟨(17 + 16 * n) * 0x10000 + (0x18), 0, 16, 0⟩
/-- CE_INFLIGHT CREDITS, Table 2-17. -/
def CE_INFLIGHT_CREDITS (n i : Nat) : Fld := ⟨(17 + 16 * n) * 0x10000 + (0x100 + 1 * i), 0, 7, 64⟩
/-- CE_CVT_CNT NAN_LOST, Table 3-7. -/
def CE_CVT_CNT_NAN_LOST (n : Nat) : Fld := ⟨(17 + 16 * n) * 0x10000 + (0x180), 16, 16, 0⟩
/-- CE_CVT_CNT OUT_OF_RANGE, Table 3-7. -/
def CE_CVT_CNT_OUT_OF_RANGE (n : Nat) : Fld := ⟨(17 + 16 * n) * 0x10000 + (0x180), 0, 16, 0⟩
/-- TE_CAP SPARE_FREE (LD), Table 4-13. -/
def TE_CAP_SPARE_FREE (n : Nat) : Fld := ⟨(22 + 16 * (n / 9) + n % 9) * 0x10000 + (0x8), 8, 1, 0⟩
/-- TE_CAP BANKS, Table 4-13. -/
def TE_CAP_BANKS (n : Nat) : Fld := ⟨(22 + 16 * (n / 9) + n % 9) * 0x10000 + (0x8), 4, 4, 4⟩
/-- TE_CAP ACTIVE_ON_DIE (LD), Table 4-13. -/
def TE_CAP_ACTIVE_ON_DIE (n : Nat) : Fld := ⟨(22 + 16 * (n / 9) + n % 9) * 0x10000 + (0x8), 0, 4, 0⟩
/-- TE_CTRL GATE_IDLE, Table 4-14. -/
def TE_CTRL_GATE_IDLE (n : Nat) : Fld := ⟨(22 + 16 * (n / 9) + n % 9) * 0x10000 + (0x10), 8, 1, 1⟩
/-- TE_CTRL SIG_TEST, Table 4-14. -/
def TE_CTRL_SIG_TEST (n : Nat) : Fld := ⟨(22 + 16 * (n / 9) + n % 9) * 0x10000 + (0x10), 1, 1, 0⟩
/-- TE_STATUS SERVES (LD), Table 4-15. -/
def TE_STATUS_SERVES (n : Nat) : Fld := ⟨(22 + 16 * (n / 9) + n % 9) * 0x10000 + (0x18), 24, 4, 0⟩
/-- TE_STATUS STATE (LD), Table 4-15. -/
def TE_STATUS_STATE (n : Nat) : Fld := ⟨(22 + 16 * (n / 9) + n % 9) * 0x10000 + (0x18), 16, 3, 0⟩
/-- TE_STATUS SUSPENDED, Table 4-15. -/
def TE_STATUS_SUSPENDED (n : Nat) : Fld := ⟨(22 + 16 * (n / 9) + n % 9) * 0x10000 + (0x18), 9, 1, 0⟩
/-- TE_STATUS BUSY, Table 4-15. -/
def TE_STATUS_BUSY (n : Nat) : Fld := ⟨(22 + 16 * (n / 9) + n % 9) * 0x10000 + (0x18), 8, 1, 0⟩
/-- TE_STATUS GOLD_STEP, Table 4-15. -/
def TE_STATUS_GOLD_STEP (n : Nat) : Fld := ⟨(22 + 16 * (n / 9) + n % 9) * 0x10000 + (0x18), 0, 5, 0⟩
/-- TE_GOLD_STAT MISMATCH, Table 4-16. -/
def TE_GOLD_STAT_MISMATCH (n : Nat) : Fld := ⟨(22 + 16 * (n / 9) + n % 9) * 0x10000 + (0x100), 31, 1, 0⟩
/-- TE_GOLD_STAT MISSING, Table 4-16. -/
def TE_GOLD_STAT_MISSING (n : Nat) : Fld := ⟨(22 + 16 * (n / 9) + n % 9) * 0x10000 + (0x100), 30, 1, 0⟩
/-- TE_GOLD_STAT TEST_SEEN, Table 4-16. -/
def TE_GOLD_STAT_TEST_SEEN (n : Nat) : Fld := ⟨(22 + 16 * (n / 9) + n % 9) * 0x10000 + (0x100), 29, 1, 0⟩
/-- TE_GOLD_STAT FAIL_CNT, Table 4-16. -/
def TE_GOLD_STAT_FAIL_CNT (n : Nat) : Fld := ⟨(22 + 16 * (n / 9) + n % 9) * 0x10000 + (0x100), 0, 16, 0⟩
/-- TE_GOLD_LAST SIG, Table 4-17. -/
def TE_GOLD_LAST_SIG (n : Nat) : Fld := ⟨(22 + 16 * (n / 9) + n % 9) * 0x10000 + (0x108), 0, 64, 0⟩
/-- TE_HEALTH FAIL_COUNT (LD), Table 4-18. -/
def TE_HEALTH_FAIL_COUNT (n : Nat) : Fld := ⟨(22 + 16 * (n / 9) + n % 9) * 0x10000 + (0x110), 0, 2, 0⟩
/-- TE_PRE PRE_CNT, Table 4-19. -/
def TE_PRE_PRE_CNT (n : Nat) : Fld := ⟨(22 + 16 * (n / 9) + n % 9) * 0x10000 + (0x118), 16, 16, 0⟩
/-- TE_PRE PRE_MAX, Table 4-19. -/
def TE_PRE_PRE_MAX (n : Nat) : Fld := ⟨(22 + 16 * (n / 9) + n % 9) * 0x10000 + (0x118), 0, 16, 0⟩
/-- TE_CVT_CNT NAN_LOST, Table 4-20. -/
def TE_CVT_CNT_NAN_LOST (n : Nat) : Fld := ⟨(22 + 16 * (n / 9) + n % 9) * 0x10000 + (0x120), 16, 16, 0⟩
/-- TE_CVT_CNT OUT_OF_RANGE, Table 4-20. -/
def TE_CVT_CNT_OUT_OF_RANGE (n : Nat) : Fld := ⟨(22 + 16 * (n / 9) + n % 9) * 0x10000 + (0x120), 0, 16, 0⟩
/-- TE_ACC_CNT ACC_SAT, Table 4-20. -/
def TE_ACC_CNT_ACC_SAT (n : Nat) : Fld := ⟨(22 + 16 * (n / 9) + n % 9) * 0x10000 + (0x124), 0, 16, 0⟩
/-- TE_GOLD_SIG SIG (LD), Table 4-20. -/
def TE_GOLD_SIG_SIG (n i : Nat) : Fld := ⟨(22 + 16 * (n / 9) + n % 9) * 0x10000 + (0x140 + 8 * i), 0, 64, 0⟩
/-- TE_SCALE_CNT CATCH_ROWS, Table 5-6. -/
def TE_SCALE_CNT_CATCH_ROWS (n : Nat) : Fld := ⟨(22 + 16 * (n / 9) + n % 9) * 0x10000 + (0x128), 16, 16, 0⟩
/-- TE_SCALE_CNT CLIP_ROWS, Table 5-6. -/
def TE_SCALE_CNT_CLIP_ROWS (n : Nat) : Fld := ⟨(22 + 16 * (n / 9) + n % 9) * 0x10000 + (0x128), 0, 16, 0⟩
/-- TE_REDO_CNT REDO_DENIED, Table 5-7. -/
def TE_REDO_CNT_REDO_DENIED (n : Nat) : Fld := ⟨(22 + 16 * (n / 9) + n % 9) * 0x10000 + (0x12C), 16, 16, 0⟩
/-- TE_REDO_CNT REDO_BLOCKS, Table 5-7. -/
def TE_REDO_CNT_REDO_BLOCKS (n : Nat) : Fld := ⟨(22 + 16 * (n / 9) + n % 9) * 0x10000 + (0x12C), 0, 16, 0⟩
/-- TE_SCALE_LAST P, Table 5-8. -/
def TE_SCALE_LAST_P (n : Nat) : Fld := ⟨(22 + 16 * (n / 9) + n % 9) * 0x10000 + (0x130), 0, 32, 0⟩
/-- TE_CTRL_CHK INF_SEEN, Table 5-9. -/
def TE_CTRL_CHK_INF_SEEN (n : Nat) : Fld := ⟨(22 + 16 * (n / 9) + n % 9) * 0x10000 + (0x134), 2, 1, 0⟩
/-- TE_CTRL_CHK SAT_SEEN, Table 5-9. -/
def TE_CTRL_CHK_SAT_SEEN (n : Nat) : Fld := ⟨(22 + 16 * (n / 9) + n % 9) * 0x10000 + (0x134), 1, 1, 0⟩
/-- TE_CTRL_CHK NAN_SEEN, Table 5-9. -/
def TE_CTRL_CHK_NAN_SEEN (n : Nat) : Fld := ⟨(22 + 16 * (n / 9) + n % 9) * 0x10000 + (0x134), 0, 1, 0⟩
/-- KV_POOL_BASE BASE, Table 6-8. -/
def KV_POOL_BASE_BASE (n : Nat) : Fld := ⟨(20 + 16 * n) * 0x10000 + (0x100), 15, 33, 0⟩
/-- KV_POOL_PAGES PAGES, Table 6-9. -/
def KV_POOL_PAGES_PAGES (n : Nat) : Fld := ⟨(20 + 16 * n) * 0x10000 + (0x108), 0, 20, 0⟩
/-- KV_PT_BASE BASE, Table 6-10. -/
def KV_PT_BASE_BASE (n : Nat) : Fld := ⟨(20 + 16 * n) * 0x10000 + (0x110), 12, 36, 0⟩
/-- KV_CTX_BASE BASE, Table 6-10. -/
def KV_CTX_BASE_BASE (n : Nat) : Fld := ⟨(20 + 16 * n) * 0x10000 + (0x118), 12, 36, 0⟩
/-- KV_CTRL SIG_TEST, Table 6-11. -/
def KV_CTRL_SIG_TEST (n : Nat) : Fld := ⟨(20 + 16 * n) * 0x10000 + (0x10), 1, 1, 0⟩
/-- KV_STATUS STATE (LD), Table 6-11. -/
def KV_STATUS_STATE (n : Nat) : Fld := ⟨(20 + 16 * n) * 0x10000 + (0x18), 16, 3, 0⟩
/-- KV_STATUS SUSPENDED, Table 6-11. -/
def KV_STATUS_SUSPENDED (n : Nat) : Fld := ⟨(20 + 16 * n) * 0x10000 + (0x18), 9, 1, 0⟩
/-- KV_STATUS BUSY, Table 6-11. -/
def KV_STATUS_BUSY (n : Nat) : Fld := ⟨(20 + 16 * n) * 0x10000 + (0x18), 8, 1, 0⟩
/-- KV_STALE_CNT DROPPED, Table 6-12. -/
def KV_STALE_CNT_DROPPED (n : Nat) : Fld := ⟨(20 + 16 * n) * 0x10000 + (0x120), 16, 16, 0⟩
/-- KV_STALE_CNT REPLACED, Table 6-12. -/
def KV_STALE_CNT_REPLACED (n : Nat) : Fld := ⟨(20 + 16 * n) * 0x10000 + (0x120), 0, 16, 0⟩
/-- KV_MISC_CNT BLOCKS_SKIPPED, Table 6-13. -/
def KV_MISC_CNT_BLOCKS_SKIPPED (n : Nat) : Fld := ⟨(20 + 16 * n) * 0x10000 + (0x124), 16, 16, 0⟩
/-- KV_MISC_CNT OUT_OF_RANGE, Table 6-13. -/
def KV_MISC_CNT_OUT_OF_RANGE (n : Nat) : Fld := ⟨(20 + 16 * n) * 0x10000 + (0x124), 0, 16, 0⟩
/-- KV_GOLD_STAT MISMATCH, Table 6-14. -/
def KV_GOLD_STAT_MISMATCH (n : Nat) : Fld := ⟨(20 + 16 * n) * 0x10000 + (0x130), 31, 1, 0⟩
/-- KV_GOLD_STAT MISSING, Table 6-14. -/
def KV_GOLD_STAT_MISSING (n : Nat) : Fld := ⟨(20 + 16 * n) * 0x10000 + (0x130), 30, 1, 0⟩
/-- KV_GOLD_STAT TEST_SEEN, Table 6-14. -/
def KV_GOLD_STAT_TEST_SEEN (n : Nat) : Fld := ⟨(20 + 16 * n) * 0x10000 + (0x130), 29, 1, 0⟩
/-- KV_GOLD_STAT FAIL_CNT, Table 6-14. -/
def KV_GOLD_STAT_FAIL_CNT (n : Nat) : Fld := ⟨(20 + 16 * n) * 0x10000 + (0x130), 0, 16, 0⟩
/-- KV_GOLD_SIG SIG (LD), Table 6-15. -/
def KV_GOLD_SIG_SIG (n i : Nat) : Fld := ⟨(20 + 16 * n) * 0x10000 + (0x140 + 8 * i), 0, 64, 0⟩
/-- KV_HOT_STAT PINNED, Table 6-16. -/
def KV_HOT_STAT_PINNED : Fld := ⟨(12) * 0x10000 + (0x100), 16, 12, 0⟩
/-- KV_HOT_STAT MISSES, Table 6-16. -/
def KV_HOT_STAT_MISSES : Fld := ⟨(12) * 0x10000 + (0x100), 0, 16, 0⟩
/-- RM_QSEL Q, Table 7-1. -/
def RM_QSEL_Q : Fld := ⟨(3) * 0x10000 + (0x140), 0, 16, 0⟩
/-- RM_QCFG0 ENABLE, Table 7-1. -/
def RM_QCFG0_ENABLE : Fld := ⟨(3) * 0x10000 + (0x148), 63, 1, 0⟩
/-- RM_QCFG0 CLASS, Table 7-1. -/
def RM_QCFG0_CLASS : Fld := ⟨(3) * 0x10000 + (0x148), 62, 1, 0⟩
/-- RM_QCFG0 MODE, Table 7-1. -/
def RM_QCFG0_MODE : Fld := ⟨(3) * 0x10000 + (0x148), 61, 1, 0⟩
/-- RM_QCFG0 RING_LOG2, Table 7-1. -/
def RM_QCFG0_RING_LOG2 : Fld := ⟨(3) * 0x10000 + (0x148), 56, 5, 1⟩
/-- RM_QCFG0 COMP_LOG2, Table 7-1. -/
def RM_QCFG0_COMP_LOG2 : Fld := ⟨(3) * 0x10000 + (0x148), 51, 5, 1⟩
/-- RM_QCFG0 QLOCK, Table 7-1. -/
def RM_QCFG0_QLOCK : Fld := ⟨(3) * 0x10000 + (0x148), 50, 1, 0⟩
/-- RM_QCFG0 RING_BASE, Table 7-1. -/
def RM_QCFG0_RING_BASE : Fld := ⟨(3) * 0x10000 + (0x148), 0, 48, 0⟩
/-- RM_QCFG1 CLIENT, Table 7-1. -/
def RM_QCFG1_CLIENT : Fld := ⟨(3) * 0x10000 + (0x150), 54, 10, 0⟩
/-- RM_QCFG1 TICKET, Table 7-1. -/
def RM_QCFG1_TICKET : Fld := ⟨(3) * 0x10000 + (0x150), 48, 6, 63⟩
/-- RM_QCFG1 COMP_BASE, Table 7-1. -/
def RM_QCFG1_COMP_BASE : Fld := ⟨(3) * 0x10000 + (0x150), 0, 48, 0⟩
/-- RM_QCFG2 IRQ_HART, Table 7-1. -/
def RM_QCFG2_IRQ_HART : Fld := ⟨(3) * 0x10000 + (0x158), 48, 4, 0⟩
/-- RM_QCFG2 IRQ_ID, Table 7-1. -/
def RM_QCFG2_IRQ_ID : Fld := ⟨(3) * 0x10000 + (0x158), 33, 11, 0⟩
/-- RM_QCFG2 IRQ_EN, Table 7-1. -/
def RM_QCFG2_IRQ_EN : Fld := ⟨(3) * 0x10000 + (0x158), 32, 1, 0⟩
/-- RM_QCFG2 UNIT, Table 7-1. -/
def RM_QCFG2_UNIT : Fld := ⟨(3) * 0x10000 + (0x158), 16, 9, 0⟩
/-- RM_QCFG2 OWNER, Table 7-1. -/
def RM_QCFG2_OWNER : Fld := ⟨(3) * 0x10000 + (0x158), 0, 12, 0⟩
/-- RM_QCFG3 HEAD, Table 7-1. -/
def RM_QCFG3_HEAD : Fld := ⟨(3) * 0x10000 + (0x160), 32, 32, 0⟩
/-- RM_QCFG3 TAIL, Table 7-1. -/
def RM_QCFG3_TAIL : Fld := ⟨(3) * 0x10000 + (0x160), 0, 32, 0⟩
/-- RM_QCFG4 CTAIL, Table 7-1. -/
def RM_QCFG4_CTAIL : Fld := ⟨(3) * 0x10000 + (0x168), 32, 32, 0⟩
/-- RM_QCFG4 CHEAD, Table 7-1. -/
def RM_QCFG4_CHEAD : Fld := ⟨(3) * 0x10000 + (0x168), 0, 32, 0⟩
/-- RM_QSTAT FAULT, Table 7-1. -/
def RM_QSTAT_FAULT : Fld := ⟨(3) * 0x10000 + (0x170), 31, 1, 0⟩
/-- RM_QSTAT DB_ERR, Table 7-1. -/
def RM_QSTAT_DB_ERR : Fld := ⟨(3) * 0x10000 + (0x170), 30, 1, 0⟩
/-- RM_QSTAT DB_DENY, Table 7-1. -/
def RM_QSTAT_DB_DENY : Fld := ⟨(3) * 0x10000 + (0x170), 29, 1, 0⟩
/-- RM_QSTAT DROPPED, Table 7-1. -/
def RM_QSTAT_DROPPED : Fld := ⟨(3) * 0x10000 + (0x170), 0, 16, 0⟩
/-- RM_CTRL SG_EN_ALL, Table 7-9. -/
def RM_CTRL_SG_EN_ALL : Fld := ⟨(3) * 0x10000 + (0x10), 0, 1, 1⟩
/-- RM_STATUS PLAN, Table 7-9. -/
def RM_STATUS_PLAN : Fld := ⟨(3) * 0x10000 + (0x18), 30, 2, 0⟩
/-- RM_STATUS STAGED, Table 7-9. -/
def RM_STATUS_STAGED : Fld := ⟨(3) * 0x10000 + (0x18), 29, 1, 0⟩
/-- RM_STATUS DEGRADED, Table 7-9. -/
def RM_STATUS_DEGRADED : Fld := ⟨(3) * 0x10000 + (0x18), 28, 1, 0⟩
/-- RM_STATUS FRAME_IDX, Table 7-9. -/
def RM_STATUS_FRAME_IDX : Fld := ⟨(3) * 0x10000 + (0x18), 0, 5, 0⟩
/-- RM_PLAN_ADDR ADDR, Table 7-11. -/
def RM_PLAN_ADDR_ADDR : Fld := ⟨(3) * 0x10000 + (0x100), 0, 48, 0⟩
/-- RM_PLAN_CMD CMD, Table 7-11. -/
def RM_PLAN_CMD_CMD : Fld := ⟨(3) * 0x10000 + (0x108), 0, 3, 0⟩
/-- RM_PLAN_STAT REJ_REASON, Table 7-11. -/
def RM_PLAN_STAT_REJ_REASON : Fld := ⟨(3) * 0x10000 + (0x110), 8, 8, 0⟩
/-- RM_PLAN_STAT LAST, Table 7-11. -/
def RM_PLAN_STAT_LAST : Fld := ⟨(3) * 0x10000 + (0x110), 0, 2, 0⟩
/-- RM_PLAN_ID ID, Table 7-11. -/
def RM_PLAN_ID_ID : Fld := ⟨(3) * 0x10000 + (0x118), 0, 64, 0⟩
/-- RM_FRAME MAJOR, Table 7-11. -/
def RM_FRAME_MAJOR : Fld := ⟨(3) * 0x10000 + (0x120), 0, 48, 0⟩
/-- RM_MISS_CNT WCET_OVER, Table 7-12. -/
def RM_MISS_CNT_WCET_OVER : Fld := ⟨(3) * 0x10000 + (0x180), 32, 16, 0⟩
/-- RM_MISS_CNT PERC_MISS, Table 7-12. -/
def RM_MISS_CNT_PERC_MISS : Fld := ⟨(3) * 0x10000 + (0x180), 16, 16, 0⟩
/-- RM_MISS_CNT CTRL_MISS, Table 7-12. -/
def RM_MISS_CNT_CTRL_MISS : Fld := ⟨(3) * 0x10000 + (0x180), 0, 16, 0⟩
/-- RM_CHARGE_W NRG_W, Table 7-12. -/
def RM_CHARGE_W_NRG_W : Fld := ⟨(3) * 0x10000 + (0x188), 32, 16, 0⟩
/-- RM_CHARGE_W BYTE_W, Table 7-12. -/
def RM_CHARGE_W_BYTE_W : Fld := ⟨(3) * 0x10000 + (0x188), 16, 16, 0⟩
/-- RM_CHARGE_W CYC_W, Table 7-12. -/
def RM_CHARGE_W_CYC_W : Fld := ⟨(3) * 0x10000 + (0x188), 0, 16, 1⟩
/-- RM_SVT SVT, Table 7-12. -/
def RM_SVT_SVT : Fld := ⟨(3) * 0x10000 + (0x190), 0, 64, 0⟩
/-- RM_UNIT_STAT SHED_SEEN, Table 7-12. -/
def RM_UNIT_STAT_SHED_SEEN (i : Nat) : Fld := ⟨(3) * 0x10000 + (0x800 + 4 * i), 2, 1, 0⟩
/-- RM_UNIT_STAT BACKUP_MODE, Table 7-12. -/
def RM_UNIT_STAT_BACKUP_MODE (i : Nat) : Fld := ⟨(3) * 0x10000 + (0x800 + 4 * i), 1, 1, 0⟩
/-- RM_UNIT_STAT BACKUP_NOW, Table 7-12. -/
def RM_UNIT_STAT_BACKUP_NOW (i : Nat) : Fld := ⟨(3) * 0x10000 + (0x800 + 4 * i), 0, 1, 0⟩
/-- RM_SG_CFG ENABLE, Table 7-13. -/
def RM_SG_CFG_ENABLE (i : Nat) : Fld := ⟨(3) * 0x10000 + (0x400 + 8 * i), 63, 1, 0⟩
/-- RM_SG_CFG POST_EN, Table 7-13. -/
def RM_SG_CFG_POST_EN (i : Nat) : Fld := ⟨(3) * 0x10000 + (0x400 + 8 * i), 58, 1, 0⟩
/-- RM_SG_CFG CTR_DIE, Table 7-13. -/
def RM_SG_CFG_CTR_DIE (i : Nat) : Fld := ⟨(3) * 0x10000 + (0x400 + 8 * i), 56, 2, 0⟩
/-- RM_SG_CFG POST_CTR, Table 7-13. -/
def RM_SG_CFG_POST_CTR (i : Nat) : Fld := ⟨(3) * 0x10000 + (0x400 + 8 * i), 48, 8, 0⟩
/-- RM_SG_CFG BUF_BASE, Table 7-13. -/
def RM_SG_CFG_BUF_BASE (i : Nat) : Fld := ⟨(3) * 0x10000 + (0x400 + 8 * i), 0, 48, 0⟩
/-- RM_SG_REQ QROWS, Table 7-13. -/
def RM_SG_REQ_QROWS : Fld := ⟨(3) * 0x10000 + (0x480), 32, 20, 0⟩
/-- RM_SG_REQ OP, Table 7-13. -/
def RM_SG_REQ_OP : Fld := ⟨(3) * 0x10000 + (0x480), 22, 2, 0⟩
/-- RM_SG_REQ GROUP, Table 7-13. -/
def RM_SG_REQ_GROUP : Fld := ⟨(3) * 0x10000 + (0x480), 18, 4, 0⟩
/-- RM_SG_REQ CTX, Table 7-13. -/
def RM_SG_REQ_CTX : Fld := ⟨(3) * 0x10000 + (0x480), 0, 18, 0⟩
/-- RM_SG_STEP GROUP_MASK, Table 7-13. -/
def RM_SG_STEP_GROUP_MASK : Fld := ⟨(3) * 0x10000 + (0x488), 0, 16, 0⟩
/-- RM_SG_STAT STEP_MERGED, Table 7-13. -/
def RM_SG_STAT_STEP_MERGED (i : Nat) : Fld := ⟨(3) * 0x10000 + (0x4C0 + 8 * i), 50, 1, 0⟩
/-- RM_SG_STAT REQ_ERR, Table 7-13. -/
def RM_SG_STAT_REQ_ERR (i : Nat) : Fld := ⟨(3) * 0x10000 + (0x4C0 + 8 * i), 49, 1, 0⟩
/-- RM_SG_STAT PENDING, Table 7-13. -/
def RM_SG_STAT_PENDING (i : Nat) : Fld := ⟨(3) * 0x10000 + (0x4C0 + 8 * i), 48, 1, 0⟩
/-- RM_SG_STAT MEMBERS, Table 7-13. -/
def RM_SG_STAT_MEMBERS (i : Nat) : Fld := ⟨(3) * 0x10000 + (0x4C0 + 8 * i), 32, 11, 0⟩
/-- RM_SG_STAT STEP, Table 7-13. -/
def RM_SG_STAT_STEP (i : Nat) : Fld := ⟨(3) * 0x10000 + (0x4C0 + 8 * i), 0, 32, 0⟩
/-- RM_CLIENT_SHARE SHARE, Table 7-14. -/
def RM_CLIENT_SHARE_SHARE (i : Nat) : Fld := ⟨(3) * 0x10000 + (0x1000 + 4 * i), 0, 16, 0⟩
/-- RM_CLIENT_ACCT CYCLES, Table 7-14. -/
def RM_CLIENT_ACCT_CYCLES (i : Nat) : Fld := ⟨(3) * 0x10000 + (0x8000 + 32 * i), 0, 64, 0⟩
/-- RM_CLIENT_ACCT BYTES, Table 7-14. -/
def RM_CLIENT_ACCT_BYTES (i : Nat) : Fld := ⟨(3) * 0x10000 + (0x8008 + 32 * i), 0, 64, 0⟩
/-- RM_CLIENT_ACCT ENERGY_UJ, Table 7-14. -/
def RM_CLIENT_ACCT_ENERGY_UJ (i : Nat) : Fld := ⟨(3) * 0x10000 + (0x8010 + 32 * i), 10, 54, 0⟩
/-- RM_CLIENT_ACCT ENERGY_FRAC, Table 7-14. -/
def RM_CLIENT_ACCT_ENERGY_FRAC (i : Nat) : Fld := ⟨(3) * 0x10000 + (0x8010 + 32 * i), 0, 10, 0⟩
/-- RM_CLIENT_ACCT VT, Table 7-14. -/
def RM_CLIENT_ACCT_VT (i : Nat) : Fld := ⟨(3) * 0x10000 + (0x8018 + 32 * i), 0, 64, 0⟩
/-- FW_CTRL SC_LOCK, Table 8-8. -/
def FW_CTRL_SC_LOCK (n : Nat) : Fld := ⟨(if n = 4 then 10 else 18 + 16 * n) * 0x10000 + (0x10), 0, 1, 0⟩
/-- FW_STATUS SYNC_PEND, Table 8-8. -/
def FW_STATUS_SYNC_PEND : Fld := ⟨(10) * 0x10000 + (0x18), 0, 1, 0⟩
/-- FW_VIOL_INFO VALID, Table 8-10. -/
def FW_VIOL_INFO_VALID (n : Nat) : Fld := ⟨(if n = 4 then 10 else 18 + 16 * n) * 0x10000 + (0x100), 63, 1, 0⟩
/-- FW_VIOL_INFO SC, Table 8-10. -/
def FW_VIOL_INFO_SC (n : Nat) : Fld := ⟨(if n = 4 then 10 else 18 + 16 * n) * 0x10000 + (0x100), 62, 1, 0⟩
/-- FW_VIOL_INFO ACC, Table 8-10. -/
def FW_VIOL_INFO_ACC (n : Nat) : Fld := ⟨(if n = 4 then 10 else 18 + 16 * n) * 0x10000 + (0x100), 58, 2, 0⟩
/-- FW_VIOL_INFO TICKET, Table 8-10. -/
def FW_VIOL_INFO_TICKET (n : Nat) : Fld := ⟨(if n = 4 then 10 else 18 + 16 * n) * 0x10000 + (0x100), 52, 6, 0⟩
/-- FW_VIOL_INFO INIT, Table 8-10. -/
def FW_VIOL_INFO_INIT (n : Nat) : Fld := ⟨(if n = 4 then 10 else 18 + 16 * n) * 0x10000 + (0x100), 40, 12, 0⟩
/-- FW_VIOL_INFO WIN, Table 8-10. -/
def FW_VIOL_INFO_WIN (n : Nat) : Fld := ⟨(if n = 4 then 10 else 18 + 16 * n) * 0x10000 + (0x100), 30, 10, 0⟩
/-- FW_VIOL_INFO COUNT, Table 8-10. -/
def FW_VIOL_INFO_COUNT (n : Nat) : Fld := ⟨(if n = 4 then 10 else 18 + 16 * n) * 0x10000 + (0x100), 0, 16, 0⟩
/-- FW_VIOL_ADDR ADDR, Table 8-10. -/
def FW_VIOL_ADDR_ADDR (n : Nat) : Fld := ⟨(if n = 4 then 10 else 18 + 16 * n) * 0x10000 + (0x108), 0, 48, 0⟩
/-- FW_TS_RATE RATE, Table 8-11. -/
def FW_TS_RATE_RATE (n i : Nat) : Fld := ⟨(if n = 4 then 10 else 18 + 16 * n) * 0x10000 + (0x1000 + 16 * i), 32, 16, 0⟩
/-- FW_TS_RATE BURST, Table 8-11. -/
def FW_TS_RATE_BURST (n i : Nat) : Fld := ⟨(if n = 4 then 10 else 18 + 16 * n) * 0x10000 + (0x1000 + 16 * i), 0, 32, 0⟩
/-- FW_TS_BUDGET LEVEL, Table 8-11. -/
def FW_TS_BUDGET_LEVEL (n i : Nat) : Fld := ⟨(if n = 4 then 10 else 18 + 16 * n) * 0x10000 + (0x1008 + 16 * i), 32, 32, 0⟩
/-- FW_TS_BUDGET BUDGET, Table 8-11. -/
def FW_TS_BUDGET_BUDGET (n i : Nat) : Fld := ⟨(if n = 4 then 10 else 18 + 16 * n) * 0x10000 + (0x1008 + 16 * i), 0, 32, 0⟩
/-- FW_GM_LAT LAT_LIM, Table 8-11. -/
def FW_GM_LAT_LAT_LIM (n i : Nat) : Fld := ⟨(if n = 4 then 10 else 18 + 16 * n) * 0x10000 + (0x400 + 4 * i), 0, 16, if n = 4 then 46 else if i = 0 then 108 else if i < 4 then 52 else 46⟩
/-- FW_GM_MISS TKT, Table 8-11. -/
def FW_GM_MISS_TKT (n i : Nat) : Fld := ⟨(if n = 4 then 10 else 18 + 16 * n) * 0x10000 + (0x440 + 8 * i), 0, 64, 0⟩
/-- FW_GM_CNT LAT_MISS, Table 8-11. -/
def FW_GM_CNT_LAT_MISS (n i : Nat) : Fld := ⟨(if n = 4 then 10 else 18 + 16 * n) * 0x10000 + (0x480 + 4 * i), 16, 16, 0⟩
/-- FW_GM_CNT BW_MISS, Table 8-11. -/
def FW_GM_CNT_BW_MISS (n i : Nat) : Fld := ⟨(if n = 4 then 10 else 18 + 16 * n) * 0x10000 + (0x480 + 4 * i), 0, 16, 0⟩
/-- FW_TS_HOLD HOLDS, Table 8-11. -/
def FW_TS_HOLD_HOLDS (n i : Nat) : Fld := ⟨(if n = 4 then 10 else 18 + 16 * n) * 0x10000 + (0x4C0 + 4 * i), 0, 16, 0⟩
/-- FW_TKT_ALLOW HARTS_0_7, Table 8-12. -/
def FW_TKT_ALLOW_HARTS_0_7 : Fld := ⟨(10) * 0x10000 + (0x200), 0, 64, 0⟩
/-- FW_TKT_ALLOW HARTS_8_15, Table 8-12. -/
def FW_TKT_ALLOW_HARTS_8_15 : Fld := ⟨(10) * 0x10000 + (0x208), 0, 64, 0⟩
/-- FW_HK_TKT PLAN_TKT, Table 8-12. -/
def FW_HK_TKT_PLAN_TKT : Fld := ⟨(10) * 0x10000 + (0x210), 16, 6, 62⟩
/-- FW_HK_TKT LOG_TKT, Table 8-12. -/
def FW_HK_TKT_LOG_TKT : Fld := ⟨(10) * 0x10000 + (0x210), 8, 6, 8⟩
/-- FW_HK_TKT CTX_TKT, Table 8-12. -/
def FW_HK_TKT_CTX_TKT : Fld := ⟨(10) * 0x10000 + (0x210), 0, 6, 62⟩
/-- FW_IO_TKT TICKET, Table 8-12. -/
def FW_IO_TKT_TICKET (i : Nat) : Fld := ⟨(10) * 0x10000 + (0x300 + 4 * i), 0, 6, 63⟩
/-- FW_WIN EN, Table 8-13. -/
def FW_WIN_EN (i : Nat) : Fld := ⟨(10) * 0x10000 + (0x4000 + 32 * i), 63, 1, 0⟩
/-- FW_WIN LOCK, Table 8-13. -/
def FW_WIN_LOCK (i : Nat) : Fld := ⟨(10) * 0x10000 + (0x4000 + 32 * i), 62, 1, 0⟩
/-- FW_WIN BASE, Table 8-13. -/
def FW_WIN_BASE (i : Nat) : Fld := ⟨(10) * 0x10000 + (0x4000 + 32 * i), 12, 36, 0⟩
/-- FW_WIN X, Table 8-13. -/
def FW_WIN_X (i : Nat) : Fld := ⟨(10) * 0x10000 + (0x4000 + 32 * i), 3, 1, 0⟩
/-- FW_WIN A, Table 8-13. -/
def FW_WIN_A (i : Nat) : Fld := ⟨(10) * 0x10000 + (0x4000 + 32 * i), 2, 1, 0⟩
/-- FW_WIN W, Table 8-13. -/
def FW_WIN_W (i : Nat) : Fld := ⟨(10) * 0x10000 + (0x4000 + 32 * i), 1, 1, 0⟩
/-- FW_WIN R, Table 8-13. -/
def FW_WIN_R (i : Nat) : Fld := ⟨(10) * 0x10000 + (0x4000 + 32 * i), 0, 1, 0⟩
/-- FW_WIN LIMIT, Table 8-13. -/
def FW_WIN_LIMIT (i : Nat) : Fld := ⟨(10) * 0x10000 + (0x4008 + 32 * i), 12, 36, 0⟩
/-- FW_WIN ID_MASK, Table 8-13. -/
def FW_WIN_ID_MASK (i : Nat) : Fld := ⟨(10) * 0x10000 + (0x4010 + 32 * i), 16, 12, 0⟩
/-- FW_WIN ID_VAL, Table 8-13. -/
def FW_WIN_ID_VAL (i : Nat) : Fld := ⟨(10) * 0x10000 + (0x4010 + 32 * i), 0, 12, 0⟩
/-- FW_WIN TKT_MASK, Table 8-13. -/
def FW_WIN_TKT_MASK (i : Nat) : Fld := ⟨(10) * 0x10000 + (0x4018 + 32 * i), 0, 64, 0⟩
/-- TM_CTRL PROFILE, Table 9-5. -/
def TM_CTRL_PROFILE : Fld := ⟨(8) * 0x10000 + (0x10), 3, 1, 0⟩
/-- TM_CTRL STEP_EN, Table 9-5. -/
def TM_CTRL_STEP_EN : Fld := ⟨(8) * 0x10000 + (0x10), 2, 1, 1⟩
/-- TM_CTRL SERVO_EN, Table 9-5. -/
def TM_CTRL_SERVO_EN : Fld := ⟨(8) * 0x10000 + (0x10), 1, 1, 0⟩
/-- TM_CTRL PTP_EN, Table 9-5. -/
def TM_CTRL_PTP_EN : Fld := ⟨(8) * 0x10000 + (0x10), 0, 1, 0⟩
/-- TM_STATUS REF_LOST, Table 9-5. -/
def TM_STATUS_REF_LOST : Fld := ⟨(8) * 0x10000 + (0x18), 3, 1, 0⟩
/-- TM_STATUS HOLDOVER, Table 9-5. -/
def TM_STATUS_HOLDOVER : Fld := ⟨(8) * 0x10000 + (0x18), 2, 1, 0⟩
/-- TM_STATUS LOCKED, Table 9-5. -/
def TM_STATUS_LOCKED : Fld := ⟨(8) * 0x10000 + (0x18), 1, 1, 0⟩
/-- TM_STATUS PLL_LOCK, Table 9-5. -/
def TM_STATUS_PLL_LOCK : Fld := ⟨(8) * 0x10000 + (0x18), 0, 1, 0⟩
/-- TM_TIME_SEC SEC, Table 9-7. -/
def TM_TIME_SEC_SEC : Fld := ⟨(8) * 0x10000 + (0x100), 0, 48, 0⟩
/-- TM_TIME_NS NS, Table 9-7. -/
def TM_TIME_NS_NS : Fld := ⟨(8) * 0x10000 + (0x108), 16, 32, 0⟩
/-- TM_TIME_NS FRAC, Table 9-7. -/
def TM_TIME_NS_FRAC : Fld := ⟨(8) * 0x10000 + (0x108), 0, 16, 0⟩
/-- TM_INC INC, Table 9-7. -/
def TM_INC_INC : Fld := ⟨(8) * 0x10000 + (0x110), 0, 40, 3904515724⟩
/-- TM_FREQ I, Table 9-7. -/
def TM_FREQ_I : Fld := ⟨(8) * 0x10000 + (0x118), 0, 48, 0⟩
/-- TM_SERVO STEP_THR, Table 9-7. -/
def TM_SERVO_STEP_THR : Fld := ⟨(8) * 0x10000 + (0x120), 32, 32, 65536000⟩
/-- TM_SERVO KP, Table 9-7. -/
def TM_SERVO_KP : Fld := ⟨(8) * 0x10000 + (0x120), 8, 8, 64⟩
/-- TM_SERVO KI, Table 9-7. -/
def TM_SERVO_KI : Fld := ⟨(8) * 0x10000 + (0x120), 0, 8, 4⟩
/-- TM_LIM LIM_PPB, Table 9-7. -/
def TM_LIM_LIM_PPB : Fld := ⟨(8) * 0x10000 + (0x148), 0, 18, 250000⟩
/-- TM_LAST_OFS O, Table 9-7. -/
def TM_LAST_OFS_O : Fld := ⟨(8) * 0x10000 + (0x128), 0, 64, 0⟩
/-- TM_HOLD HOLD_SYNCS, Table 9-7. -/
def TM_HOLD_HOLD_SYNCS : Fld := ⟨(8) * 0x10000 + (0x130), 8, 8, 8⟩
/-- TM_HOLD SYNC_TO, Table 9-7. -/
def TM_HOLD_SYNC_TO : Fld := ⟨(8) * 0x10000 + (0x130), 4, 4, 3⟩
/-- TM_HOLD ANN_TO, Table 9-7. -/
def TM_HOLD_ANN_TO : Fld := ⟨(8) * 0x10000 + (0x130), 0, 4, 3⟩
/-- TM_GM_ID ID, Table 9-7. -/
def TM_GM_ID_ID : Fld := ⟨(8) * 0x10000 + (0x138), 0, 64, 0⟩
/-- TM_PTP_CFG DOMAIN, Table 9-7. -/
def TM_PTP_CFG_DOMAIN : Fld := ⟨(8) * 0x10000 + (0x140), 16, 7, 0⟩
/-- TM_PTP_CFG PRIO2, Table 9-7. -/
def TM_PTP_CFG_PRIO2 : Fld := ⟨(8) * 0x10000 + (0x140), 8, 8, 248⟩
/-- TM_PTP_CFG PRIO1, Table 9-7. -/
def TM_PTP_CFG_PRIO1 : Fld := ⟨(8) * 0x10000 + (0x140), 0, 8, 246⟩
/-- TM_PORT_LAT LAT_OUT, Table 9-8. -/
def TM_PORT_LAT_LAT_OUT (i : Nat) : Fld := ⟨(8) * 0x10000 + (0x200 + 16 * i), 32, 32, 0⟩
/-- TM_PORT_LAT LAT_IN, Table 9-8. -/
def TM_PORT_LAT_LAT_IN (i : Nat) : Fld := ⟨(8) * 0x10000 + (0x200 + 16 * i), 0, 32, 0⟩
/-- TM_PORT_ASYM ASYM, Table 9-8. -/
def TM_PORT_ASYM_ASYM (i : Nat) : Fld := ⟨(8) * 0x10000 + (0x208 + 16 * i), 0, 32, 0⟩
/-- TM_CAP_CFG EDGE, Table 9-8. -/
def TM_CAP_CFG_EDGE (i : Nat) : Fld := ⟨(8) * 0x10000 + (0x300 + 16 * i), 0, 2, 0⟩
/-- TM_CAP_STAT OVF, Table 9-8. -/
def TM_CAP_STAT_OVF (i : Nat) : Fld := ⟨(8) * 0x10000 + (0x304 + 16 * i), 31, 1, 0⟩
/-- TM_CAP_STAT FILL, Table 9-8. -/
def TM_CAP_STAT_FILL (i : Nat) : Fld := ⟨(8) * 0x10000 + (0x304 + 16 * i), 16, 5, 0⟩
/-- TM_CAP_STAT LOST, Table 9-8. -/
def TM_CAP_STAT_LOST (i : Nat) : Fld := ⟨(8) * 0x10000 + (0x304 + 16 * i), 0, 16, 0⟩
/-- TM_CAP_TS TS, Table 9-8. -/
def TM_CAP_TS_TS (i : Nat) : Fld := ⟨(8) * 0x10000 + (0x308 + 16 * i), 0, 64, 0⟩
/-- TM_PULSE_CFG OFFSET, Table 9-8. -/
def TM_PULSE_CFG_OFFSET (i : Nat) : Fld := ⟨(8) * 0x10000 + (0x400 + 32 * i), 44, 20, 0⟩
/-- TM_PULSE_CFG DIV, Table 9-8. -/
def TM_PULSE_CFG_DIV (i : Nat) : Fld := ⟨(8) * 0x10000 + (0x400 + 32 * i), 32, 12, 1⟩
/-- TM_PULSE_CFG HIGH_NS, Table 9-8. -/
def TM_PULSE_CFG_HIGH_NS (i : Nat) : Fld := ⟨(8) * 0x10000 + (0x400 + 32 * i), 2, 30, 0⟩
/-- TM_PULSE_CFG MODE, Table 9-8. -/
def TM_PULSE_CFG_MODE (i : Nat) : Fld := ⟨(8) * 0x10000 + (0x400 + 32 * i), 0, 2, 0⟩
/-- TM_PULSE_START START, Table 9-8. -/
def TM_PULSE_START_START (i : Nat) : Fld := ⟨(8) * 0x10000 + (0x408 + 32 * i), 0, 64, 0⟩
/-- TM_PULSE_PERIOD PERIOD_NS, Table 9-8. -/
def TM_PULSE_PERIOD_PERIOD_NS (i : Nat) : Fld := ⟨(8) * 0x10000 + (0x410 + 32 * i), 0, 32, 0⟩
/-- FU_CTRL TICKET, Table 10-9. -/
def FU_CTRL_TICKET : Fld := ⟨(7) * 0x10000 + (0x10), 8, 6, 63⟩
/-- FU_CTRL EN, Table 10-9. -/
def FU_CTRL_EN : Fld := ⟨(7) * 0x10000 + (0x10), 0, 1, 0⟩
/-- FU_STATUS HELD, Table 10-9. -/
def FU_STATUS_HELD : Fld := ⟨(7) * 0x10000 + (0x18), 0, 16, 0⟩
/-- FU_STREAM_CFG EN, Table 10-10. -/
def FU_STREAM_CFG_EN (i : Nat) : Fld := ⟨(7) * 0x10000 + (0x1000 + 32 * i), 63, 1, 0⟩
/-- FU_STREAM_CFG SAFETY, Table 10-10. -/
def FU_STREAM_CFG_SAFETY (i : Nat) : Fld := ⟨(7) * 0x10000 + (0x1000 + 32 * i), 62, 1, 0⟩
/-- FU_STREAM_CFG ROLE, Table 10-10. -/
def FU_STREAM_CFG_ROLE (i : Nat) : Fld := ⟨(7) * 0x10000 + (0x1000 + 32 * i), 61, 1, 0⟩
/-- FU_STREAM_CFG IN_GROUP, Table 10-10. -/
def FU_STREAM_CFG_IN_GROUP (i : Nat) : Fld := ⟨(7) * 0x10000 + (0x1000 + 32 * i), 60, 1, 0⟩
/-- FU_STREAM_CFG GROUP, Table 10-10. -/
def FU_STREAM_CFG_GROUP (i : Nat) : Fld := ⟨(7) * 0x10000 + (0x1000 + 32 * i), 56, 4, 0⟩
/-- FU_STREAM_CFG MEMBER, Table 10-10. -/
def FU_STREAM_CFG_MEMBER (i : Nat) : Fld := ⟨(7) * 0x10000 + (0x1000 + 32 * i), 52, 4, 0⟩
/-- FU_STREAM_CFG PORT, Table 10-10. -/
def FU_STREAM_CFG_PORT (i : Nat) : Fld := ⟨(7) * 0x10000 + (0x1000 + 32 * i), 48, 4, 0⟩
/-- FU_STREAM_CFG INST, Table 10-10. -/
def FU_STREAM_CFG_INST (i : Nat) : Fld := ⟨(7) * 0x10000 + (0x1000 + 32 * i), 44, 4, 0⟩
/-- FU_STREAM_CFG CONTENT, Table 10-10. -/
def FU_STREAM_CFG_CONTENT (i : Nat) : Fld := ⟨(7) * 0x10000 + (0x1000 + 32 * i), 41, 3, 0⟩
/-- FU_STREAM_CFG TS_SRC, Table 10-10. -/
def FU_STREAM_CFG_TS_SRC (i : Nat) : Fld := ⟨(7) * 0x10000 + (0x1000 + 32 * i), 40, 1, 0⟩
/-- FU_STREAM_CFG POST_EN, Table 10-10. -/
def FU_STREAM_CFG_POST_EN (i : Nat) : Fld := ⟨(7) * 0x10000 + (0x1000 + 32 * i), 19, 1, 0⟩
/-- FU_STREAM_CFG CTR_DIE, Table 10-10. -/
def FU_STREAM_CFG_CTR_DIE (i : Nat) : Fld := ⟨(7) * 0x10000 + (0x1000 + 32 * i), 16, 2, 0⟩
/-- FU_STREAM_CFG POST_CTR, Table 10-10. -/
def FU_STREAM_CFG_POST_CTR (i : Nat) : Fld := ⟨(7) * 0x10000 + (0x1000 + 32 * i), 0, 8, 0⟩
/-- FU_STREAM_SEL EMB_OFF, Table 10-10. -/
def FU_STREAM_SEL_EMB_OFF (i : Nat) : Fld := ⟨(7) * 0x10000 + (0x1008 + 32 * i), 48, 16, 0⟩
/-- FU_STREAM_SEL SRC_STREAM, Table 10-10. -/
def FU_STREAM_SEL_SRC_STREAM (i : Nat) : Fld := ⟨(7) * 0x10000 + (0x1008 + 32 * i), 32, 6, 0⟩
/-- FU_STREAM_SEL SEL, Table 10-10. -/
def FU_STREAM_SEL_SEL (i : Nat) : Fld := ⟨(7) * 0x10000 + (0x1008 + 32 * i), 0, 32, 0⟩
/-- FU_STREAM_RING SLOT_LOG2, Table 10-10. -/
def FU_STREAM_RING_SLOT_LOG2 (i : Nat) : Fld := ⟨(7) * 0x10000 + (0x1010 + 32 * i), 53, 6, 6⟩
/-- FU_STREAM_RING SLOTS_LOG2, Table 10-10. -/
def FU_STREAM_RING_SLOTS_LOG2 (i : Nat) : Fld := ⟨(7) * 0x10000 + (0x1010 + 32 * i), 48, 5, 0⟩
/-- FU_STREAM_RING RING_BASE, Table 10-10. -/
def FU_STREAM_RING_RING_BASE (i : Nat) : Fld := ⟨(7) * 0x10000 + (0x1010 + 32 * i), 0, 48, 0⟩
/-- FU_STREAM_TS OFS, Table 10-10. -/
def FU_STREAM_TS_OFS (i : Nat) : Fld := ⟨(7) * 0x10000 + (0x1018 + 32 * i), 32, 32, 0⟩
/-- FU_STREAM_TS LAT, Table 10-10. -/
def FU_STREAM_TS_LAT (i : Nat) : Fld := ⟨(7) * 0x10000 + (0x1018 + 32 * i), 0, 32, 0⟩
/-- FU_STREAM_LATE UNREL, Table 10-10. -/
def FU_STREAM_LATE_UNREL (i : Nat) : Fld := ⟨(7) * 0x10000 + (0x2000 + 32 * i), 31, 1, 0⟩
/-- FU_STREAM_LATE REINSTATE, Table 10-10. -/
def FU_STREAM_LATE_REINSTATE (i : Nat) : Fld := ⟨(7) * 0x10000 + (0x2000 + 32 * i), 30, 1, 0⟩
/-- FU_STREAM_LATE LATE_THR, Table 10-10. -/
def FU_STREAM_LATE_LATE_THR (i : Nat) : Fld := ⟨(7) * 0x10000 + (0x2000 + 32 * i), 16, 10, 64⟩
/-- FU_STREAM_LATE LWIN, Table 10-10. -/
def FU_STREAM_LATE_LWIN (i : Nat) : Fld := ⟨(7) * 0x10000 + (0x2000 + 32 * i), 0, 11, 256⟩
/-- FU_STREAM_CNT LATE, Table 10-10. -/
def FU_STREAM_CNT_LATE (i : Nat) : Fld := ⟨(7) * 0x10000 + (0x2008 + 32 * i), 48, 16, 0⟩
/-- FU_STREAM_CNT DROPPED, Table 10-10. -/
def FU_STREAM_CNT_DROPPED (i : Nat) : Fld := ⟨(7) * 0x10000 + (0x2008 + 32 * i), 32, 16, 0⟩
/-- FU_STREAM_CNT BAD, Table 10-10. -/
def FU_STREAM_CNT_BAD (i : Nat) : Fld := ⟨(7) * 0x10000 + (0x2008 + 32 * i), 16, 16, 0⟩
/-- FU_STREAM_CNT SAMPLES, Table 10-10. -/
def FU_STREAM_CNT_SAMPLES (i : Nat) : Fld := ⟨(7) * 0x10000 + (0x2008 + 32 * i), 0, 16, 0⟩
/-- FU_STREAM_WIN WIN_LATE, Table 10-10. -/
def FU_STREAM_WIN_WIN_LATE (i : Nat) : Fld := ⟨(7) * 0x10000 + (0x2010 + 32 * i), 16, 11, 0⟩
/-- FU_STREAM_WIN WIN_SEEN, Table 10-10. -/
def FU_STREAM_WIN_WIN_SEEN (i : Nat) : Fld := ⟨(7) * 0x10000 + (0x2010 + 32 * i), 0, 11, 0⟩
/-- FU_GROUP_CFG EN, Table 10-11. -/
def FU_GROUP_CFG_EN (i : Nat) : Fld := ⟨(7) * 0x10000 + (0x3000 + 32 * i), 63, 1, 0⟩
/-- FU_GROUP_CFG KIND, Table 10-11. -/
def FU_GROUP_CFG_KIND (i : Nat) : Fld := ⟨(7) * 0x10000 + (0x3000 + 32 * i), 62, 1, 0⟩
/-- FU_GROUP_CFG EXTRAP, Table 10-11. -/
def FU_GROUP_CFG_EXTRAP (i : Nat) : Fld := ⟨(7) * 0x10000 + (0x3000 + 32 * i), 61, 1, 0⟩
/-- FU_GROUP_CFG DIV, Table 10-11. -/
def FU_GROUP_CFG_DIV (i : Nat) : Fld := ⟨(7) * 0x10000 + (0x3000 + 32 * i), 52, 8, 1⟩
/-- FU_GROUP_CFG PHASE, Table 10-11. -/
def FU_GROUP_CFG_PHASE (i : Nat) : Fld := ⟨(7) * 0x10000 + (0x3000 + 32 * i), 44, 8, 0⟩
/-- FU_GROUP_CFG WAIT, Table 10-11. -/
def FU_GROUP_CFG_WAIT (i : Nat) : Fld := ⟨(7) * 0x10000 + (0x3000 + 32 * i), 30, 14, 0⟩
/-- FU_GROUP_CFG MISS_TOL, Table 10-11. -/
def FU_GROUP_CFG_MISS_TOL (i : Nat) : Fld := ⟨(7) * 0x10000 + (0x3000 + 32 * i), 24, 4, 0⟩
/-- FU_GROUP_PB PB, Table 10-11. -/
def FU_GROUP_PB_PB (i : Nat) : Fld := ⟨(7) * 0x10000 + (0x3008 + 32 * i), 0, 48, 0⟩
/-- FU_GROUP_RES RES_STRIDE, Table 10-11. -/
def FU_GROUP_RES_RES_STRIDE (i : Nat) : Fld := ⟨(7) * 0x10000 + (0x3010 + 32 * i), 48, 16, 0⟩
/-- FU_GROUP_RES RES_BASE, Table 10-11. -/
def FU_GROUP_RES_RES_BASE (i : Nat) : Fld := ⟨(7) * 0x10000 + (0x3010 + 32 * i), 0, 48, 0⟩
/-- FU_GROUP_STAT CYCLE, Table 10-11. -/
def FU_GROUP_STAT_CYCLE (i : Nat) : Fld := ⟨(7) * 0x10000 + (0x3018 + 32 * i), 32, 32, 0⟩
/-- FU_GROUP_STAT CYC_LOST, Table 10-11. -/
def FU_GROUP_STAT_CYC_LOST (i : Nat) : Fld := ⟨(7) * 0x10000 + (0x3018 + 32 * i), 16, 16, 0⟩
/-- FU_GROUP_STAT TIMEOUTS, Table 10-11. -/
def FU_GROUP_STAT_TIMEOUTS (i : Nat) : Fld := ⟨(7) * 0x10000 + (0x3018 + 32 * i), 0, 16, 0⟩
/-- FU_GROUP_LAST STATUS, Table 10-11. -/
def FU_GROUP_LAST_STATUS (i : Nat) : Fld := ⟨(7) * 0x10000 + (0x3400 + 16 * i), 0, 64, 0⟩
/-- FU_GROUP_LAST OUT_TIME, Table 10-11. -/
def FU_GROUP_LAST_OUT_TIME (i : Nat) : Fld := ⟨(7) * 0x10000 + (0x3408 + 16 * i), 0, 64, 0⟩
/-- FU_LATE_BASE BASE, Table 10-12. -/
def FU_LATE_BASE_BASE : Fld := ⟨(7) * 0x10000 + (0x200), 0, 48, 0⟩
/-- FU_LATE_HEAD LATE_HEAD, Table 10-12. -/
def FU_LATE_HEAD_LATE_HEAD : Fld := ⟨(7) * 0x10000 + (0x208), 0, 32, 0⟩
/-- FU_CAL_BASE BASE, Table 10-12. -/
def FU_CAL_BASE_BASE : Fld := ⟨(7) * 0x10000 + (0x210), 0, 48, 0⟩
/-- FU_CAL_EPOCH CAL_EPOCH, Table 10-12. -/
def FU_CAL_EPOCH_CAL_EPOCH : Fld := ⟨(7) * 0x10000 + (0x218), 0, 32, 0⟩
/-- FU_CAL_CFG LAMBDA, Table 10-12. -/
def FU_CAL_CFG_LAMBDA : Fld := ⟨(7) * 0x10000 + (0x220), 48, 16, 11878⟩
/-- FU_CAL_CFG MIN_CORR, Table 10-12. -/
def FU_CAL_CFG_MIN_CORR : Fld := ⟨(7) * 0x10000 + (0x220), 32, 16, 256⟩
/-- FU_CAL_CFG TRN_STEP, Table 10-12. -/
def FU_CAL_CFG_TRN_STEP : Fld := ⟨(7) * 0x10000 + (0x220), 16, 16, 100⟩
/-- FU_CAL_CFG ROT_STEP, Table 10-12. -/
def FU_CAL_CFG_ROT_STEP : Fld := ⟨(7) * 0x10000 + (0x220), 0, 16, 50⟩
/-- FU_CAL_STAT APPLIED, Table 10-12. -/
def FU_CAL_STAT_APPLIED : Fld := ⟨(7) * 0x10000 + (0x228), 16, 16, 0⟩
/-- FU_CAL_STAT REJECTS, Table 10-12. -/
def FU_CAL_STAT_REJECTS : Fld := ⟨(7) * 0x10000 + (0x228), 0, 16, 0⟩
/-- FU_CAL_COMMIT MARK, Table 10-12. -/
def FU_CAL_COMMIT_MARK : Fld := ⟨(7) * 0x10000 + (0x230), 0, 64, 0⟩
/-- MW_CTRL EN, Table 11-8. -/
def MW_CTRL_EN : Fld := ⟨(6) * 0x10000 + (0x10), 0, 1, 0⟩
/-- MW_STATUS CUR_SET, Table 11-8. -/
def MW_STATUS_CUR_SET : Fld := ⟨(6) * 0x10000 + (0x18), 5, 1, 0⟩
/-- MW_STATUS SET_VALID, Table 11-8. -/
def MW_STATUS_SET_VALID : Fld := ⟨(6) * 0x10000 + (0x18), 4, 1, 0⟩
/-- MW_STATUS CLEARING, Table 11-8. -/
def MW_STATUS_CLEARING : Fld := ⟨(6) * 0x10000 + (0x18), 3, 1, 0⟩
/-- MW_STATUS COPY_PEND, Table 11-8. -/
def MW_STATUS_COPY_PEND : Fld := ⟨(6) * 0x10000 + (0x18), 2, 1, 0⟩
/-- MW_STATUS MAP_VALID, Table 11-8. -/
def MW_STATUS_MAP_VALID : Fld := ⟨(6) * 0x10000 + (0x18), 1, 1, 0⟩
/-- MW_STATUS FRONT, Table 11-8. -/
def MW_STATUS_FRONT : Fld := ⟨(6) * 0x10000 + (0x18), 0, 1, 0⟩
/-- MW_GEN FRONT_GEN, Table 11-9. -/
def MW_GEN_FRONT_GEN : Fld := ⟨(6) * 0x10000 + (0x100), 0, 32, 0⟩
/-- MW_LOST_GEN LOST_GEN, Table 11-9. -/
def MW_LOST_GEN_LOST_GEN : Fld := ⟨(6) * 0x10000 + (0x104), 0, 32, 0⟩
/-- MW_CHG_HEAD CHG_HEAD, Table 11-9. -/
def MW_CHG_HEAD_CHG_HEAD : Fld := ⟨(6) * 0x10000 + (0x108), 0, 32, 0⟩
/-- MW_MAP_CFG SDF_R, Table 11-9. -/
def MW_MAP_CFG_SDF_R : Fld := ⟨(6) * 0x10000 + (0x110), 27, 5, 8⟩
/-- MW_MAP_CFG NZ, Table 11-9. -/
def MW_MAP_CFG_NZ : Fld := ⟨(6) * 0x10000 + (0x110), 20, 7, 64⟩
/-- MW_MAP_CFG NY, Table 11-9. -/
def MW_MAP_CFG_NY : Fld := ⟨(6) * 0x10000 + (0x110), 10, 10, 512⟩
/-- MW_MAP_CFG NX, Table 11-9. -/
def MW_MAP_CFG_NX : Fld := ⟨(6) * 0x10000 + (0x110), 0, 10, 512⟩
/-- MW_MAP_RES RES, Table 11-9. -/
def MW_MAP_RES_RES : Fld := ⟨(6) * 0x10000 + (0x114), 0, 32, 1028443341⟩
/-- MW_MAP_ORG ORG, Table 11-9. -/
def MW_MAP_ORG_ORG (i : Nat) : Fld := ⟨(6) * 0x10000 + (0x118 + 4 * i), 0, 32, 0⟩
/-- MW_LAT_CFG NJ, Table 11-9. -/
def MW_LAT_CFG_NJ : Fld := ⟨(6) * 0x10000 + (0x128), 32, 7, 0⟩
/-- MW_LAT_CFG N_SPH, Table 11-9. -/
def MW_LAT_CFG_N_SPH : Fld := ⟨(6) * 0x10000 + (0x128), 22, 10, 1⟩
/-- MW_LAT_CFG N_POST, Table 11-9. -/
def MW_LAT_CFG_N_POST : Fld := ⟨(6) * 0x10000 + (0x128), 13, 9, 1⟩
/-- MW_LAT_CFG N_PRIM, Table 11-9. -/
def MW_LAT_CFG_N_PRIM : Fld := ⟨(6) * 0x10000 + (0x128), 0, 13, 0⟩
/-- MW_MARGIN MARGIN, Table 11-9. -/
def MW_MARGIN_MARGIN : Fld := ⟨(6) * 0x10000 + (0x130), 0, 32, 1017370378⟩
/-- MW_CNT SMOOTH_OFF, Table 11-9. -/
def MW_CNT_SMOOTH_OFF : Fld := ⟨(6) * 0x10000 + (0x140), 48, 16, 0⟩
/-- MW_CNT SNAP_LOST, Table 11-9. -/
def MW_CNT_SNAP_LOST : Fld := ⟨(6) * 0x10000 + (0x140), 32, 16, 0⟩
/-- MW_CNT FULL_REVAL, Table 11-9. -/
def MW_CNT_FULL_REVAL : Fld := ⟨(6) * 0x10000 + (0x140), 16, 16, 0⟩
/-- MW_CNT HELD, Table 11-9. -/
def MW_CNT_HELD : Fld := ⟨(6) * 0x10000 + (0x140), 0, 16, 0⟩
/-- MW_CNT2 CHG_LOST, Table 11-9. -/
def MW_CNT2_CHG_LOST : Fld := ⟨(6) * 0x10000 + (0x148), 48, 16, 0⟩
/-- MW_CNT2 OUT_OF_MAP, Table 11-9. -/
def MW_CNT2_OUT_OF_MAP : Fld := ⟨(6) * 0x10000 + (0x148), 32, 16, 0⟩
/-- MW_CNT2 DYN_FULL, Table 11-9. -/
def MW_CNT2_DYN_FULL : Fld := ⟨(6) * 0x10000 + (0x148), 16, 16, 0⟩
/-- MW_CNT2 OPEN_FULL, Table 11-9. -/
def MW_CNT2_OPEN_FULL : Fld := ⟨(6) * 0x10000 + (0x148), 0, 16, 0⟩
/-- TP_CTRL GATE_IDLE, Table 12-10. -/
def TP_CTRL_GATE_IDLE : Fld := ⟨(5) * 0x10000 + (0x10), 8, 1, 1⟩
/-- TP_STATUS SUSPENDED, Table 12-10. -/
def TP_STATUS_SUSPENDED : Fld := ⟨(5) * 0x10000 + (0x18), 9, 1, 0⟩
/-- TP_STATUS BUSY, Table 12-10. -/
def TP_STATUS_BUSY : Fld := ⟨(5) * 0x10000 + (0x18), 8, 1, 0⟩
/-- TP_CNT OVF_JOBS, Table 12-11. -/
def TP_CNT_OVF_JOBS : Fld := ⟨(5) * 0x10000 + (0x100), 48, 16, 0⟩
/-- TP_CNT PIV_JOBS, Table 12-11. -/
def TP_CNT_PIV_JOBS : Fld := ⟨(5) * 0x10000 + (0x100), 32, 16, 0⟩
/-- TP_CNT DL_OUT, Table 12-11. -/
def TP_CNT_DL_OUT : Fld := ⟨(5) * 0x10000 + (0x100), 16, 16, 0⟩
/-- TP_CNT SOLVES, Table 12-11. -/
def TP_CNT_SOLVES : Fld := ⟨(5) * 0x10000 + (0x100), 0, 16, 0⟩
/-- TP_LAST RES, Table 12-11. -/
def TP_LAST_RES : Fld := ⟨(5) * 0x10000 + (0x108), 32, 32, 0⟩
/-- TP_LAST BEST_IT, Table 12-11. -/
def TP_LAST_BEST_IT : Fld := ⟨(5) * 0x10000 + (0x108), 16, 7, 0⟩
/-- TP_LAST ITERS_RUN, Table 12-11. -/
def TP_LAST_ITERS_RUN : Fld := ⟨(5) * 0x10000 + (0x108), 8, 7, 0⟩
/-- TP_LAST FLAGS, Table 12-11. -/
def TP_LAST_FLAGS : Fld := ⟨(5) * 0x10000 + (0x108), 0, 8, 0⟩
/-- TP_CHK PIV_SEEN, Table 12-11. -/
def TP_CHK_PIV_SEEN : Fld := ⟨(5) * 0x10000 + (0x110), 1, 1, 0⟩
/-- TP_CHK OVF_SEEN, Table 12-11. -/
def TP_CHK_OVF_SEEN : Fld := ⟨(5) * 0x10000 + (0x110), 0, 1, 0⟩
/-- TT_CTRL AX_LOCK, Table 13-10. -/
def TT_CTRL_AX_LOCK : Fld := ⟨(4) * 0x10000 + (0x10), 63, 1, 0⟩
/-- TT_CTRL LEARN_EN, Table 13-10. -/
def TT_CTRL_LEARN_EN : Fld := ⟨(4) * 0x10000 + (0x10), 16, 1, 1⟩
/-- TT_CTRL TICKET, Table 13-10. -/
def TT_CTRL_TICKET : Fld := ⟨(4) * 0x10000 + (0x10), 8, 6, 63⟩
/-- TT_CTRL RUN, Table 13-10. -/
def TT_CTRL_RUN : Fld := ⟨(4) * 0x10000 + (0x10), 0, 4, 0⟩
/-- TT_STATUS OWNER_ISL, Table 13-10. -/
def TT_STATUS_OWNER_ISL : Fld := ⟨(4) * 0x10000 + (0x18), 8, 1, 0⟩
/-- TT_STATUS RUNNING, Table 13-10. -/
def TT_STATUS_RUNNING : Fld := ⟨(4) * 0x10000 + (0x18), 0, 4, 0⟩
/-- TT_TIMING CALC_OFS, Table 13-10. -/
def TT_TIMING_CALC_OFS : Fld := ⟨(4) * 0x10000 + (0x100), 20, 20, 60500⟩
/-- TT_TIMING FB_DL, Table 13-10. -/
def TT_TIMING_FB_DL : Fld := ⟨(4) * 0x10000 + (0x100), 0, 20, 36300⟩
/-- TT_STAGE BASE, Table 13-10. -/
def TT_STAGE_BASE : Fld := ⟨(4) * 0x10000 + (0x108), 0, 48, 0⟩
/-- TT_SET SET_MISS, Table 13-10. -/
def TT_SET_SET_MISS : Fld := ⟨(4) * 0x10000 + (0x110), 48, 16, 0⟩
/-- TT_SET SET_FRAME, Table 13-10. -/
def TT_SET_SET_FRAME : Fld := ⟨(4) * 0x10000 + (0x110), 0, 48, 281474976710655⟩
/-- TT_MIRROR ADDR, Table 13-10. -/
def TT_MIRROR_ADDR : Fld := ⟨(4) * 0x10000 + (0x118), 0, 48, 0⟩
/-- TT_CMD OP, Table 13-10. -/
def TT_CMD_OP : Fld := ⟨(4) * 0x10000 + (0x180), 28, 4, 0⟩
/-- TT_CMD RING, Table 13-10. -/
def TT_CMD_RING : Fld := ⟨(4) * 0x10000 + (0x180), 24, 2, 0⟩
/-- TT_CMD NODE, Table 13-10. -/
def TT_CMD_NODE : Fld := ⟨(4) * 0x10000 + (0x180), 16, 6, 0⟩
/-- TT_CMD AXIS, Table 13-10. -/
def TT_CMD_AXIS : Fld := ⟨(4) * 0x10000 + (0x180), 0, 7, 0⟩
/-- TT_CMD_STAT BUSY, Table 13-10. -/
def TT_CMD_STAT_BUSY : Fld := ⟨(4) * 0x10000 + (0x188), 8, 1, 0⟩
/-- TT_CMD_STAT RESULT, Table 13-10. -/
def TT_CMD_STAT_RESULT : Fld := ⟨(4) * 0x10000 + (0x188), 0, 4, 0⟩
/-- TT_IDENT_BUF ADDR, Table 13-10. -/
def TT_IDENT_BUF_ADDR : Fld := ⟨(4) * 0x10000 + (0x190), 0, 48, 0⟩
/-- TT_TAB_SEL INDEX, Table 13-10. -/
def TT_TAB_SEL_INDEX : Fld := ⟨(4) * 0x10000 + (0x1A0), 16, 10, 0⟩
/-- TT_TAB_SEL TABLE, Table 13-10. -/
def TT_TAB_SEL_TABLE : Fld := ⟨(4) * 0x10000 + (0x1A0), 8, 1, 0⟩
/-- TT_TAB_SEL AXIS, Table 13-10. -/
def TT_TAB_SEL_AXIS : Fld := ⟨(4) * 0x10000 + (0x1A0), 0, 7, 0⟩
/-- TT_TAB_DATA VALUE (X), Table 13-10. -/
def TT_TAB_DATA_VALUE : Fld := ⟨(4) * 0x10000 + (0x1A8), 0, 32, 0⟩
/-- TT_RING_CFG ETHERTYPE, Table 13-11. -/
def TT_RING_CFG_ETHERTYPE (i : Nat) : Fld := ⟨(4) * 0x10000 + (0x200 + 32 * i), 48, 16, 34997⟩
/-- TT_RING_CFG VID, Table 13-11. -/
def TT_RING_CFG_VID (i : Nat) : Fld := ⟨(4) * 0x10000 + (0x200 + 32 * i), 0, 12, 0⟩
/-- TT_RING_SRC MAC, Table 13-11. -/
def TT_RING_SRC_MAC (i : Nat) : Fld := ⟨(4) * 0x10000 + (0x208 + 32 * i), 0, 48, 0⟩
/-- TT_RING_DST MAC, Table 13-11. -/
def TT_RING_DST_MAC (i : Nat) : Fld := ⟨(4) * 0x10000 + (0x210 + 32 * i), 0, 48, 3⟩
/-- TT_RING_STAT CRC_ERR, Table 13-11. -/
def TT_RING_STAT_CRC_ERR (i : Nat) : Fld := ⟨(4) * 0x10000 + (0x218 + 32 * i), 48, 16, 0⟩
/-- TT_RING_STAT DROPPED, Table 13-11. -/
def TT_RING_STAT_DROPPED (i : Nat) : Fld := ⟨(4) * 0x10000 + (0x218 + 32 * i), 32, 16, 0⟩
/-- TT_RING_STAT NODES, Table 13-11. -/
def TT_RING_STAT_NODES (i : Nat) : Fld := ⟨(4) * 0x10000 + (0x218 + 32 * i), 8, 7, 0⟩
/-- TT_RING_STAT BUDGET_ERR, Table 13-11. -/
def TT_RING_STAT_BUDGET_ERR (i : Nat) : Fld := ⟨(4) * 0x10000 + (0x218 + 32 * i), 1, 1, 0⟩
/-- TT_RING_STAT LINK, Table 13-11. -/
def TT_RING_STAT_LINK (i : Nat) : Fld := ⟨(4) * 0x10000 + (0x218 + 32 * i), 0, 1, 0⟩
/-- TT_GCL INTERVAL, Table 13-11. -/
def TT_GCL_INTERVAL (i : Nat) : Fld := ⟨(4) * 0x10000 + (0x300 + 4 * i), 8, 20, if i % 16 = 0 then 137500 else 0⟩
/-- TT_GCL GATES, Table 13-11. -/
def TT_GCL_GATES (i : Nat) : Fld := ⟨(4) * 0x10000 + (0x300 + 4 * i), 0, 8, if i % 16 = 0 then 255 else 0⟩
/-- TT_AXIS_CFG EN, Table 13-12. -/
def TT_AXIS_CFG_EN (i : Nat) : Fld := ⟨(4) * 0x10000 + (0x1000 + 64 * i), 63, 1, 0⟩
/-- TT_AXIS_CFG LEARN, Table 13-12. -/
def TT_AXIS_CFG_LEARN (i : Nat) : Fld := ⟨(4) * 0x10000 + (0x1000 + 64 * i), 62, 1, 0⟩
/-- TT_AXIS_CFG INTERP, Table 13-12. -/
def TT_AXIS_CFG_INTERP (i : Nat) : Fld := ⟨(4) * 0x10000 + (0x1000 + 64 * i), 61, 1, 0⟩
/-- TT_AXIS_CFG RATE, Table 13-12. -/
def TT_AXIS_CFG_RATE (i : Nat) : Fld := ⟨(4) * 0x10000 + (0x1000 + 64 * i), 56, 2, 0⟩
/-- TT_AXIS_CFG RING, Table 13-12. -/
def TT_AXIS_CFG_RING (i : Nat) : Fld := ⟨(4) * 0x10000 + (0x1000 + 64 * i), 52, 2, 0⟩
/-- TT_AXIS_CFG NODE, Table 13-12. -/
def TT_AXIS_CFG_NODE (i : Nat) : Fld := ⟨(4) * 0x10000 + (0x1000 + 64 * i), 44, 6, 0⟩
/-- TT_AXIS_CFG FAULT_CNT, Table 13-12. -/
def TT_AXIS_CFG_FAULT_CNT (i : Nat) : Fld := ⟨(4) * 0x10000 + (0x1000 + 64 * i), 32, 8, 4⟩
/-- TT_AXIS_CFG MISS_LIM, Table 13-12. -/
def TT_AXIS_CFG_MISS_LIM (i : Nat) : Fld := ⟨(4) * 0x10000 + (0x1000 + 64 * i), 24, 8, 2⟩
/-- TT_AXIS_CFG LSTEP, Table 13-12. -/
def TT_AXIS_CFG_LSTEP (i : Nat) : Fld := ⟨(4) * 0x10000 + (0x1000 + 64 * i), 8, 16, 0⟩
/-- TT_AXIS_CFG KP, Table 13-12. -/
def TT_AXIS_CFG_KP (i : Nat) : Fld := ⟨(4) * 0x10000 + (0x1008 + 64 * i), 32, 32, 0⟩
/-- TT_AXIS_CFG KV, Table 13-12. -/
def TT_AXIS_CFG_KV (i : Nat) : Fld := ⟨(4) * 0x10000 + (0x1008 + 64 * i), 0, 32, 0⟩
/-- TT_AXIS_CFG KI, Table 13-12. -/
def TT_AXIS_CFG_KI (i : Nat) : Fld := ⟨(4) * 0x10000 + (0x1010 + 64 * i), 32, 32, 0⟩
/-- TT_AXIS_CFG INT_LIM, Table 13-12. -/
def TT_AXIS_CFG_INT_LIM (i : Nat) : Fld := ⟨(4) * 0x10000 + (0x1010 + 64 * i), 0, 32, 0⟩
/-- TT_AXIS_CFG R_THR, Table 13-12. -/
def TT_AXIS_CFG_R_THR (i : Nat) : Fld := ⟨(4) * 0x10000 + (0x1018 + 64 * i), 32, 32, 0⟩
/-- TT_AXIS_CFG KD, Table 13-12. -/
def TT_AXIS_CFG_KD (i : Nat) : Fld := ⟨(4) * 0x10000 + (0x1018 + 64 * i), 0, 32, 0⟩
/-- TT_AXIS_CFG LV_MIN, Table 13-12. -/
def TT_AXIS_CFG_LV_MIN (i : Nat) : Fld := ⟨(4) * 0x10000 + (0x1020 + 64 * i), 32, 32, 0⟩
/-- TT_AXIS_CFG CLIM, Table 13-12. -/
def TT_AXIS_CFG_CLIM (i : Nat) : Fld := ⟨(4) * 0x10000 + (0x1020 + 64 * i), 0, 32, 0⟩
/-- TT_AXIS_CFG LG, Table 13-12. -/
def TT_AXIS_CFG_LG (i : Nat) : Fld := ⟨(4) * 0x10000 + (0x1028 + 64 * i), 0, 16, 0⟩
/-- TT_AXIS_CFG INV_J, Table 13-12. -/
def TT_AXIS_CFG_INV_J (i : Nat) : Fld := ⟨(4) * 0x10000 + (0x1030 + 64 * i), 32, 32, 0⟩
/-- TT_AXIS_CFG KTG, Table 13-12. -/
def TT_AXIS_CFG_KTG (i : Nat) : Fld := ⟨(4) * 0x10000 + (0x1030 + 64 * i), 0, 32, 0⟩
/-- TT_AXIS_CFG INV_KTG, Table 13-12. -/
def TT_AXIS_CFG_INV_KTG (i : Nat) : Fld := ⟨(4) * 0x10000 + (0x1038 + 64 * i), 32, 32, 0⟩
/-- TT_AXIS_CFG INV_VSTEP, Table 13-12. -/
def TT_AXIS_CFG_INV_VSTEP (i : Nat) : Fld := ⟨(4) * 0x10000 + (0x1038 + 64 * i), 0, 32, 0⟩
/-- TT_AXIS_LIM TAU_MAX, Table 13-12. -/
def TT_AXIS_LIM_TAU_MAX (i : Nat) : Fld := ⟨(4) * 0x10000 + (0x3000 + 32 * i), 32, 32, 0⟩
/-- TT_AXIS_LIM I_MAX, Table 13-12. -/
def TT_AXIS_LIM_I_MAX (i : Nat) : Fld := ⟨(4) * 0x10000 + (0x3000 + 32 * i), 0, 32, 0⟩
/-- TT_AXIS_LIM POS_MAX, Table 13-12. -/
def TT_AXIS_LIM_POS_MAX (i : Nat) : Fld := ⟨(4) * 0x10000 + (0x3008 + 32 * i), 32, 32, 0⟩
/-- TT_AXIS_LIM POS_MIN, Table 13-12. -/
def TT_AXIS_LIM_POS_MIN (i : Nat) : Fld := ⟨(4) * 0x10000 + (0x3008 + 32 * i), 0, 32, 0⟩
/-- TT_AXIS_LIM VEL_MAX, Table 13-12. -/
def TT_AXIS_LIM_VEL_MAX (i : Nat) : Fld := ⟨(4) * 0x10000 + (0x3010 + 32 * i), 0, 32, 0⟩
/-- TT_AXIS_LIM SERIAL, Table 13-12. -/
def TT_AXIS_LIM_SERIAL (i : Nat) : Fld := ⟨(4) * 0x10000 + (0x3018 + 32 * i), 0, 64, 0⟩
/-- TT_AXIS_ST THETA, Table 13-13. -/
def TT_AXIS_ST_THETA (i : Nat) : Fld := ⟨(4) * 0x10000 + (0x5000 + 32 * i), 32, 32, 0⟩
/-- TT_AXIS_ST OMEGA, Table 13-13. -/
def TT_AXIS_ST_OMEGA (i : Nat) : Fld := ⟨(4) * 0x10000 + (0x5000 + 32 * i), 0, 32, 0⟩
/-- TT_AXIS_ST I_LAST, Table 13-13. -/
def TT_AXIS_ST_I_LAST (i : Nat) : Fld := ⟨(4) * 0x10000 + (0x5008 + 32 * i), 32, 32, 0⟩
/-- TT_AXIS_ST D_HAT, Table 13-13. -/
def TT_AXIS_ST_D_HAT (i : Nat) : Fld := ⟨(4) * 0x10000 + (0x5008 + 32 * i), 0, 32, 0⟩
/-- TT_AXIS_ST FAULT, Table 13-13. -/
def TT_AXIS_ST_FAULT (i : Nat) : Fld := ⟨(4) * 0x10000 + (0x5010 + 32 * i), 56, 5, 0⟩
/-- TT_AXIS_ST STATE, Table 13-13. -/
def TT_AXIS_ST_STATE (i : Nat) : Fld := ⟨(4) * 0x10000 + (0x5010 + 32 * i), 48, 3, 0⟩
/-- TT_AXIS_ST COG_VALID, Table 13-13. -/
def TT_AXIS_ST_COG_VALID (i : Nat) : Fld := ⟨(4) * 0x10000 + (0x5010 + 32 * i), 47, 1, 0⟩
/-- TT_AXIS_ST RUN, Table 13-13. -/
def TT_AXIS_ST_RUN (i : Nat) : Fld := ⟨(4) * 0x10000 + (0x5010 + 32 * i), 32, 8, 0⟩
/-- TT_AXIS_ST MISS_CNT, Table 13-13. -/
def TT_AXIS_ST_MISS_CNT (i : Nat) : Fld := ⟨(4) * 0x10000 + (0x5010 + 32 * i), 16, 16, 0⟩
/-- TT_AXIS_ST SAT_CNT, Table 13-13. -/
def TT_AXIS_ST_SAT_CNT (i : Nat) : Fld := ⟨(4) * 0x10000 + (0x5010 + 32 * i), 0, 16, 0⟩
/-- TT_AXIS_ST MBAR, Table 13-13. -/
def TT_AXIS_ST_MBAR (i : Nat) : Fld := ⟨(4) * 0x10000 + (0x5018 + 32 * i), 0, 32, 0⟩
/-- EL_DOUBT_VIEW LATCHED, Table 14-8. -/
def EL_DOUBT_VIEW_LATCHED : Fld := ⟨(1) * 0x10000 + (0x100), 0, 15, 8192⟩
/-- EL_DOUBT_REQ REQ, Table 14-8. -/
def EL_DOUBT_REQ_REQ : Fld := ⟨(1) * 0x10000 + (0x108), 0, 1, 0⟩
/-- EL_REINT RESULT, Table 14-8. -/
def EL_REINT_RESULT : Fld := ⟨(1) * 0x10000 + (0x110), 12, 4, 0⟩
/-- EL_REINT BUSY, Table 14-8. -/
def EL_REINT_BUSY : Fld := ⟨(1) * 0x10000 + (0x110), 8, 1, 0⟩
/-- EL_REINT REQ, Table 14-8. -/
def EL_REINT_REQ : Fld := ⟨(1) * 0x10000 + (0x110), 0, 1, 0⟩
/-- EL_HOST_KICK KICK, Table 14-8. -/
def EL_HOST_KICK_KICK : Fld := ⟨(1) * 0x10000 + (0x118), 0, 1, 0⟩
/-- EL_LOG_HEAD HEAD, Table 14-9. -/
def EL_LOG_HEAD_HEAD : Fld := ⟨(1) * 0x10000 + (0x120), 0, 32, 0⟩
/-- EL_LOG_TAIL TAIL, Table 14-9. -/
def EL_LOG_TAIL_TAIL : Fld := ⟨(1) * 0x10000 + (0x124), 0, 32, 0⟩
/-- EL_LOG_STAT OVF, Table 14-9. -/
def EL_LOG_STAT_OVF : Fld := ⟨(1) * 0x10000 + (0x128), 31, 1, 0⟩
/-- EL_LOG_STAT RING_FULL, Table 14-9. -/
def EL_LOG_STAT_RING_FULL : Fld := ⟨(1) * 0x10000 + (0x128), 30, 1, 0⟩
/-- EL_LOG_STAT LEVEL, Table 14-9. -/
def EL_LOG_STAT_LEVEL : Fld := ⟨(1) * 0x10000 + (0x128), 0, 13, 0⟩
/-- EL_MISSED COUNT, Table 14-9. -/
def EL_MISSED_COUNT (i : Nat) : Fld := ⟨(1) * 0x10000 + (0x200 + 4 * i), 0, 16, 0⟩
/-- EL_FIRST VALID, Table 14-9. -/
def EL_FIRST_VALID (i : Nat) : Fld := ⟨(1) * 0x10000 + (0x400 + 32 * i), 63, 1, 0⟩
/-- EL_FIRST ORIGIN, Table 14-9. -/
def EL_FIRST_ORIGIN (i : Nat) : Fld := ⟨(1) * 0x10000 + (0x400 + 32 * i), 48, 3, 0⟩
/-- EL_FIRST INIT, Table 14-9. -/
def EL_FIRST_INIT (i : Nat) : Fld := ⟨(1) * 0x10000 + (0x400 + 32 * i), 32, 12, 0⟩
/-- EL_FIRST TIME, Table 14-9. -/
def EL_FIRST_TIME (i : Nat) : Fld := ⟨(1) * 0x10000 + (0x408 + 32 * i), 0, 64, 0⟩
/-- EL_FIRST ADDR, Table 14-9. -/
def EL_FIRST_ADDR (i : Nat) : Fld := ⟨(1) * 0x10000 + (0x410 + 32 * i), 0, 48, 0⟩
/-- EL_DOUBT LATCHED, Table 14-10. -/
def EL_DOUBT_LATCHED : Fld := ⟨(2) * 0x10000 + (0x100), 0, 15, 8192⟩
/-- EL_DOUBT_FIRST ORIGIN, Table 14-10. -/
def EL_DOUBT_FIRST_ORIGIN : Fld := ⟨(2) * 0x10000 + (0x108), 8, 4, 5⟩
/-- EL_DOUBT_FIRST SRC, Table 14-10. -/
def EL_DOUBT_FIRST_SRC : Fld := ⟨(2) * 0x10000 + (0x108), 0, 4, 13⟩
/-- EL_DOUBT_FIRST TIME, Table 14-10. -/
def EL_DOUBT_FIRST_TIME : Fld := ⟨(2) * 0x10000 + (0x110), 0, 64, 0⟩
/-- EL_NET_CFG ARM, Table 14-10. -/
def EL_NET_CFG_ARM : Fld := ⟨(2) * 0x10000 + (0x120), 63, 1, 0⟩
/-- EL_NET_CFG MODE, Table 14-10. -/
def EL_NET_CFG_MODE : Fld := ⟨(2) * 0x10000 + (0x120), 57, 2, 0⟩
/-- EL_NET_CFG IMU_STREAM, Table 14-10. -/
def EL_NET_CFG_IMU_STREAM : Fld := ⟨(2) * 0x10000 + (0x120), 49, 6, 0⟩
/-- EL_NET_CFG IMU_EN, Table 14-10. -/
def EL_NET_CFG_IMU_EN : Fld := ⟨(2) * 0x10000 + (0x120), 48, 1, 0⟩
/-- EL_NET_TIME NET_OFS, Table 14-10. -/
def EL_NET_TIME_NET_OFS : Fld := ⟨(2) * 0x10000 + (0x128), 44, 20, 60500⟩
/-- EL_NET_TIME T1_MAX, Table 14-10. -/
def EL_NET_TIME_T1_MAX : Fld := ⟨(2) * 0x10000 + (0x128), 24, 20, 8000⟩
/-- EL_NET_VZ VZ, Table 14-10. -/
def EL_NET_VZ_VZ : Fld := ⟨(2) * 0x10000 + (0x130), 0, 32, 0⟩
/-- EL_NET_TAB ADDR, Table 14-10. -/
def EL_NET_TAB_ADDR : Fld := ⟨(2) * 0x10000 + (0x138), 0, 48, 0⟩
/-- EL_NET_STAT HANDOVERS, Table 14-10. -/
def EL_NET_STAT_HANDOVERS : Fld := ⟨(2) * 0x10000 + (0x140), 16, 16, 0⟩
/-- EL_NET_STAT STOPPED, Table 14-10. -/
def EL_NET_STAT_STOPPED : Fld := ⟨(2) * 0x10000 + (0x140), 7, 1, 0⟩
/-- EL_NET_STAT IMU_STALE, Table 14-10. -/
def EL_NET_STAT_IMU_STALE : Fld := ⟨(2) * 0x10000 + (0x140), 6, 1, 1⟩
/-- EL_NET_STAT BUDGET_ERR, Table 14-10. -/
def EL_NET_STAT_BUDGET_ERR : Fld := ⟨(2) * 0x10000 + (0x140), 5, 1, 0⟩
/-- EL_NET_STAT ARMED, Table 14-10. -/
def EL_NET_STAT_ARMED : Fld := ⟨(2) * 0x10000 + (0x140), 4, 1, 0⟩
/-- EL_NET_STAT OWNER, Table 14-10. -/
def EL_NET_STAT_OWNER : Fld := ⟨(2) * 0x10000 + (0x140), 3, 1, 0⟩
/-- EL_NET_STAT NET_PAIR, Table 14-10. -/
def EL_NET_STAT_NET_PAIR : Fld := ⟨(2) * 0x10000 + (0x140), 2, 1, 0⟩
/-- EL_NET_STAT PAIR_OK, Table 14-10. -/
def EL_NET_STAT_PAIR_OK : Fld := ⟨(2) * 0x10000 + (0x140), 0, 2, 3⟩
/-- EL_WDOG_CFG HOST_EN, Table 14-10. -/
def EL_WDOG_CFG_HOST_EN : Fld := ⟨(2) * 0x10000 + (0x148), 8, 1, 0⟩
/-- EL_WDOG_CFG HOST_TO, Table 14-10. -/
def EL_WDOG_CFG_HOST_TO : Fld := ⟨(2) * 0x10000 + (0x148), 0, 8, 100⟩
/-- EL_CAR EN, Table 14-11. -/
def EL_CAR_EN (i : Nat) : Fld := ⟨(2) * 0x10000 + (0x1000 + 32 * i), 31, 1, 1⟩
/-- EL_CAR DTI_MS, Table 14-11. -/
def EL_CAR_DTI_MS (i : Nat) : Fld := ⟨(2) * 0x10000 + (0x1000 + 32 * i), 0, 16, 100⟩
/-- EL_CAR FAIL, Table 14-11. -/
def EL_CAR_FAIL (i : Nat) : Fld := ⟨(2) * 0x10000 + (0x1008 + 32 * i), 31, 1, 0⟩
/-- EL_CAR RUNNING, Table 14-11. -/
def EL_CAR_RUNNING (i : Nat) : Fld := ⟨(2) * 0x10000 + (0x1008 + 32 * i), 30, 1, 0⟩
/-- EL_CAR POSTPONES, Table 14-11. -/
def EL_CAR_POSTPONES (i : Nat) : Fld := ⟨(2) * 0x10000 + (0x1008 + 32 * i), 0, 16, 0⟩
/-- EL_CAR LAST_PASS, Table 14-11. -/
def EL_CAR_LAST_PASS (i : Nat) : Fld := ⟨(2) * 0x10000 + (0x1010 + 32 * i), 0, 64, 0⟩
/-- RP_CTRL GATE_IDLE, Table 15-7. -/
def RP_CTRL_GATE_IDLE : Fld := ⟨(9) * 0x10000 + (0x10), 8, 1, 1⟩
/-- RP_STATUS SUSPENDED, Table 15-7. -/
def RP_STATUS_SUSPENDED : Fld := ⟨(9) * 0x10000 + (0x18), 9, 1, 0⟩
/-- RP_STATUS BUSY, Table 15-7. -/
def RP_STATUS_BUSY : Fld := ⟨(9) * 0x10000 + (0x18), 8, 1, 0⟩
/-- RP_BUDGET BUDGET_X, Table 15-8. -/
def RP_BUDGET_BUDGET_X : Fld := ⟨(9) * 0x10000 + (0x100), 48, 16, 100⟩
/-- RP_BUDGET BUDGET_MIN, Table 15-8. -/
def RP_BUDGET_BUDGET_MIN : Fld := ⟨(9) * 0x10000 + (0x100), 16, 32, 220000⟩
/-- RP_BUDGET A_INIT, Table 15-8. -/
def RP_BUDGET_A_INIT : Fld := ⟨(9) * 0x10000 + (0x100), 0, 16, 20000⟩
/-- RP_CNT SKIPPED, Table 15-8. -/
def RP_CNT_SKIPPED : Fld := ⟨(9) * 0x10000 + (0x108), 48, 16, 0⟩
/-- RP_CNT ZERO, Table 15-8. -/
def RP_CNT_ZERO : Fld := ⟨(9) * 0x10000 + (0x108), 32, 16, 0⟩
/-- RP_CNT CORRUPT, Table 15-8. -/
def RP_CNT_CORRUPT : Fld := ⟨(9) * 0x10000 + (0x108), 16, 16, 0⟩
/-- RP_CNT TOO_LONG, Table 15-8. -/
def RP_CNT_TOO_LONG : Fld := ⟨(9) * 0x10000 + (0x108), 0, 16, 0⟩
/-- RP_LAST_A A, Table 15-8. -/
def RP_LAST_A_A : Fld := ⟨(9) * 0x10000 + (0x110), 0, 32, 0⟩
/-- PW_CTRL PW_LOCK, Table 16-6. -/
def PW_CTRL_PW_LOCK (n : Nat) : Fld := ⟨(if n = 4 then 11 else 19 + 16 * n) * 0x10000 + (0x10), 63, 1, 0⟩
/-- PW_CTRL PKG_CAP (LD), Table 16-6. -/
def PW_CTRL_PKG_CAP : Fld := ⟨(11) * 0x10000 + (0x10), 16, 9, 0⟩
/-- PW_CTRL VOTE_EN, Table 16-6. -/
def PW_CTRL_VOTE_EN : Fld := ⟨(11) * 0x10000 + (0x10), 2, 1, 0⟩
/-- PW_CTRL FIXED, Table 16-6. -/
def PW_CTRL_FIXED : Fld := ⟨(11) * 0x10000 + (0x10), 1, 1, 0⟩
/-- PW_CTRL LEARN_EN, Table 16-6. -/
def PW_CTRL_LEARN_EN : Fld := ⟨(11) * 0x10000 + (0x10), 0, 1, 1⟩
/-- PW_STATUS MODE, Table 16-6. -/
def PW_STATUS_MODE : Fld := ⟨(11) * 0x10000 + (0x18), 4, 1, 1⟩
/-- PW_STATUS TRANS, Table 16-6. -/
def PW_STATUS_TRANS : Fld := ⟨(11) * 0x10000 + (0x18), 3, 1, 0⟩
/-- PW_STATUS STATE, Table 16-6. -/
def PW_STATUS_STATE : Fld := ⟨(11) * 0x10000 + (0x18), 0, 3, 0⟩
/-- PW_STATE_REQ TARGET, Table 16-7. -/
def PW_STATE_REQ_TARGET : Fld := ⟨(11) * 0x10000 + (0x100), 0, 3, 0⟩
/-- PW_STATE_STAT RESULT, Table 16-7. -/
def PW_STATE_STAT_RESULT : Fld := ⟨(11) * 0x10000 + (0x108), 8, 4, 0⟩
/-- PW_STATE_STAT LAST_TARGET, Table 16-7. -/
def PW_STATE_STAT_LAST_TARGET : Fld := ⟨(11) * 0x10000 + (0x108), 0, 3, 0⟩
/-- PW_WAKE_EN TCAP, Table 16-7. -/
def PW_WAKE_EN_TCAP : Fld := ⟨(11) * 0x10000 + (0x110), 16, 8, 0⟩
/-- PW_WAKE_EN CAN, Table 16-7. -/
def PW_WAKE_EN_CAN : Fld := ⟨(11) * 0x10000 + (0x110), 8, 8, 0⟩
/-- PW_WAKE_EN GPIO, Table 16-7. -/
def PW_WAKE_EN_GPIO : Fld := ⟨(11) * 0x10000 + (0x110), 0, 8, 0⟩
/-- PW_WAKE_SRC TCAP, Table 16-7. -/
def PW_WAKE_SRC_TCAP : Fld := ⟨(11) * 0x10000 + (0x118), 16, 8, 0⟩
/-- PW_WAKE_SRC CAN, Table 16-7. -/
def PW_WAKE_SRC_CAN : Fld := ⟨(11) * 0x10000 + (0x118), 8, 8, 0⟩
/-- PW_WAKE_SRC GPIO, Table 16-7. -/
def PW_WAKE_SRC_GPIO : Fld := ⟨(11) * 0x10000 + (0x118), 0, 8, 0⟩
/-- PW_RESUME ADDR, Table 16-7. -/
def PW_RESUME_ADDR : Fld := ⟨(11) * 0x10000 + (0x120), 0, 48, 0⟩
/-- PW_ALLOC A_L, Table 16-7. -/
def PW_ALLOC_A_L : Fld := ⟨(11) * 0x10000 + (0x180), 32, 16, 0⟩
/-- PW_ALLOC A_M, Table 16-7. -/
def PW_ALLOC_A_M : Fld := ⟨(11) * 0x10000 + (0x180), 16, 16, 0⟩
/-- PW_ALLOC A_C, Table 16-7. -/
def PW_ALLOC_A_C : Fld := ⟨(11) * 0x10000 + (0x180), 0, 16, 0⟩
/-- PW_MEAS P_HUB, Table 16-7. -/
def PW_MEAS_P_HUB : Fld := ⟨(11) * 0x10000 + (0x188), 48, 16, 0⟩
/-- PW_MEAS M_L, Table 16-7. -/
def PW_MEAS_M_L : Fld := ⟨(11) * 0x10000 + (0x188), 32, 16, 0⟩
/-- PW_MEAS M_M, Table 16-7. -/
def PW_MEAS_M_M : Fld := ⟨(11) * 0x10000 + (0x188), 16, 16, 0⟩
/-- PW_MEAS M_C, Table 16-7. -/
def PW_MEAS_M_C : Fld := ⟨(11) * 0x10000 + (0x188), 0, 16, 0⟩
/-- PW_FLOOR FL, Table 16-7. -/
def PW_FLOOR_FL : Fld := ⟨(11) * 0x10000 + (0x190), 32, 16, 0⟩
/-- PW_FLOOR FM, Table 16-7. -/
def PW_FLOOR_FM : Fld := ⟨(11) * 0x10000 + (0x190), 16, 16, 0⟩
/-- PW_FLOOR FC, Table 16-7. -/
def PW_FLOOR_FC : Fld := ⟨(11) * 0x10000 + (0x190), 0, 16, 0⟩
/-- PW_PHASE MISSES, Table 16-7. -/
def PW_PHASE_MISSES : Fld := ⟨(11) * 0x10000 + (0x198), 48, 16, 0⟩
/-- PW_PHASE HITS, Table 16-7. -/
def PW_PHASE_HITS : Fld := ⟨(11) * 0x10000 + (0x198), 32, 16, 0⟩
/-- PW_PHASE VALID, Table 16-7. -/
def PW_PHASE_VALID : Fld := ⟨(11) * 0x10000 + (0x198), 0, 9, 0⟩
/-- PW_MEM_EPB P_IDLE_M (LD), Table 16-7. -/
def PW_MEM_EPB_P_IDLE_M : Fld := ⟨(11) * 0x10000 + (0x1A0), 16, 16, 0⟩
/-- PW_MEM_EPB EPB_M (LD), Table 16-7. -/
def PW_MEM_EPB_EPB_M : Fld := ⟨(11) * 0x10000 + (0x1A0), 0, 16, 0⟩
/-- PW_LINK_EPB P_IDLE_L (LD), Table 16-7. -/
def PW_LINK_EPB_P_IDLE_L : Fld := ⟨(11) * 0x10000 + (0x1A4), 16, 16, 0⟩
/-- PW_LINK_EPB EPB_L (LD), Table 16-7. -/
def PW_LINK_EPB_EPB_L : Fld := ⟨(11) * 0x10000 + (0x1A4), 0, 16, 0⟩
/-- PW_VOTE VOTE_AGE, Table 16-7. -/
def PW_VOTE_VOTE_AGE : Fld := ⟨(11) * 0x10000 + (0x1B0), 16, 8, 10⟩
/-- PW_VOTE APPLIED, Table 16-7. -/
def PW_VOTE_APPLIED : Fld := ⟨(11) * 0x10000 + (0x1B0), 8, 5, 16⟩
/-- PW_VOTE OWN, Table 16-7. -/
def PW_VOTE_OWN : Fld := ⟨(11) * 0x10000 + (0x1B0), 0, 5, 16⟩
/-- PW_VOTE_SEEN PARTS, Table 16-7. -/
def PW_VOTE_SEEN_PARTS : Fld := ⟨(11) * 0x10000 + (0x1B8), 0, 32, 0⟩
/-- PW_ENERGY UJ, Table 16-7. -/
def PW_ENERGY_UJ : Fld := ⟨(11) * 0x10000 + (0x1C0), 0, 64, 0⟩
/-- PW_RAIL_CFG PMB_ADDR (LD), Table 16-7. -/
def PW_RAIL_CFG_PMB_ADDR (i : Nat) : Fld := ⟨(11) * 0x10000 + (0x200 + 16 * i), 56, 7, 0⟩
/-- PW_RAIL_CFG ILIM_HARD (LD), Table 16-7. -/
def PW_RAIL_CFG_ILIM_HARD (i : Nat) : Fld := ⟨(11) * 0x10000 + (0x200 + 16 * i), 16, 16, 0⟩
/-- PW_RAIL_CFG ILIM (LD), Table 16-7. -/
def PW_RAIL_CFG_ILIM (i : Nat) : Fld := ⟨(11) * 0x10000 + (0x200 + 16 * i), 0, 16, 0⟩
/-- PW_RAIL_STAT GAIN, Table 16-7. -/
def PW_RAIL_STAT_GAIN (i : Nat) : Fld := ⟨(11) * 0x10000 + (0x208 + 16 * i), 48, 16, 16384⟩
/-- PW_RAIL_STAT I_PEAK, Table 16-7. -/
def PW_RAIL_STAT_I_PEAK (i : Nat) : Fld := ⟨(11) * 0x10000 + (0x208 + 16 * i), 32, 16, 0⟩
/-- PW_RAIL_STAT ILIM_CNT, Table 16-7. -/
def PW_RAIL_STAT_ILIM_CNT (i : Nat) : Fld := ⟨(11) * 0x10000 + (0x208 + 16 * i), 16, 16, 0⟩
/-- PW_RAIL_STAT I_EST, Table 16-7. -/
def PW_RAIL_STAT_I_EST (i : Nat) : Fld := ⟨(11) * 0x10000 + (0x208 + 16 * i), 0, 16, 0⟩
/-- PW_THERM_CFG HBM_CRIT, Table 16-8. -/
def PW_THERM_CFG_HBM_CRIT (n : Nat) : Fld := ⟨(if n = 4 then 11 else 19 + 16 * n) * 0x10000 + (0x100 + (if n = 4 then 0x800 else 0)), 24, 8, 100⟩
/-- PW_THERM_CFG HBM_THROT, Table 16-8. -/
def PW_THERM_CFG_HBM_THROT (n : Nat) : Fld := ⟨(if n = 4 then 11 else 19 + 16 * n) * 0x10000 + (0x100 + (if n = 4 then 0x800 else 0)), 16, 8, 95⟩
/-- PW_THERM_CFG T_CRIT, Table 16-8. -/
def PW_THERM_CFG_T_CRIT (n : Nat) : Fld := ⟨(if n = 4 then 11 else 19 + 16 * n) * 0x10000 + (0x100 + (if n = 4 then 0x800 else 0)), 8, 8, 103⟩
/-- PW_THERM_CFG T_THROT, Table 16-8. -/
def PW_THERM_CFG_T_THROT (n : Nat) : Fld := ⟨(if n = 4 then 11 else 19 + 16 * n) * 0x10000 + (0x100 + (if n = 4 then 0x800 else 0)), 0, 8, 95⟩
/-- PW_TEMP_MAX STACK, Table 16-8. -/
def PW_TEMP_MAX_STACK (n : Nat) : Fld := ⟨(if n = 4 then 11 else 19 + 16 * n) * 0x10000 + (0x180 + (if n = 4 then 0x800 else 0)), 16, 12, 0⟩
/-- PW_TEMP_MAX DIE, Table 16-8. -/
def PW_TEMP_MAX_DIE (n : Nat) : Fld := ⟨(if n = 4 then 11 else 19 + 16 * n) * 0x10000 + (0x180 + (if n = 4 then 0x800 else 0)), 0, 12, 0⟩
/-- PW_DUTY ALLOC, Table 16-8. -/
def PW_DUTY_ALLOC (n : Nat) : Fld := ⟨(if n = 4 then 11 else 19 + 16 * n) * 0x10000 + (0x188 + (if n = 4 then 0x800 else 0)), 24, 5, 16⟩
/-- PW_DUTY RAIL, Table 16-8. -/
def PW_DUTY_RAIL (n : Nat) : Fld := ⟨(if n = 4 then 11 else 19 + 16 * n) * 0x10000 + (0x188 + (if n = 4 then 0x800 else 0)), 16, 5, 16⟩
/-- PW_DUTY THERM, Table 16-8. -/
def PW_DUTY_THERM (n : Nat) : Fld := ⟨(if n = 4 then 11 else 19 + 16 * n) * 0x10000 + (0x188 + (if n = 4 then 0x800 else 0)), 8, 5, 16⟩
/-- PW_DUTY APPLIED, Table 16-8. -/
def PW_DUTY_APPLIED (n : Nat) : Fld := ⟨(if n = 4 then 11 else 19 + 16 * n) * 0x10000 + (0x188 + (if n = 4 then 0x800 else 0)), 0, 5, 16⟩
/-- PW_VSET V_MIN (LD), Table 16-8. -/
def PW_VSET_V_MIN (n : Nat) : Fld := ⟨(if n = 4 then 11 else 19 + 16 * n) * 0x10000 + (0x190 + (if n = 4 then 0x800 else 0)), 16, 10, 0⟩
/-- PW_VSET V_SET (LD), Table 16-8. -/
def PW_VSET_V_SET (n : Nat) : Fld := ⟨(if n = 4 then 11 else 19 + 16 * n) * 0x10000 + (0x190 + (if n = 4 then 0x800 else 0)), 0, 10, 0⟩
/-- PW_TEMP T, Table 16-8. -/
def PW_TEMP_T (n i : Nat) : Fld := ⟨(if n = 4 then 11 else 19 + 16 * n) * 0x10000 + (0x200 + 4 * i + (if n = 4 then 0x800 else 0)), 0, 12, 0⟩
/-- BT_RESET ENG, Table 17-9. -/
def BT_RESET_ENG : Fld := ⟨(0) * 0x10000 + (0x100), 28, 36, 0⟩
/-- BT_RESET DIE, Table 17-9. -/
def BT_RESET_DIE : Fld := ⟨(0) * 0x10000 + (0x100), 8, 4, 0⟩
/-- BT_RESET WARM, Table 17-9. -/
def BT_RESET_WARM : Fld := ⟨(0) * 0x10000 + (0x100), 0, 1, 0⟩
/-- BT_RST_CAUSE ISL, Table 17-9. -/
def BT_RST_CAUSE_ISL : Fld := ⟨(0) * 0x10000 + (0x108), 3, 1, 0⟩
/-- BT_RST_CAUSE WR_SW, Table 17-9. -/
def BT_RST_CAUSE_WR_SW : Fld := ⟨(0) * 0x10000 + (0x108), 2, 1, 0⟩
/-- BT_RST_CAUSE WR_PIN, Table 17-9. -/
def BT_RST_CAUSE_WR_PIN : Fld := ⟨(0) * 0x10000 + (0x108), 1, 1, 0⟩
/-- BT_RST_CAUSE POWER_ON, Table 17-9. -/
def BT_RST_CAUSE_POWER_ON : Fld := ⟨(0) * 0x10000 + (0x108), 0, 1, 1⟩
/-- BT_BOOT_STAT SLOT_B, Table 17-9. -/
def BT_BOOT_STAT_SLOT_B : Fld := ⟨(0) * 0x10000 + (0x110), 16, 8, 0⟩
/-- BT_BOOT_STAT BOOT_ERR, Table 17-9. -/
def BT_BOOT_STAT_BOOT_ERR : Fld := ⟨(0) * 0x10000 + (0x110), 8, 8, 0⟩
/-- BT_BOOT_STAT PHASE, Table 17-9. -/
def BT_BOOT_STAT_PHASE : Fld := ⟨(0) * 0x10000 + (0x110), 0, 4, 0⟩
/-- BT_LC CFG_VER (LD), Table 17-9. -/
def BT_LC_CFG_VER : Fld := ⟨(0) * 0x10000 + (0x118), 32, 32, 0⟩
/-- BT_LC LC (LD), Table 17-9. -/
def BT_LC_LC : Fld := ⟨(0) * 0x10000 + (0x118), 0, 2, 0⟩
/-- BT_DEVICE_ID ID (LD), Table 17-9. -/
def BT_DEVICE_ID_ID : Fld := ⟨(0) * 0x10000 + (0x120), 0, 64, 0⟩
/-- BT_DBG_STAT FAILS, Table 17-9. -/
def BT_DBG_STAT_FAILS : Fld := ⟨(0) * 0x10000 + (0x128), 8, 8, 0⟩
/-- BT_DBG_STAT OPEN (LD), Table 17-9. -/
def BT_DBG_STAT_OPEN : Fld := ⟨(0) * 0x10000 + (0x128), 0, 3, 0⟩
/-- BT_DBG_NONCE NONCE (X), Table 17-9. -/
def BT_DBG_NONCE_NONCE (i : Nat) : Fld := ⟨(0) * 0x10000 + (0x140 + 8 * i), 0, 64, 0⟩
/-- EL_ING PEAK, Table 18-9. -/
def EL_ING_PEAK (n : Nat) : Fld := ⟨(21 + 16 * n) * 0x10000 + (0x100), 16, 7, 0⟩
/-- EL_ING LEVEL, Table 18-9. -/
def EL_ING_LEVEL (n : Nat) : Fld := ⟨(21 + 16 * n) * 0x10000 + (0x100), 0, 7, 0⟩
/-- IO_MODE EN, Table 19-10. -/
def IO_MODE_EN (n : Nat) : Fld := ⟨(112 + n) * 0x10000 + (0x100), 63, 1, 0⟩
/-- IO_MODE MAXGEN, Table 19-10. -/
def IO_MODE_MAXGEN (n : Nat) : Fld := ⟨(112 + n) * 0x10000 + (0x100), 8, 3, if n = 1 then 4 else 5⟩
/-- IO_MODE WIDTH, Table 19-10. -/
def IO_MODE_WIDTH (n : Nat) : Fld := ⟨(112 + n) * 0x10000 + (0x100), 4, 2, if n = 1 then 2 else 3⟩
/-- IO_MODE SRNS, Table 19-10. -/
def IO_MODE_SRNS (n : Nat) : Fld := ⟨(112 + n) * 0x10000 + (0x100), 3, 1, 0⟩
/-- IO_MODE CPHY, Table 19-10. -/
def IO_MODE_CPHY (n : Nat) : Fld := ⟨(112 + n) * 0x10000 + (0x100), 2, 1, 0⟩
/-- IO_MODE PCS, Table 19-10. -/
def IO_MODE_PCS (n : Nat) : Fld := ⟨(112 + n) * 0x10000 + (0x100), 0, 2, 0⟩
/-- IO_ECAM BASE, Table 19-10. -/
def IO_ECAM_BASE (n : Nat) : Fld := ⟨(112 + n) * 0x10000 + (0x108), 28, 20, 0⟩
/-- IO_CAN_CFG PROTO, Table 19-11. -/
def IO_CAN_CFG_PROTO (n : Nat) : Fld := ⟨(128 + n) * 0x10000 + (0x110), 16, 2, 0⟩
/-- IO_CAN_CFG XL_TMS, Table 19-11. -/
def IO_CAN_CFG_XL_TMS (n : Nat) : Fld := ⟨(128 + n) * 0x10000 + (0x110), 9, 1, 0⟩
/-- IO_CAN_CFG TDC_EN, Table 19-11. -/
def IO_CAN_CFG_TDC_EN (n : Nat) : Fld := ⟨(128 + n) * 0x10000 + (0x110), 8, 1, 0⟩
/-- IO_CAN_BT SJW, Table 19-11. -/
def IO_CAN_BT_SJW (n i : Nat) : Fld := ⟨(128 + n) * 0x10000 + (0x118 + 8 * i), 25, 7, 0⟩
/-- IO_CAN_BT TSEG2, Table 19-11. -/
def IO_CAN_BT_TSEG2 (n i : Nat) : Fld := ⟨(128 + n) * 0x10000 + (0x118 + 8 * i), 18, 7, 0⟩
/-- IO_CAN_BT TSEG1, Table 19-11. -/
def IO_CAN_BT_TSEG1 (n i : Nat) : Fld := ⟨(128 + n) * 0x10000 + (0x118 + 8 * i), 10, 8, 0⟩
/-- IO_CAN_BT BRP, Table 19-11. -/
def IO_CAN_BT_BRP (n i : Nat) : Fld := ⟨(128 + n) * 0x10000 + (0x118 + 8 * i), 0, 10, 0⟩
/-- IO_CAN_AUX TDCO, Table 19-11. -/
def IO_CAN_AUX_TDCO (n : Nat) : Fld := ⟨(128 + n) * 0x10000 + (0x130), 24, 7, 0⟩
/-- IO_CAN_AUX PWMO, Table 19-11. -/
def IO_CAN_AUX_PWMO (n : Nat) : Fld := ⟨(128 + n) * 0x10000 + (0x130), 16, 6, 0⟩
/-- IO_CAN_AUX PWML, Table 19-11. -/
def IO_CAN_AUX_PWML (n : Nat) : Fld := ⟨(128 + n) * 0x10000 + (0x130), 8, 6, 0⟩
/-- IO_CAN_AUX PWMS, Table 19-11. -/
def IO_CAN_AUX_PWMS (n : Nat) : Fld := ⟨(128 + n) * 0x10000 + (0x130), 0, 6, 0⟩
/-- IO_GPIO_OUT OUT, Table 19-12. -/
def IO_GPIO_OUT_OUT : Fld := ⟨(145) * 0x10000 + (0x100), 0, 32, 0⟩
/-- IO_GPIO_OE OE, Table 19-12. -/
def IO_GPIO_OE_OE : Fld := ⟨(145) * 0x10000 + (0x108), 0, 32, 0⟩
/-- IO_GPIO_IN IN (X), Table 19-12. -/
def IO_GPIO_IN_IN : Fld := ⟨(145) * 0x10000 + (0x110), 0, 32, 0⟩
/-- IO_PAD SLEW, Table 19-12. -/
def IO_PAD_SLEW (i : Nat) : Fld := ⟨(145) * 0x10000 + (0x1000 + 1 * i), 4, 1, 0⟩
/-- IO_PAD PULL, Table 19-12. -/
def IO_PAD_PULL (i : Nat) : Fld := ⟨(145) * 0x10000 + (0x1000 + 1 * i), 2, 2, 1⟩
/-- IO_PAD DRIVE, Table 19-12. -/
def IO_PAD_DRIVE (i : Nat) : Fld := ⟨(145) * 0x10000 + (0x1000 + 1 * i), 0, 2, 1⟩
/-- PHY_LANE TX_INV, Table 19-13. -/
def PHY_LANE_TX_INV (n i : Nat) : Fld := ⟨(if n < 16 then 160 + n else 164 + n) * 0x10000 + (0x100 + 8 * i), 63, 1, 0⟩
/-- PHY_LANE RX_INV, Table 19-13. -/
def PHY_LANE_RX_INV (n i : Nat) : Fld := ⟨(if n < 16 then 160 + n else 164 + n) * 0x10000 + (0x100 + 8 * i), 62, 1, 0⟩
/-- PHY_LANE FFE_PRE, Table 19-13. -/
def PHY_LANE_FFE_PRE (n i : Nat) : Fld := ⟨(if n < 16 then 160 + n else 164 + n) * 0x10000 + (0x100 + 8 * i), 16, 6, 0⟩
/-- PHY_LANE FFE_POST, Table 19-13. -/
def PHY_LANE_FFE_POST (n i : Nat) : Fld := ⟨(if n < 16 then 160 + n else 164 + n) * 0x10000 + (0x100 + 8 * i), 8, 6, 8⟩
/-- PHY_LANE SWING, Table 19-13. -/
def PHY_LANE_SWING (n i : Nat) : Fld := ⟨(if n < 16 then 160 + n else 164 + n) * 0x10000 + (0x100 + 8 * i), 0, 4, 15⟩
/-- YL_CTRL EN, Table 19-14. -/
def YL_CTRL_EN (n : Nat) : Fld := ⟨(176 + n) * 0x10000 + (0x10), 63, 1, 0⟩
/-- YL_CTRL LANES_MIN, Table 19-14. -/
def YL_CTRL_LANES_MIN (n : Nat) : Fld := ⟨(176 + n) * 0x10000 + (0x10), 0, 2, 2⟩
/-- YL_STATUS UP, Table 19-14. -/
def YL_STATUS_UP (n : Nat) : Fld := ⟨(176 + n) * 0x10000 + (0x18), 31, 1, 0⟩
/-- YL_STATUS WIDTH, Table 19-14. -/
def YL_STATUS_WIDTH (n : Nat) : Fld := ⟨(176 + n) * 0x10000 + (0x18), 16, 4, 0⟩
/-- YL_STATUS PEER, Table 19-14. -/
def YL_STATUS_PEER (n : Nat) : Fld := ⟨(176 + n) * 0x10000 + (0x18), 0, 5, 0⟩
/-- YL_SELF SELF, Table 19-14. -/
def YL_SELF_SELF : Fld := ⟨(176) * 0x10000 + (0x100), 0, 5, 0⟩
/-- YL_FEC_CNT CORR, Table 19-14. -/
def YL_FEC_CNT_CORR (n : Nat) : Fld := ⟨(176 + n) * 0x10000 + (0x108), 32, 32, 0⟩
/-- YL_FEC_CNT UNCORR, Table 19-14. -/
def YL_FEC_CNT_UNCORR (n : Nat) : Fld := ⟨(176 + n) * 0x10000 + (0x108), 0, 32, 0⟩
/-- CL_STATUS HART_ON, Table 19-14. -/
def CL_STATUS_HART_ON (n : Nat) : Fld := ⟨(99 + n) * 0x10000 + (0x18), 0, 4, 0⟩
/-- CL_ECC_CNT UNCORR, Table 19-14. -/
def CL_ECC_CNT_UNCORR (n : Nat) : Fld := ⟨(99 + n) * 0x10000 + (0x100), 16, 16, 0⟩
/-- CL_ECC_CNT CORR, Table 19-14. -/
def CL_ECC_CNT_CORR (n : Nat) : Fld := ⟨(99 + n) * 0x10000 + (0x100), 0, 16, 0⟩
/-- INT_STAT of page `p` (Table 18-1). -/
def INT_STAT (p : Nat) : Fld := ⟨p * 0x10000 + 0x020, 0, 32, 0⟩
/-- INT_EN of page `p` (Table 18-1). -/
def INT_EN (p : Nat) : Fld := ⟨p * 0x10000 + 0x024, 0, 32, 0⟩
/-- INT_ROUTE ROUTE_LOCK (Table 18-6). -/
def INT_ROUTE_LOCK (p : Nat) : Fld := ⟨p * 0x10000 + 0x030, 63, 1, 0⟩
/-- INT_ROUTE DEST (Table 18-6). -/
def INT_ROUTE_DEST (p : Nat) : Fld := ⟨p * 0x10000 + 0x030, 56, 2, 0⟩
/-- INT_ROUTE LEVEL (Table 18-6). -/
def INT_ROUTE_LEVEL (p : Nat) : Fld := ⟨p * 0x10000 + 0x030, 52, 2, 0⟩
/-- INT_ROUTE HART (Table 18-6). -/
def INT_ROUTE_HART (p : Nat) : Fld := ⟨p * 0x10000 + 0x030, 48, 4, 0⟩
/-- INT_ROUTE GUEST (Table 18-6). -/
def INT_ROUTE_GUEST (p : Nat) : Fld := ⟨p * 0x10000 + 0x030, 44, 4, 0⟩
/-- INT_ROUTE IDENT (Table 18-6). -/
def INT_ROUTE_IDENT (p : Nat) : Fld := ⟨p * 0x10000 + 0x030, 0, 11, 0⟩
/-- ERRW_INFO VALID (Table 18-7). -/
def ERRW_VALID (p : Nat) : Fld := ⟨p * 0x10000 + 0x040, 63, 1, 0⟩
/-- ERRW_INFO WRITE (Table 18-7). -/
def ERRW_WRITE (p : Nat) : Fld := ⟨p * 0x10000 + 0x040, 62, 1, 0⟩
/-- ERRW_INFO KIND (Table 18-7). -/
def ERRW_KIND (p : Nat) : Fld := ⟨p * 0x10000 + 0x040, 59, 3, 0⟩
/-- ERRW_INFO INIT (Table 18-7). -/
def ERRW_INIT (p : Nat) : Fld := ⟨p * 0x10000 + 0x040, 40, 12, 0⟩
/-- ERRW_INFO TICKET (Table 18-7). -/
def ERRW_TICKET (p : Nat) : Fld := ⟨p * 0x10000 + 0x040, 32, 6, 0⟩
/-- ERRW_INFO OFFSET (Table 18-7). -/
def ERRW_OFFSET (p : Nat) : Fld := ⟨p * 0x10000 + 0x040, 0, 16, 0⟩
/-- ERRW_DATA (Table 18-7). -/
def ERRW_DATA (p : Nat) : Fld := ⟨p * 0x10000 + 0x048, 0, 64, 0⟩
/-- ERRW_CNT COUNT (Table 18-7). -/
def ERRW_CNT (p : Nat) : Fld := ⟨p * 0x10000 + 0x050, 0, 16, 0⟩

end Sys2Proof.Machine
end

