-- ==== Sys2Proof/Machine/RegMap.lean ====
section
/-! DEFINITION. The register map for accesses by address: for each kind of page the registers its tables list, with
the access code, reset value and Restored by column of every field (R8 to R16, R661, R679, Table 18-3). -/

namespace Sys2Proof.Machine

/-- The access codes of Table 0-4. -/
inductive Acc
  | rw | ro | w1c | w1s | wo | rwl
  deriving DecidableEq, Repr

/-- A row of a register table. `restore` is the Restored by column as a sum of 1 WR, 2 DIE, 4 ENG, 8 ISL, 16 P1,
32 P2, 64 P3, with 128 for "as the page" (PO restores every field, R14). `own` says which writes have a row of
their own in the command table: 0 none, 1 all, 2 writes of a 1, 3 writes of a 0. `isl` is 1 for island initiators
only and 2 where values 0 to 7 are island only (R328). -/
structure FieldRow where
  hi : Nat
  lo : Nat
  acc : Acc
  reset : Nat
  restore : Nat
  own : Nat
  isl : Nat
  deriving DecidableEq, Repr

/-- A register or a regular array of registers: first offset, count, stride, width in bytes (R661), fields. -/
structure RegRow where
  off : Nat
  count : Nat
  stride : Nat
  bytes : Nat
  fields : List FieldRow
  deriving DecidableEq, Repr


/-- Registers of pages of kind bt. -/
def rows_bt0 : List RegRow := [
  ⟨0x100, 1, 8, 4, [⟨31, 24, .rw, 24, 19, 0, 0⟩, ⟨23, 16, .rw, 4, 19, 0, 0⟩, ⟨0, 0, .rw, 1, 19, 0, 0⟩]⟩, -- BT_HBM_CTRL
  ⟨0x108, 1, 8, 4, [⟨31, 22, .ro, 0, 19, 0, 0⟩, ⟨21, 9, .ro, 0, 19, 0, 0⟩, ⟨8, 0, .ro, 0, 19, 0, 0⟩]⟩, -- BT_HBM_HEALTH
  ⟨0x400, 256, 8, 8, [⟨63, 63, .ro, 0, 19, 0, 0⟩, ⟨47, 6, .ro, 0, 19, 0, 0⟩]⟩, -- BT_LOST
  ⟨0x10C, 1, 4, 4, [⟨20, 0, .ro, 0, 19, 0, 0⟩]⟩, -- BT_HBM_CAP
  ⟨0x110, 1, 4, 4, [⟨31, 16, .rw, 0, 19, 0, 0⟩, ⟨15, 0, .rw, 0, 19, 0, 0⟩]⟩, -- BT_ECC_CNT
  ⟨0x200, 4, 4, 4, [⟨31, 31, .ro, 0, 19, 0, 0⟩, ⟨27, 24, .ro, 0, 19, 0, 0⟩, ⟨15, 0, .rw, 0, 19, 0, 0⟩]⟩ -- BT_LINK_STAT
]

/-- Registers of pages of kind ce. -/
def rows_ce0 : List RegRow := [
  ⟨0x1000, 256, 4, 4, [⟨15, 0, .rw, 0, 19, 0, 0⟩]⟩, -- CE_CTR
  ⟨0x18, 1, 8, 8, [⟨16, 16, .w1c, 0, 19, 0, 0⟩, ⟨15, 0, .ro, 0, 19, 0, 0⟩]⟩, -- CE_STATUS
  ⟨0x100, 16, 1, 1, [⟨6, 0, .ro, 64, 19, 0, 0⟩]⟩, -- CE_INFLIGHT
  ⟨0x180, 1, 4, 4, [⟨31, 16, .rw, 0, 19, 0, 0⟩, ⟨15, 0, .rw, 0, 19, 0, 0⟩]⟩ -- CE_CVT_CNT
]

/-- Registers of pages of kind te, part 1. -/
def rows_te0 : List RegRow := [
  ⟨0x8, 1, 8, 8, [⟨8, 8, .ro, 0, 19, 0, 0⟩, ⟨7, 4, .ro, 4, 19, 0, 0⟩, ⟨3, 0, .ro, 0, 19, 0, 0⟩]⟩, -- TE_CAP
  ⟨0x10, 1, 8, 8, [⟨8, 8, .rw, 1, 23, 0, 0⟩, ⟨1, 1, .wo, 0, 23, 1, 1⟩]⟩, -- TE_CTRL
  ⟨0x18, 1, 8, 8, [⟨27, 24, .ro, 0, 19, 0, 0⟩, ⟨18, 16, .ro, 0, 19, 0, 0⟩, ⟨9, 9, .ro, 0, 23, 0, 0⟩, ⟨8, 8, .ro, 0, 23, 0, 0⟩, ⟨4, 0, .ro, 0, 23, 0, 0⟩]⟩, -- TE_STATUS
  ⟨0x100, 1, 4, 4, [⟨31, 31, .w1c, 0, 19, 0, 0⟩, ⟨30, 30, .w1c, 0, 19, 0, 0⟩, ⟨29, 29, .w1c, 0, 19, 0, 0⟩, ⟨15, 0, .rw, 0, 19, 0, 0⟩]⟩, -- TE_GOLD_STAT
  ⟨0x108, 1, 8, 8, [⟨63, 0, .ro, 0, 23, 0, 0⟩]⟩, -- TE_GOLD_LAST
  ⟨0x110, 1, 4, 4, [⟨1, 0, .ro, 0, 19, 0, 0⟩]⟩, -- TE_HEALTH
  ⟨0x118, 1, 4, 4, [⟨31, 16, .rw, 0, 23, 0, 0⟩, ⟨15, 0, .rw, 0, 23, 0, 0⟩]⟩, -- TE_PRE
  ⟨0x120, 1, 4, 4, [⟨31, 16, .rw, 0, 23, 0, 0⟩, ⟨15, 0, .rw, 0, 23, 0, 0⟩]⟩, -- TE_CVT_CNT
  ⟨0x124, 1, 4, 4, [⟨15, 0, .rw, 0, 23, 0, 0⟩]⟩, -- TE_ACC_CNT
  ⟨0x140, 20, 8, 8, [⟨63, 0, .ro, 0, 19, 0, 0⟩]⟩, -- TE_GOLD_SIG
  ⟨0x128, 1, 4, 4, [⟨31, 16, .rw, 0, 23, 0, 0⟩, ⟨15, 0, .rw, 0, 23, 0, 0⟩]⟩, -- TE_SCALE_CNT
  ⟨0x12C, 1, 4, 4, [⟨31, 16, .rw, 0, 23, 0, 0⟩, ⟨15, 0, .rw, 0, 23, 0, 0⟩]⟩ -- TE_REDO_CNT
]

/-- Registers of pages of kind te, part 2. -/
def rows_te1 : List RegRow := [
  ⟨0x130, 1, 4, 4, [⟨31, 0, .ro, 0, 23, 0, 0⟩]⟩, -- TE_SCALE_LAST
  ⟨0x134, 1, 4, 4, [⟨2, 2, .w1c, 0, 19, 0, 0⟩, ⟨1, 1, .w1c, 0, 19, 0, 0⟩, ⟨0, 0, .w1c, 0, 19, 0, 0⟩]⟩ -- TE_CTRL_CHK
]

/-- Registers of pages of kind kv. -/
def rows_kv0 : List RegRow := [
  ⟨0x100, 1, 8, 8, [⟨47, 15, .rw, 0, 19, 0, 0⟩]⟩, -- KV_POOL_BASE
  ⟨0x108, 1, 4, 4, [⟨19, 0, .rw, 0, 19, 0, 0⟩]⟩, -- KV_POOL_PAGES
  ⟨0x110, 1, 8, 8, [⟨47, 12, .rw, 0, 19, 0, 0⟩]⟩, -- KV_PT_BASE
  ⟨0x118, 1, 8, 8, [⟨47, 12, .rw, 0, 19, 0, 0⟩]⟩, -- KV_CTX_BASE
  ⟨0x10, 1, 8, 8, [⟨1, 1, .wo, 0, 19, 1, 1⟩]⟩, -- KV_CTRL
  ⟨0x18, 1, 8, 8, [⟨18, 16, .ro, 0, 19, 0, 0⟩, ⟨9, 9, .ro, 0, 19, 0, 0⟩, ⟨8, 8, .ro, 0, 19, 0, 0⟩]⟩, -- KV_STATUS
  ⟨0x120, 1, 4, 4, [⟨31, 16, .rw, 0, 19, 0, 0⟩, ⟨15, 0, .rw, 0, 19, 0, 0⟩]⟩, -- KV_STALE_CNT
  ⟨0x124, 1, 4, 4, [⟨31, 16, .rw, 0, 19, 0, 0⟩, ⟨15, 0, .rw, 0, 19, 0, 0⟩]⟩, -- KV_MISC_CNT
  ⟨0x130, 1, 4, 4, [⟨31, 31, .w1c, 0, 19, 0, 0⟩, ⟨30, 30, .w1c, 0, 19, 0, 0⟩, ⟨29, 29, .w1c, 0, 19, 0, 0⟩, ⟨15, 0, .rw, 0, 19, 0, 0⟩]⟩, -- KV_GOLD_STAT
  ⟨0x140, 20, 8, 8, [⟨63, 0, .ro, 0, 19, 0, 0⟩]⟩ -- KV_GOLD_SIG
]

/-- Registers of pages of kind kv4. -/
def rows_kv40 : List RegRow := [
  ⟨0x100, 1, 4, 4, [⟨27, 16, .ro, 0, 65, 0, 0⟩, ⟨15, 0, .rw, 0, 65, 0, 0⟩]⟩ -- KV_HOT_STAT
]

/-- Registers of pages of kind rm, part 1. -/
def rows_rm0 : List RegRow := [
  ⟨0x140, 1, 4, 4, [⟨15, 0, .rw, 0, 65, 0, 0⟩]⟩, -- RM_QSEL
  ⟨0x148, 1, 8, 8, [⟨63, 63, .rwl, 0, 65, 1, 0⟩, ⟨62, 62, .rwl, 0, 65, 0, 0⟩, ⟨61, 61, .rwl, 0, 65, 0, 0⟩, ⟨60, 56, .rwl, 1, 65, 0, 0⟩, ⟨55, 51, .rwl, 1, 65, 0, 0⟩, ⟨50, 50, .w1s, 0, 65, 0, 1⟩, ⟨47, 0, .rwl, 0, 65, 0, 0⟩]⟩, -- RM_QCFG0
  ⟨0x150, 1, 8, 8, [⟨63, 54, .rwl, 0, 65, 0, 0⟩, ⟨53, 48, .rwl, 63, 65, 0, 2⟩, ⟨47, 0, .rwl, 0, 65, 0, 0⟩]⟩, -- RM_QCFG1
  ⟨0x158, 1, 8, 8, [⟨51, 48, .rwl, 0, 65, 0, 0⟩, ⟨43, 33, .rwl, 0, 65, 0, 0⟩, ⟨32, 32, .rwl, 0, 65, 0, 0⟩, ⟨24, 16, .rwl, 0, 65, 0, 0⟩, ⟨11, 0, .rwl, 0, 65, 0, 0⟩]⟩, -- RM_QCFG2
  ⟨0x160, 1, 8, 8, [⟨63, 32, .ro, 0, 65, 0, 0⟩, ⟨31, 0, .ro, 0, 65, 0, 0⟩]⟩, -- RM_QCFG3
  ⟨0x168, 1, 8, 8, [⟨63, 32, .ro, 0, 65, 0, 0⟩, ⟨31, 0, .ro, 0, 65, 0, 0⟩]⟩, -- RM_QCFG4
  ⟨0x170, 1, 4, 4, [⟨31, 31, .w1c, 0, 65, 0, 0⟩, ⟨30, 30, .w1c, 0, 65, 0, 0⟩, ⟨29, 29, .w1c, 0, 65, 0, 0⟩, ⟨15, 0, .rw, 0, 65, 0, 0⟩]⟩, -- RM_QSTAT
  ⟨0x10, 1, 8, 8, [⟨0, 0, .rw, 1, 65, 0, 0⟩]⟩, -- RM_CTRL
  ⟨0x18, 1, 8, 8, [⟨31, 30, .ro, 0, 65, 0, 0⟩, ⟨29, 29, .ro, 0, 65, 0, 0⟩, ⟨28, 28, .ro, 0, 65, 0, 0⟩, ⟨4, 0, .ro, 0, 65, 0, 0⟩]⟩, -- RM_STATUS
  ⟨0x100, 1, 8, 8, [⟨47, 0, .rw, 0, 65, 0, 0⟩]⟩, -- RM_PLAN_ADDR
  ⟨0x108, 1, 4, 4, [⟨2, 0, .wo, 0, 65, 1, 1⟩]⟩, -- RM_PLAN_CMD
  ⟨0x110, 1, 4, 4, [⟨15, 8, .ro, 0, 65, 0, 0⟩, ⟨1, 0, .ro, 0, 65, 0, 0⟩]⟩ -- RM_PLAN_STAT
]

/-- Registers of pages of kind rm, part 2. -/
def rows_rm1 : List RegRow := [
  ⟨0x118, 1, 8, 8, [⟨63, 0, .ro, 0, 65, 0, 0⟩]⟩, -- RM_PLAN_ID
  ⟨0x120, 1, 8, 8, [⟨47, 0, .ro, 0, 65, 0, 0⟩]⟩, -- RM_FRAME
  ⟨0x180, 1, 8, 8, [⟨47, 32, .rw, 0, 65, 0, 0⟩, ⟨31, 16, .rw, 0, 65, 0, 0⟩, ⟨15, 0, .rw, 0, 65, 0, 0⟩]⟩, -- RM_MISS_CNT
  ⟨0x188, 1, 8, 8, [⟨47, 32, .rw, 0, 65, 0, 0⟩, ⟨31, 16, .rw, 0, 65, 0, 0⟩, ⟨15, 0, .rw, 1, 65, 0, 0⟩]⟩, -- RM_CHARGE_W
  ⟨0x190, 1, 8, 8, [⟨63, 0, .ro, 0, 65, 0, 0⟩]⟩, -- RM_SVT
  ⟨0x800, 109, 4, 4, [⟨2, 2, .w1c, 0, 65, 0, 0⟩, ⟨1, 1, .ro, 0, 65, 0, 0⟩, ⟨0, 0, .ro, 0, 65, 0, 0⟩]⟩, -- RM_UNIT_STAT
  ⟨0x400, 16, 8, 8, [⟨63, 63, .rw, 0, 65, 3, 0⟩, ⟨58, 58, .rw, 0, 65, 0, 0⟩, ⟨57, 56, .rw, 0, 65, 0, 0⟩, ⟨55, 48, .rw, 0, 65, 0, 0⟩, ⟨47, 0, .rw, 0, 65, 0, 0⟩]⟩, -- RM_SG_CFG
  ⟨0x480, 1, 8, 8, [⟨51, 32, .wo, 0, 65, 1, 0⟩, ⟨23, 22, .wo, 0, 65, 1, 0⟩, ⟨21, 18, .wo, 0, 65, 1, 0⟩, ⟨17, 0, .wo, 0, 65, 1, 0⟩]⟩, -- RM_SG_REQ
  ⟨0x488, 1, 4, 4, [⟨15, 0, .wo, 0, 65, 1, 0⟩]⟩, -- RM_SG_STEP
  ⟨0x4C0, 16, 8, 8, [⟨50, 50, .w1c, 0, 65, 0, 0⟩, ⟨49, 49, .w1c, 0, 65, 0, 0⟩, ⟨48, 48, .ro, 0, 65, 0, 0⟩, ⟨42, 32, .ro, 0, 65, 0, 0⟩, ⟨31, 0, .ro, 0, 65, 0, 0⟩]⟩, -- RM_SG_STAT
  ⟨0x1000, 1024, 4, 4, [⟨15, 0, .rw, 0, 65, 0, 0⟩]⟩, -- RM_CLIENT_SHARE
  ⟨0x8000, 1024, 32, 8, [⟨63, 0, .rw, 0, 65, 0, 0⟩]⟩ -- RM_CLIENT_ACCT
]

/-- Registers of pages of kind rm, part 3. -/
def rows_rm2 : List RegRow := [
  ⟨0x8008, 1024, 32, 8, [⟨63, 0, .rw, 0, 65, 0, 0⟩]⟩, -- RM_CLIENT_ACCT
  ⟨0x8010, 1024, 32, 8, [⟨63, 10, .rw, 0, 65, 0, 0⟩, ⟨9, 0, .rw, 0, 65, 0, 0⟩]⟩, -- RM_CLIENT_ACCT
  ⟨0x8018, 1024, 32, 8, [⟨63, 0, .rw, 0, 65, 0, 0⟩]⟩ -- RM_CLIENT_ACCT
]

/-- Registers of pages of kind fwany. -/
def rows_fwany0 : List RegRow := [
  ⟨0x10, 1, 8, 8, [⟨0, 0, .w1s, 0, 128, 0, 1⟩]⟩, -- FW_CTRL
  ⟨0x100, 1, 8, 8, [⟨63, 63, .w1c, 0, 128, 0, 0⟩, ⟨62, 62, .ro, 0, 128, 0, 0⟩, ⟨59, 58, .ro, 0, 128, 0, 0⟩, ⟨57, 52, .ro, 0, 128, 0, 0⟩, ⟨51, 40, .ro, 0, 128, 0, 0⟩, ⟨39, 30, .ro, 0, 128, 0, 0⟩, ⟨15, 0, .rw, 0, 128, 0, 0⟩]⟩, -- FW_VIOL_INFO
  ⟨0x108, 1, 8, 8, [⟨47, 0, .ro, 0, 128, 0, 0⟩]⟩, -- FW_VIOL_ADDR
  ⟨0x1000, 320, 16, 8, [⟨47, 32, .rwl, 0, 128, 1, 0⟩, ⟨31, 0, .rwl, 0, 128, 1, 0⟩]⟩, -- FW_TS_RATE
  ⟨0x1008, 320, 16, 8, [⟨63, 32, .ro, 0, 128, 0, 0⟩, ⟨31, 0, .rwl, 0, 128, 0, 0⟩]⟩, -- FW_TS_BUDGET
  ⟨0x440, 5, 8, 8, [⟨63, 0, .w1c, 0, 128, 0, 0⟩]⟩, -- FW_GM_MISS
  ⟨0x480, 5, 4, 4, [⟨31, 16, .rw, 0, 128, 0, 0⟩, ⟨15, 0, .rw, 0, 128, 0, 0⟩]⟩, -- FW_GM_CNT
  ⟨0x4C0, 5, 4, 4, [⟨15, 0, .rw, 0, 128, 0, 0⟩]⟩ -- FW_TS_HOLD
]

/-- Registers of pages of kind fw4. -/
def rows_fw40 : List RegRow := [
  ⟨0x18, 1, 8, 8, [⟨0, 0, .ro, 0, 65, 0, 0⟩]⟩, -- FW_STATUS
  ⟨0x400, 5, 4, 4, [⟨15, 0, .rw, 46, 128, 0, 0⟩]⟩, -- FW_GM_LAT
  ⟨0x200, 1, 8, 8, [⟨63, 0, .rw, 0, 65, 0, 1⟩]⟩, -- FW_TKT_ALLOW
  ⟨0x208, 1, 8, 8, [⟨63, 0, .rw, 0, 65, 0, 1⟩]⟩, -- FW_TKT_ALLOW
  ⟨0x210, 1, 4, 4, [⟨21, 16, .rw, 62, 65, 0, 2⟩, ⟨13, 8, .rw, 8, 65, 0, 2⟩, ⟨5, 0, .rw, 62, 65, 0, 2⟩]⟩, -- FW_HK_TKT
  ⟨0x300, 33, 4, 4, [⟨5, 0, .rw, 63, 65, 0, 2⟩]⟩, -- FW_IO_TKT
  ⟨0x4000, 512, 32, 8, [⟨63, 63, .rwl, 0, 65, 0, 0⟩, ⟨62, 62, .w1s, 0, 65, 0, 0⟩, ⟨47, 12, .rwl, 0, 65, 0, 0⟩, ⟨3, 3, .rwl, 0, 65, 0, 0⟩, ⟨2, 2, .rwl, 0, 65, 0, 0⟩, ⟨1, 1, .rwl, 0, 65, 0, 0⟩, ⟨0, 0, .rwl, 0, 65, 0, 0⟩]⟩, -- FW_WIN
  ⟨0x4008, 512, 32, 8, [⟨47, 12, .rwl, 0, 65, 0, 0⟩]⟩, -- FW_WIN
  ⟨0x4010, 512, 32, 4, [⟨27, 16, .rwl, 0, 65, 0, 0⟩, ⟨11, 0, .rwl, 0, 65, 0, 0⟩]⟩, -- FW_WIN
  ⟨0x4018, 512, 32, 8, [⟨63, 0, .rwl, 0, 65, 0, 0⟩]⟩ -- FW_WIN
]

/-- Registers of pages of kind fwd. -/
def rows_fwd0 : List RegRow := [
  ⟨0x400, 1, 4, 4, [⟨15, 0, .rw, 108, 128, 0, 0⟩]⟩, -- FW_GM_LAT
  ⟨0x404, 3, 4, 4, [⟨15, 0, .rw, 52, 128, 0, 0⟩]⟩, -- FW_GM_LAT
  ⟨0x410, 1, 4, 4, [⟨15, 0, .rw, 46, 128, 0, 0⟩]⟩ -- FW_GM_LAT
]

/-- Registers of pages of kind tm, part 1. -/
def rows_tm0 : List RegRow := [
  ⟨0x10, 1, 8, 8, [⟨3, 3, .rw, 0, 1, 0, 0⟩, ⟨2, 2, .rw, 1, 1, 0, 0⟩, ⟨1, 1, .rw, 0, 1, 0, 0⟩, ⟨0, 0, .rw, 0, 1, 0, 0⟩]⟩, -- TM_CTRL
  ⟨0x18, 1, 8, 8, [⟨3, 3, .ro, 0, 1, 0, 0⟩, ⟨2, 2, .ro, 0, 1, 0, 0⟩, ⟨1, 1, .ro, 0, 1, 0, 0⟩, ⟨0, 0, .ro, 0, 0, 0, 0⟩]⟩, -- TM_STATUS
  ⟨0x100, 1, 8, 8, [⟨47, 0, .rw, 0, 0, 0, 0⟩]⟩, -- TM_TIME_SEC
  ⟨0x108, 1, 8, 8, [⟨47, 16, .rw, 0, 0, 1, 0⟩, ⟨15, 0, .rw, 0, 0, 1, 0⟩]⟩, -- TM_TIME_NS
  ⟨0x110, 1, 8, 8, [⟨39, 0, .rw, 3904515724, 1, 0, 0⟩]⟩, -- TM_INC
  ⟨0x118, 1, 8, 8, [⟨47, 0, .rw, 0, 0, 0, 0⟩]⟩, -- TM_FREQ
  ⟨0x120, 1, 8, 8, [⟨63, 32, .rw, 65536000, 1, 0, 0⟩, ⟨15, 8, .rw, 64, 1, 0, 0⟩, ⟨7, 0, .rw, 4, 1, 0, 0⟩]⟩, -- TM_SERVO
  ⟨0x148, 1, 4, 4, [⟨17, 0, .rw, 250000, 1, 0, 0⟩]⟩, -- TM_LIM
  ⟨0x128, 1, 8, 8, [⟨63, 0, .ro, 0, 1, 0, 0⟩]⟩, -- TM_LAST_OFS
  ⟨0x130, 1, 4, 4, [⟨15, 8, .rw, 8, 1, 0, 0⟩, ⟨7, 4, .rw, 3, 1, 0, 0⟩, ⟨3, 0, .rw, 3, 1, 0, 0⟩]⟩, -- TM_HOLD
  ⟨0x138, 1, 8, 8, [⟨63, 0, .ro, 0, 1, 0, 0⟩]⟩, -- TM_GM_ID
  ⟨0x140, 1, 4, 4, [⟨22, 16, .rw, 0, 1, 0, 0⟩, ⟨15, 8, .rw, 248, 1, 0, 0⟩, ⟨7, 0, .rw, 246, 1, 0, 0⟩]⟩ -- TM_PTP_CFG
]

/-- Registers of pages of kind tm, part 2. -/
def rows_tm1 : List RegRow := [
  ⟨0x200, 6, 16, 8, [⟨63, 32, .rw, 0, 1, 0, 0⟩, ⟨31, 0, .rw, 0, 1, 0, 0⟩]⟩, -- TM_PORT_LAT
  ⟨0x208, 6, 16, 4, [⟨31, 0, .rw, 0, 1, 0, 0⟩]⟩, -- TM_PORT_ASYM
  ⟨0x300, 8, 16, 4, [⟨1, 0, .rw, 0, 1, 0, 0⟩]⟩, -- TM_CAP_CFG
  ⟨0x304, 8, 16, 4, [⟨31, 31, .w1c, 0, 0, 0, 0⟩, ⟨20, 16, .ro, 0, 0, 0, 0⟩, ⟨15, 0, .rw, 0, 0, 0, 0⟩]⟩, -- TM_CAP_STAT
  ⟨0x308, 8, 16, 8, [⟨63, 0, .ro, 0, 0, 0, 0⟩]⟩, -- TM_CAP_TS
  ⟨0x400, 8, 32, 8, [⟨63, 44, .rw, 0, 1, 1, 0⟩, ⟨43, 32, .rw, 1, 1, 1, 0⟩, ⟨31, 2, .rw, 0, 1, 1, 0⟩, ⟨1, 0, .rw, 0, 1, 1, 0⟩]⟩, -- TM_PULSE_CFG
  ⟨0x408, 8, 32, 8, [⟨63, 0, .rw, 0, 1, 1, 0⟩]⟩, -- TM_PULSE_START
  ⟨0x410, 8, 32, 4, [⟨31, 0, .rw, 0, 1, 1, 0⟩]⟩ -- TM_PULSE_PERIOD
]

/-- Registers of pages of kind fu, part 1. -/
def rows_fu0 : List RegRow := [
  ⟨0x10, 1, 8, 8, [⟨13, 8, .rw, 63, 65, 0, 2⟩, ⟨0, 0, .rw, 0, 65, 0, 0⟩]⟩, -- FU_CTRL
  ⟨0x18, 1, 8, 8, [⟨15, 0, .ro, 0, 65, 0, 0⟩]⟩, -- FU_STATUS
  ⟨0x1000, 64, 32, 8, [⟨63, 63, .rw, 0, 65, 2, 0⟩, ⟨62, 62, .rw, 0, 65, 0, 1⟩, ⟨61, 61, .rw, 0, 65, 0, 0⟩, ⟨60, 60, .rw, 0, 65, 0, 0⟩, ⟨59, 56, .rw, 0, 65, 0, 0⟩, ⟨55, 52, .rw, 0, 65, 0, 0⟩, ⟨51, 48, .rw, 0, 65, 0, 0⟩, ⟨47, 44, .rw, 0, 65, 0, 0⟩, ⟨43, 41, .rw, 0, 65, 0, 0⟩, ⟨40, 40, .rw, 0, 65, 0, 0⟩, ⟨19, 19, .rw, 0, 65, 0, 0⟩, ⟨17, 16, .rw, 0, 65, 0, 0⟩, ⟨7, 0, .rw, 0, 65, 0, 0⟩]⟩, -- FU_STREAM_CFG
  ⟨0x1008, 64, 32, 8, [⟨63, 48, .rw, 0, 65, 0, 0⟩, ⟨37, 32, .rw, 0, 65, 0, 0⟩, ⟨31, 0, .rw, 0, 65, 0, 0⟩]⟩, -- FU_STREAM_SEL
  ⟨0x1010, 64, 32, 8, [⟨58, 53, .rw, 6, 65, 0, 0⟩, ⟨52, 48, .rw, 0, 65, 0, 0⟩, ⟨47, 0, .rw, 0, 65, 0, 0⟩]⟩, -- FU_STREAM_RING
  ⟨0x1018, 64, 32, 8, [⟨63, 32, .rw, 0, 65, 0, 0⟩, ⟨31, 0, .rw, 0, 65, 0, 0⟩]⟩, -- FU_STREAM_TS
  ⟨0x2000, 64, 32, 4, [⟨31, 31, .ro, 0, 65, 0, 0⟩, ⟨30, 30, .wo, 0, 65, 1, 0⟩, ⟨25, 16, .rw, 64, 65, 0, 0⟩, ⟨10, 0, .rw, 256, 65, 0, 0⟩]⟩, -- FU_STREAM_LATE
  ⟨0x2008, 64, 32, 8, [⟨63, 48, .rw, 0, 65, 0, 0⟩, ⟨47, 32, .rw, 0, 65, 0, 0⟩, ⟨31, 16, .rw, 0, 65, 0, 0⟩, ⟨15, 0, .rw, 0, 65, 0, 0⟩]⟩, -- FU_STREAM_CNT
  ⟨0x2010, 64, 32, 4, [⟨26, 16, .ro, 0, 65, 0, 0⟩, ⟨10, 0, .ro, 0, 65, 0, 0⟩]⟩, -- FU_STREAM_WIN
  ⟨0x3000, 16, 32, 8, [⟨63, 63, .rw, 0, 65, 3, 0⟩, ⟨62, 62, .rw, 0, 65, 0, 0⟩, ⟨61, 61, .rw, 0, 65, 0, 0⟩, ⟨59, 52, .rw, 1, 65, 0, 0⟩, ⟨51, 44, .rw, 0, 65, 0, 0⟩, ⟨43, 30, .rw, 0, 65, 0, 0⟩, ⟨27, 24, .rw, 0, 65, 0, 0⟩]⟩, -- FU_GROUP_CFG
  ⟨0x3008, 16, 32, 8, [⟨47, 0, .rw, 0, 65, 0, 0⟩]⟩, -- FU_GROUP_PB
  ⟨0x3010, 16, 32, 8, [⟨63, 48, .rw, 0, 65, 0, 0⟩, ⟨47, 0, .rw, 0, 65, 0, 0⟩]⟩ -- FU_GROUP_RES
]

/-- Registers of pages of kind fu, part 2. -/
def rows_fu1 : List RegRow := [
  ⟨0x3018, 16, 32, 8, [⟨63, 32, .ro, 0, 65, 0, 0⟩, ⟨31, 16, .rw, 0, 65, 0, 0⟩, ⟨15, 0, .rw, 0, 65, 0, 0⟩]⟩, -- FU_GROUP_STAT
  ⟨0x3400, 16, 16, 8, [⟨63, 0, .ro, 0, 65, 0, 0⟩]⟩, -- FU_GROUP_LAST
  ⟨0x3408, 16, 16, 8, [⟨63, 0, .ro, 0, 65, 0, 0⟩]⟩, -- FU_GROUP_LAST
  ⟨0x200, 1, 8, 8, [⟨47, 0, .rw, 0, 65, 0, 0⟩]⟩, -- FU_LATE_BASE
  ⟨0x208, 1, 4, 4, [⟨31, 0, .ro, 0, 65, 0, 0⟩]⟩, -- FU_LATE_HEAD
  ⟨0x210, 1, 8, 8, [⟨47, 0, .rw, 0, 65, 0, 0⟩]⟩, -- FU_CAL_BASE
  ⟨0x218, 1, 4, 4, [⟨31, 0, .ro, 0, 65, 0, 0⟩]⟩, -- FU_CAL_EPOCH
  ⟨0x220, 1, 8, 8, [⟨63, 48, .rw, 11878, 65, 0, 0⟩, ⟨47, 32, .rw, 256, 65, 0, 0⟩, ⟨31, 16, .rw, 100, 65, 0, 0⟩, ⟨15, 0, .rw, 50, 65, 0, 0⟩]⟩, -- FU_CAL_CFG
  ⟨0x228, 1, 4, 4, [⟨31, 16, .rw, 0, 65, 0, 0⟩, ⟨15, 0, .rw, 0, 65, 0, 0⟩]⟩, -- FU_CAL_STAT
  ⟨0x230, 1, 8, 8, [⟨63, 0, .w1s, 0, 65, 1, 0⟩]⟩ -- FU_CAL_COMMIT
]

/-- Registers of pages of kind mw. -/
def rows_mw0 : List RegRow := [
  ⟨0x10, 1, 8, 8, [⟨0, 0, .rw, 0, 65, 2, 0⟩]⟩, -- MW_CTRL
  ⟨0x18, 1, 8, 8, [⟨5, 5, .ro, 0, 65, 0, 0⟩, ⟨4, 4, .ro, 0, 65, 0, 0⟩, ⟨3, 3, .ro, 0, 65, 0, 0⟩, ⟨2, 2, .ro, 0, 65, 0, 0⟩, ⟨1, 1, .ro, 0, 65, 0, 0⟩, ⟨0, 0, .ro, 0, 65, 0, 0⟩]⟩, -- MW_STATUS
  ⟨0x100, 1, 4, 4, [⟨31, 0, .ro, 0, 65, 0, 0⟩]⟩, -- MW_GEN
  ⟨0x104, 1, 4, 4, [⟨31, 0, .ro, 0, 65, 0, 0⟩]⟩, -- MW_LOST_GEN
  ⟨0x108, 1, 4, 4, [⟨31, 0, .ro, 0, 65, 0, 0⟩]⟩, -- MW_CHG_HEAD
  ⟨0x110, 1, 4, 4, [⟨31, 27, .rw, 8, 65, 0, 0⟩, ⟨26, 20, .rw, 64, 65, 0, 0⟩, ⟨19, 10, .rw, 512, 65, 0, 0⟩, ⟨9, 0, .rw, 512, 65, 0, 0⟩]⟩, -- MW_MAP_CFG
  ⟨0x114, 1, 4, 4, [⟨31, 0, .rw, 1028443341, 65, 0, 0⟩]⟩, -- MW_MAP_RES
  ⟨0x118, 3, 4, 4, [⟨31, 0, .rw, 0, 65, 0, 0⟩]⟩, -- MW_MAP_ORG
  ⟨0x128, 1, 8, 8, [⟨38, 32, .rw, 0, 65, 0, 0⟩, ⟨31, 22, .rw, 1, 65, 0, 0⟩, ⟨21, 13, .rw, 1, 65, 0, 0⟩, ⟨12, 0, .rw, 0, 65, 0, 0⟩]⟩, -- MW_LAT_CFG
  ⟨0x130, 1, 4, 4, [⟨31, 0, .rw, 1017370378, 65, 0, 0⟩]⟩, -- MW_MARGIN
  ⟨0x140, 1, 8, 8, [⟨63, 48, .rw, 0, 65, 0, 0⟩, ⟨47, 32, .rw, 0, 65, 0, 0⟩, ⟨31, 16, .rw, 0, 65, 0, 0⟩, ⟨15, 0, .rw, 0, 65, 0, 0⟩]⟩, -- MW_CNT
  ⟨0x148, 1, 8, 8, [⟨63, 48, .rw, 0, 65, 0, 0⟩, ⟨47, 32, .rw, 0, 65, 0, 0⟩, ⟨31, 16, .rw, 0, 65, 0, 0⟩, ⟨15, 0, .rw, 0, 65, 0, 0⟩]⟩ -- MW_CNT2
]

/-- Registers of pages of kind tp. -/
def rows_tp0 : List RegRow := [
  ⟨0x10, 1, 8, 8, [⟨8, 8, .rw, 1, 65, 0, 0⟩]⟩, -- TP_CTRL
  ⟨0x18, 1, 8, 8, [⟨9, 9, .ro, 0, 65, 0, 0⟩, ⟨8, 8, .ro, 0, 65, 0, 0⟩]⟩, -- TP_STATUS
  ⟨0x100, 1, 8, 8, [⟨63, 48, .rw, 0, 65, 0, 0⟩, ⟨47, 32, .rw, 0, 65, 0, 0⟩, ⟨31, 16, .rw, 0, 65, 0, 0⟩, ⟨15, 0, .rw, 0, 65, 0, 0⟩]⟩, -- TP_CNT
  ⟨0x108, 1, 8, 8, [⟨63, 32, .ro, 0, 65, 0, 0⟩, ⟨22, 16, .ro, 0, 65, 0, 0⟩, ⟨14, 8, .ro, 0, 65, 0, 0⟩, ⟨7, 0, .ro, 0, 65, 0, 0⟩]⟩, -- TP_LAST
  ⟨0x110, 1, 4, 4, [⟨1, 1, .w1c, 0, 65, 0, 0⟩, ⟨0, 0, .w1c, 0, 65, 0, 0⟩]⟩ -- TP_CHK
]

/-- Registers of pages of kind tt, part 1. -/
def rows_tt0 : List RegRow := [
  ⟨0x10, 1, 8, 8, [⟨63, 63, .w1s, 0, 65, 0, 1⟩, ⟨16, 16, .rw, 1, 65, 0, 0⟩, ⟨13, 8, .rwl, 63, 65, 0, 2⟩, ⟨3, 0, .rw, 0, 65, 2, 0⟩]⟩, -- TT_CTRL
  ⟨0x18, 1, 8, 8, [⟨8, 8, .ro, 0, 65, 0, 0⟩, ⟨3, 0, .ro, 0, 65, 0, 0⟩]⟩, -- TT_STATUS
  ⟨0x100, 1, 8, 8, [⟨39, 20, .rwl, 60500, 65, 0, 0⟩, ⟨19, 0, .rwl, 36300, 65, 0, 0⟩]⟩, -- TT_TIMING
  ⟨0x108, 1, 8, 8, [⟨47, 0, .rwl, 0, 65, 0, 0⟩]⟩, -- TT_STAGE
  ⟨0x110, 1, 8, 8, [⟨63, 48, .rw, 0, 65, 0, 0⟩, ⟨47, 0, .ro, 281474976710655, 65, 0, 0⟩]⟩, -- TT_SET
  ⟨0x118, 1, 8, 8, [⟨47, 0, .rw, 0, 65, 0, 1⟩]⟩, -- TT_MIRROR
  ⟨0x180, 1, 4, 4, [⟨31, 28, .wo, 0, 65, 1, 1⟩, ⟨25, 24, .wo, 0, 65, 1, 0⟩, ⟨21, 16, .wo, 0, 65, 1, 0⟩, ⟨6, 0, .wo, 0, 65, 1, 0⟩]⟩, -- TT_CMD
  ⟨0x188, 1, 4, 4, [⟨8, 8, .ro, 0, 65, 0, 0⟩, ⟨3, 0, .ro, 0, 65, 0, 0⟩]⟩, -- TT_CMD_STAT
  ⟨0x190, 1, 8, 8, [⟨47, 0, .rw, 0, 65, 0, 0⟩]⟩, -- TT_IDENT_BUF
  ⟨0x1A0, 1, 4, 4, [⟨25, 16, .rw, 0, 65, 0, 0⟩, ⟨8, 8, .rw, 0, 65, 0, 0⟩, ⟨6, 0, .rw, 0, 65, 0, 0⟩]⟩, -- TT_TAB_SEL
  ⟨0x1A8, 1, 4, 4, [⟨31, 0, .rw, 0, 64, 1, 0⟩]⟩, -- TT_TAB_DATA
  ⟨0x200, 4, 32, 8, [⟨63, 48, .rwl, 34997, 65, 0, 0⟩, ⟨11, 0, .rwl, 0, 65, 0, 0⟩]⟩ -- TT_RING_CFG
]

/-- Registers of pages of kind tt, part 2. -/
def rows_tt1 : List RegRow := [
  ⟨0x208, 4, 32, 8, [⟨47, 0, .rwl, 0, 65, 0, 0⟩]⟩, -- TT_RING_SRC
  ⟨0x210, 4, 32, 8, [⟨47, 0, .rwl, 3, 65, 0, 0⟩]⟩, -- TT_RING_DST
  ⟨0x218, 4, 32, 8, [⟨63, 48, .rw, 0, 65, 0, 0⟩, ⟨47, 32, .rw, 0, 65, 0, 0⟩, ⟨14, 8, .ro, 0, 65, 0, 0⟩, ⟨1, 1, .ro, 0, 65, 0, 0⟩, ⟨0, 0, .ro, 0, 65, 0, 0⟩]⟩, -- TT_RING_STAT
  ⟨0x300, 4, 64, 4, [⟨27, 8, .rwl, 137500, 65, 0, 0⟩, ⟨7, 0, .rwl, 255, 65, 0, 0⟩]⟩, -- TT_GCL
  ⟨0x300, 64, 4, 4, [⟨27, 8, .rwl, 0, 65, 0, 0⟩, ⟨7, 0, .rwl, 0, 65, 0, 0⟩]⟩, -- TT_GCL
  ⟨0x1000, 128, 64, 8, [⟨63, 63, .rwl, 0, 65, 0, 0⟩, ⟨62, 62, .rwl, 0, 65, 0, 0⟩, ⟨61, 61, .rwl, 0, 65, 0, 0⟩, ⟨57, 56, .rwl, 0, 65, 0, 0⟩, ⟨53, 52, .rwl, 0, 65, 0, 0⟩, ⟨49, 44, .rwl, 0, 65, 0, 0⟩, ⟨39, 32, .rwl, 4, 65, 0, 0⟩, ⟨31, 24, .rwl, 2, 65, 0, 0⟩, ⟨23, 8, .rwl, 0, 65, 0, 0⟩]⟩, -- TT_AXIS_CFG
  ⟨0x1008, 128, 64, 8, [⟨63, 32, .rwl, 0, 65, 0, 0⟩, ⟨31, 0, .rwl, 0, 65, 0, 0⟩]⟩, -- TT_AXIS_CFG
  ⟨0x1010, 128, 64, 8, [⟨63, 32, .rwl, 0, 65, 0, 0⟩, ⟨31, 0, .rwl, 0, 65, 0, 0⟩]⟩, -- TT_AXIS_CFG
  ⟨0x1018, 128, 64, 8, [⟨63, 32, .rwl, 0, 65, 0, 0⟩, ⟨31, 0, .rwl, 0, 65, 0, 0⟩]⟩, -- TT_AXIS_CFG
  ⟨0x1020, 128, 64, 8, [⟨63, 32, .rwl, 0, 65, 0, 0⟩, ⟨31, 0, .rwl, 0, 65, 0, 0⟩]⟩, -- TT_AXIS_CFG
  ⟨0x1028, 128, 64, 4, [⟨15, 0, .rwl, 0, 65, 0, 0⟩]⟩, -- TT_AXIS_CFG
  ⟨0x1030, 128, 64, 8, [⟨63, 32, .ro, 0, 65, 0, 0⟩, ⟨31, 0, .ro, 0, 65, 0, 0⟩]⟩ -- TT_AXIS_CFG
]

/-- Registers of pages of kind tt, part 3. -/
def rows_tt2 : List RegRow := [
  ⟨0x1038, 128, 64, 8, [⟨63, 32, .ro, 0, 65, 0, 0⟩, ⟨31, 0, .ro, 0, 65, 0, 0⟩]⟩, -- TT_AXIS_CFG
  ⟨0x3000, 128, 32, 8, [⟨63, 32, .ro, 0, 65, 0, 0⟩, ⟨31, 0, .ro, 0, 65, 0, 0⟩]⟩, -- TT_AXIS_LIM
  ⟨0x3008, 128, 32, 8, [⟨63, 32, .ro, 0, 65, 0, 0⟩, ⟨31, 0, .ro, 0, 65, 0, 0⟩]⟩, -- TT_AXIS_LIM
  ⟨0x3010, 128, 32, 4, [⟨31, 0, .ro, 0, 65, 0, 0⟩]⟩, -- TT_AXIS_LIM
  ⟨0x3018, 128, 32, 8, [⟨63, 0, .ro, 0, 64, 0, 0⟩]⟩, -- TT_AXIS_LIM
  ⟨0x5000, 128, 32, 8, [⟨63, 32, .ro, 0, 65, 0, 0⟩, ⟨31, 0, .ro, 0, 65, 0, 0⟩]⟩, -- TT_AXIS_ST
  ⟨0x5008, 128, 32, 8, [⟨63, 32, .ro, 0, 65, 0, 0⟩, ⟨31, 0, .ro, 0, 65, 0, 0⟩]⟩, -- TT_AXIS_ST
  ⟨0x5010, 128, 32, 8, [⟨60, 56, .w1c, 0, 65, 0, 0⟩, ⟨50, 48, .ro, 0, 65, 0, 0⟩, ⟨47, 47, .ro, 0, 64, 0, 0⟩, ⟨39, 32, .ro, 0, 65, 0, 0⟩, ⟨31, 16, .rw, 0, 65, 0, 0⟩, ⟨15, 0, .rw, 0, 65, 0, 0⟩]⟩, -- TT_AXIS_ST
  ⟨0x5018, 128, 32, 4, [⟨31, 0, .ro, 0, 65, 0, 0⟩]⟩ -- TT_AXIS_ST
]

/-- Registers of pages of kind el0. -/
def rows_el00 : List RegRow := [
  ⟨0x100, 1, 4, 4, [⟨14, 0, .ro, 8192, 8, 0, 0⟩]⟩, -- EL_DOUBT_VIEW
  ⟨0x108, 1, 4, 4, [⟨0, 0, .wo, 0, 64, 1, 0⟩]⟩, -- EL_DOUBT_REQ
  ⟨0x110, 1, 4, 4, [⟨15, 12, .ro, 0, 8, 0, 0⟩, ⟨8, 8, .ro, 0, 8, 0, 0⟩, ⟨0, 0, .wo, 0, 64, 1, 0⟩]⟩, -- EL_REINT
  ⟨0x118, 1, 4, 4, [⟨0, 0, .wo, 0, 64, 1, 0⟩]⟩, -- EL_HOST_KICK
  ⟨0x120, 1, 4, 4, [⟨31, 0, .ro, 0, 64, 0, 0⟩]⟩, -- EL_LOG_HEAD
  ⟨0x124, 1, 4, 4, [⟨31, 0, .rw, 0, 64, 1, 0⟩]⟩, -- EL_LOG_TAIL
  ⟨0x128, 1, 4, 4, [⟨31, 31, .w1c, 0, 64, 0, 0⟩, ⟨30, 30, .ro, 0, 64, 0, 0⟩, ⟨12, 0, .ro, 0, 64, 0, 0⟩]⟩, -- EL_LOG_STAT
  ⟨0x200, 80, 4, 4, [⟨15, 0, .rw, 0, 64, 0, 0⟩]⟩, -- EL_MISSED
  ⟨0x400, 16, 32, 8, [⟨63, 63, .w1c, 0, 64, 0, 0⟩, ⟨50, 48, .ro, 0, 64, 0, 0⟩, ⟨43, 32, .ro, 0, 64, 0, 0⟩]⟩, -- EL_FIRST
  ⟨0x408, 16, 32, 8, [⟨63, 0, .ro, 0, 64, 0, 0⟩]⟩, -- EL_FIRST
  ⟨0x410, 16, 32, 8, [⟨47, 0, .ro, 0, 64, 0, 0⟩]⟩ -- EL_FIRST
]

/-- Registers of pages of kind el1. -/
def rows_el10 : List RegRow := [
  ⟨0x100, 1, 4, 4, [⟨14, 0, .ro, 8192, 8, 0, 0⟩]⟩, -- EL_DOUBT
  ⟨0x108, 1, 4, 4, [⟨11, 8, .ro, 5, 8, 0, 0⟩, ⟨3, 0, .ro, 13, 8, 0, 0⟩]⟩, -- EL_DOUBT_FIRST
  ⟨0x110, 1, 8, 8, [⟨63, 0, .ro, 0, 8, 0, 0⟩]⟩, -- EL_DOUBT_FIRST
  ⟨0x120, 1, 8, 8, [⟨63, 63, .rw, 0, 8, 2, 0⟩, ⟨58, 57, .rw, 0, 8, 0, 0⟩, ⟨54, 49, .rw, 0, 8, 0, 0⟩, ⟨48, 48, .rw, 0, 8, 0, 0⟩]⟩, -- EL_NET_CFG
  ⟨0x128, 1, 8, 8, [⟨63, 44, .rw, 60500, 8, 0, 0⟩, ⟨43, 24, .rw, 8000, 8, 0, 0⟩]⟩, -- EL_NET_TIME
  ⟨0x130, 1, 4, 4, [⟨31, 0, .rw, 0, 8, 0, 0⟩]⟩, -- EL_NET_VZ
  ⟨0x138, 1, 8, 8, [⟨47, 0, .rw, 0, 8, 0, 0⟩]⟩, -- EL_NET_TAB
  ⟨0x140, 1, 4, 4, [⟨31, 16, .ro, 0, 8, 0, 0⟩, ⟨7, 7, .ro, 0, 8, 0, 0⟩, ⟨6, 6, .ro, 1, 8, 0, 0⟩, ⟨5, 5, .ro, 0, 8, 0, 0⟩, ⟨4, 4, .ro, 0, 8, 0, 0⟩, ⟨3, 3, .ro, 0, 8, 0, 0⟩, ⟨2, 2, .ro, 0, 8, 0, 0⟩, ⟨1, 0, .ro, 3, 8, 0, 0⟩]⟩, -- EL_NET_STAT
  ⟨0x148, 1, 4, 4, [⟨8, 8, .rw, 0, 8, 0, 0⟩, ⟨7, 0, .rw, 100, 8, 0, 0⟩]⟩, -- EL_WDOG_CFG
  ⟨0x1000, 102, 32, 4, [⟨31, 31, .rw, 1, 8, 0, 0⟩, ⟨15, 0, .rw, 100, 8, 0, 0⟩]⟩, -- EL_CAR
  ⟨0x1008, 102, 32, 4, [⟨31, 31, .w1c, 0, 8, 0, 0⟩, ⟨30, 30, .ro, 0, 8, 0, 0⟩, ⟨15, 0, .rw, 0, 8, 0, 0⟩]⟩, -- EL_CAR
  ⟨0x1010, 102, 32, 8, [⟨63, 0, .ro, 0, 8, 0, 0⟩]⟩ -- EL_CAR
]

/-- Registers of pages of kind rp. -/
def rows_rp0 : List RegRow := [
  ⟨0x10, 1, 8, 8, [⟨8, 8, .rw, 1, 65, 0, 0⟩]⟩, -- RP_CTRL
  ⟨0x18, 1, 8, 8, [⟨9, 9, .ro, 0, 65, 0, 0⟩, ⟨8, 8, .ro, 0, 65, 0, 0⟩]⟩, -- RP_STATUS
  ⟨0x100, 1, 8, 8, [⟨63, 48, .rw, 100, 65, 0, 0⟩, ⟨47, 16, .rw, 220000, 65, 0, 0⟩, ⟨15, 0, .rw, 20000, 65, 0, 0⟩]⟩, -- RP_BUDGET
  ⟨0x108, 1, 8, 8, [⟨63, 48, .rw, 0, 65, 0, 0⟩, ⟨47, 32, .rw, 0, 65, 0, 0⟩, ⟨31, 16, .rw, 0, 65, 0, 0⟩, ⟨15, 0, .rw, 0, 65, 0, 0⟩]⟩, -- RP_CNT
  ⟨0x110, 1, 4, 4, [⟨31, 0, .ro, 0, 65, 0, 0⟩]⟩ -- RP_LAST_A
]

/-- Registers of pages of kind pwany. -/
def rows_pwany0 : List RegRow := [
  ⟨0x10, 1, 8, 8, [⟨63, 63, .w1s, 0, 128, 0, 1⟩]⟩ -- PW_CTRL
]

/-- Registers of pages of kind pw4, part 1. -/
def rows_pw40 : List RegRow := [
  ⟨0x10, 1, 8, 8, [⟨24, 16, .rwl, 0, 65, 0, 0⟩, ⟨2, 2, .rw, 0, 65, 0, 0⟩, ⟨1, 1, .rw, 0, 65, 0, 0⟩, ⟨0, 0, .rw, 1, 65, 0, 0⟩]⟩, -- PW_CTRL
  ⟨0x18, 1, 8, 8, [⟨4, 4, .ro, 1, 65, 0, 0⟩, ⟨3, 3, .ro, 0, 65, 0, 0⟩, ⟨2, 0, .ro, 0, 65, 0, 0⟩]⟩, -- PW_STATUS
  ⟨0x100, 1, 4, 4, [⟨2, 0, .wo, 0, 65, 1, 1⟩]⟩, -- PW_STATE_REQ
  ⟨0x108, 1, 4, 4, [⟨11, 8, .ro, 0, 1, 0, 0⟩, ⟨2, 0, .ro, 0, 1, 0, 0⟩]⟩, -- PW_STATE_STAT
  ⟨0x110, 1, 4, 4, [⟨23, 16, .rw, 0, 1, 0, 0⟩, ⟨15, 8, .rw, 0, 1, 0, 0⟩, ⟨7, 0, .rw, 0, 1, 0, 0⟩]⟩, -- PW_WAKE_EN
  ⟨0x118, 1, 4, 4, [⟨23, 16, .w1c, 0, 1, 0, 0⟩, ⟨15, 8, .w1c, 0, 1, 0, 0⟩, ⟨7, 0, .w1c, 0, 1, 0, 0⟩]⟩, -- PW_WAKE_SRC
  ⟨0x120, 1, 8, 8, [⟨47, 0, .rwl, 0, 1, 0, 0⟩]⟩, -- PW_RESUME
  ⟨0x180, 1, 8, 8, [⟨47, 32, .ro, 0, 65, 0, 0⟩, ⟨31, 16, .ro, 0, 65, 0, 0⟩, ⟨15, 0, .ro, 0, 65, 0, 0⟩]⟩, -- PW_ALLOC
  ⟨0x188, 1, 8, 8, [⟨63, 48, .ro, 0, 65, 0, 0⟩, ⟨47, 32, .ro, 0, 65, 0, 0⟩, ⟨31, 16, .ro, 0, 65, 0, 0⟩, ⟨15, 0, .ro, 0, 65, 0, 0⟩]⟩, -- PW_MEAS
  ⟨0x190, 1, 8, 8, [⟨47, 32, .rw, 0, 65, 0, 0⟩, ⟨31, 16, .rw, 0, 65, 0, 0⟩, ⟨15, 0, .rw, 0, 65, 0, 0⟩]⟩, -- PW_FLOOR
  ⟨0x198, 1, 8, 8, [⟨63, 48, .rw, 0, 65, 0, 0⟩, ⟨47, 32, .rw, 0, 65, 0, 0⟩, ⟨8, 0, .ro, 0, 65, 0, 0⟩]⟩, -- PW_PHASE
  ⟨0x1A0, 1, 4, 4, [⟨31, 16, .ro, 0, 65, 0, 0⟩, ⟨15, 0, .ro, 0, 65, 0, 0⟩]⟩ -- PW_MEM_EPB
]

/-- Registers of pages of kind pw4, part 2. -/
def rows_pw41 : List RegRow := [
  ⟨0x1A4, 1, 4, 4, [⟨31, 16, .ro, 0, 65, 0, 0⟩, ⟨15, 0, .ro, 0, 65, 0, 0⟩]⟩, -- PW_LINK_EPB
  ⟨0x1B0, 1, 4, 4, [⟨23, 16, .rw, 10, 65, 0, 0⟩, ⟨12, 8, .ro, 16, 65, 0, 0⟩, ⟨4, 0, .ro, 16, 65, 0, 0⟩]⟩, -- PW_VOTE
  ⟨0x1B8, 1, 4, 4, [⟨31, 0, .ro, 0, 65, 0, 0⟩]⟩, -- PW_VOTE_SEEN
  ⟨0x1C0, 1, 8, 8, [⟨63, 0, .rw, 0, 65, 0, 0⟩]⟩, -- PW_ENERGY
  ⟨0x200, 13, 16, 8, [⟨62, 56, .rwl, 0, 65, 0, 0⟩, ⟨31, 16, .rwl, 0, 65, 0, 0⟩, ⟨15, 0, .rwl, 0, 65, 0, 0⟩]⟩, -- PW_RAIL_CFG
  ⟨0x208, 13, 16, 8, [⟨63, 48, .ro, 16384, 65, 0, 0⟩, ⟨47, 32, .rw, 0, 65, 0, 0⟩, ⟨31, 16, .rw, 0, 65, 0, 0⟩, ⟨15, 0, .ro, 0, 65, 0, 0⟩]⟩, -- PW_RAIL_STAT
  ⟨0x900, 1, 4, 4, [⟨31, 24, .rwl, 100, 128, 0, 0⟩, ⟨23, 16, .rwl, 95, 128, 0, 0⟩, ⟨15, 8, .rwl, 103, 128, 0, 0⟩, ⟨7, 0, .rwl, 95, 128, 0, 0⟩]⟩, -- PW_THERM_CFG
  ⟨0x980, 1, 4, 4, [⟨27, 16, .ro, 0, 128, 0, 0⟩, ⟨11, 0, .ro, 0, 128, 0, 0⟩]⟩, -- PW_TEMP_MAX
  ⟨0x988, 1, 4, 4, [⟨28, 24, .ro, 16, 128, 0, 0⟩, ⟨20, 16, .ro, 16, 128, 0, 0⟩, ⟨12, 8, .ro, 16, 128, 0, 0⟩, ⟨4, 0, .ro, 16, 128, 0, 0⟩]⟩, -- PW_DUTY
  ⟨0x990, 1, 4, 4, [⟨25, 16, .ro, 0, 128, 0, 0⟩, ⟨9, 0, .ro, 0, 128, 0, 0⟩]⟩, -- PW_VSET
  ⟨0xA00, 16, 4, 4, [⟨11, 0, .ro, 0, 128, 0, 0⟩]⟩ -- PW_TEMP
]

/-- Registers of pages of kind pwn. -/
def rows_pwn0 : List RegRow := [
  ⟨0x100, 1, 4, 4, [⟨31, 24, .rwl, 100, 128, 0, 0⟩, ⟨23, 16, .rwl, 95, 128, 0, 0⟩, ⟨15, 8, .rwl, 103, 128, 0, 0⟩, ⟨7, 0, .rwl, 95, 128, 0, 0⟩]⟩, -- PW_THERM_CFG
  ⟨0x180, 1, 4, 4, [⟨27, 16, .ro, 0, 128, 0, 0⟩, ⟨11, 0, .ro, 0, 128, 0, 0⟩]⟩, -- PW_TEMP_MAX
  ⟨0x188, 1, 4, 4, [⟨28, 24, .ro, 16, 128, 0, 0⟩, ⟨20, 16, .ro, 16, 128, 0, 0⟩, ⟨12, 8, .ro, 16, 128, 0, 0⟩, ⟨4, 0, .ro, 16, 128, 0, 0⟩]⟩, -- PW_DUTY
  ⟨0x190, 1, 4, 4, [⟨25, 16, .ro, 0, 128, 0, 0⟩, ⟨9, 0, .ro, 0, 128, 0, 0⟩]⟩, -- PW_VSET
  ⟨0x200, 16, 4, 4, [⟨11, 0, .ro, 0, 128, 0, 0⟩]⟩ -- PW_TEMP
]

/-- Registers of pages of kind bt4. -/
def rows_bt40 : List RegRow := [
  ⟨0x100, 1, 8, 8, [⟨63, 28, .wo, 0, 0, 1, 1⟩, ⟨11, 8, .wo, 0, 0, 1, 1⟩, ⟨0, 0, .wo, 0, 0, 1, 1⟩]⟩, -- BT_RESET
  ⟨0x108, 1, 4, 4, [⟨3, 3, .w1c, 0, 0, 0, 0⟩, ⟨2, 2, .w1c, 0, 0, 0, 0⟩, ⟨1, 1, .w1c, 0, 0, 0, 0⟩, ⟨0, 0, .w1c, 1, 0, 0, 0⟩]⟩, -- BT_RST_CAUSE
  ⟨0x110, 1, 4, 4, [⟨23, 16, .ro, 0, 0, 0, 0⟩, ⟨15, 8, .ro, 0, 1, 0, 0⟩, ⟨3, 0, .ro, 0, 0, 0, 0⟩]⟩, -- BT_BOOT_STAT
  ⟨0x118, 1, 8, 8, [⟨63, 32, .ro, 0, 0, 0, 0⟩, ⟨1, 0, .ro, 0, 0, 0, 0⟩]⟩, -- BT_LC
  ⟨0x120, 1, 8, 8, [⟨63, 0, .ro, 0, 0, 0, 0⟩]⟩, -- BT_DEVICE_ID
  ⟨0x128, 1, 4, 4, [⟨15, 8, .ro, 0, 0, 0, 0⟩, ⟨2, 0, .ro, 0, 0, 0, 0⟩]⟩, -- BT_DBG_STAT
  ⟨0x140, 4, 8, 8, [⟨63, 0, .ro, 0, 0, 0, 0⟩]⟩ -- BT_DBG_NONCE
]

/-- Registers of pages of kind el. -/
def rows_el0 : List RegRow := [
  ⟨0x100, 1, 4, 4, [⟨22, 16, .rw, 0, 19, 0, 0⟩, ⟨6, 0, .ro, 0, 19, 0, 0⟩]⟩ -- EL_ING
]

/-- Registers of pages of kind io1. -/
def rows_io10 : List RegRow := [
  ⟨0x100, 1, 8, 8, [⟨63, 63, .rw, 0, 65, 0, 0⟩, ⟨10, 8, .rw, 4, 65, 0, 0⟩, ⟨5, 4, .rw, 2, 65, 0, 0⟩, ⟨3, 3, .rw, 0, 65, 0, 0⟩, ⟨2, 2, .rw, 0, 65, 0, 0⟩, ⟨1, 0, .rw, 0, 65, 0, 0⟩]⟩ -- IO_MODE
]

/-- Registers of pages of kind io. -/
def rows_io0 : List RegRow := [
  ⟨0x100, 1, 8, 8, [⟨63, 63, .rw, 0, 65, 0, 0⟩, ⟨10, 8, .rw, 5, 65, 0, 0⟩, ⟨5, 4, .rw, 3, 65, 0, 0⟩, ⟨3, 3, .rw, 0, 65, 0, 0⟩, ⟨2, 2, .rw, 0, 65, 0, 0⟩, ⟨1, 0, .rw, 0, 65, 0, 0⟩]⟩, -- IO_MODE
  ⟨0x108, 1, 8, 8, [⟨47, 28, .rw, 0, 65, 0, 0⟩]⟩ -- IO_ECAM
]

/-- Registers of pages of kind can. -/
def rows_can0 : List RegRow := [
  ⟨0x110, 1, 4, 4, [⟨17, 16, .rw, 0, 65, 0, 0⟩, ⟨9, 9, .rw, 0, 65, 0, 0⟩, ⟨8, 8, .rw, 0, 65, 0, 0⟩]⟩, -- IO_CAN_CFG
  ⟨0x118, 3, 8, 4, [⟨31, 25, .rw, 0, 65, 0, 0⟩, ⟨24, 18, .rw, 0, 65, 0, 0⟩, ⟨17, 10, .rw, 0, 65, 0, 0⟩, ⟨9, 0, .rw, 0, 65, 0, 0⟩]⟩, -- IO_CAN_BT
  ⟨0x130, 1, 4, 4, [⟨30, 24, .rw, 0, 65, 0, 0⟩, ⟨21, 16, .rw, 0, 65, 0, 0⟩, ⟨13, 8, .rw, 0, 65, 0, 0⟩, ⟨5, 0, .rw, 0, 65, 0, 0⟩]⟩ -- IO_CAN_AUX
]

/-- Registers of pages of kind gpio. -/
def rows_gpio0 : List RegRow := [
  ⟨0x100, 1, 4, 4, [⟨31, 0, .rw, 0, 65, 0, 0⟩]⟩, -- IO_GPIO_OUT
  ⟨0x108, 1, 4, 4, [⟨31, 0, .rw, 0, 65, 0, 0⟩]⟩, -- IO_GPIO_OE
  ⟨0x110, 1, 4, 4, [⟨31, 0, .ro, 0, 65, 0, 0⟩]⟩, -- IO_GPIO_IN
  ⟨0x1000, 192, 1, 1, [⟨4, 4, .rw, 0, 65, 0, 0⟩, ⟨3, 2, .rw, 1, 65, 0, 0⟩, ⟨1, 0, .rw, 1, 65, 0, 0⟩]⟩ -- IO_PAD
]

/-- Registers of pages of kind phy. -/
def rows_phy0 : List RegRow := [
  ⟨0x100, 8, 8, 8, [⟨63, 63, .rw, 0, 65, 0, 0⟩, ⟨62, 62, .rw, 0, 65, 0, 0⟩, ⟨21, 16, .rw, 0, 65, 0, 0⟩, ⟨13, 8, .rw, 8, 65, 0, 0⟩, ⟨3, 0, .rw, 15, 65, 0, 0⟩]⟩ -- PHY_LANE
]

/-- Registers of pages of kind yl. -/
def rows_yl0 : List RegRow := [
  ⟨0x10, 1, 8, 8, [⟨63, 63, .rw, 0, 65, 2, 0⟩, ⟨1, 0, .rw, 2, 65, 0, 0⟩]⟩, -- YL_CTRL
  ⟨0x18, 1, 8, 8, [⟨31, 31, .ro, 0, 65, 0, 0⟩, ⟨19, 16, .ro, 0, 65, 0, 0⟩, ⟨4, 0, .ro, 0, 65, 0, 0⟩]⟩, -- YL_STATUS
  ⟨0x108, 1, 8, 8, [⟨63, 32, .rw, 0, 65, 0, 0⟩, ⟨31, 0, .rw, 0, 65, 0, 0⟩]⟩ -- YL_FEC_CNT
]

/-- Registers of pages of kind yl0. -/
def rows_yl00 : List RegRow := [
  ⟨0x100, 1, 4, 4, [⟨4, 0, .rw, 0, 65, 0, 0⟩]⟩ -- YL_SELF
]

/-- Registers of pages of kind cl. -/
def rows_cl0 : List RegRow := [
  ⟨0x18, 1, 8, 8, [⟨3, 0, .ro, 0, 97, 0, 0⟩]⟩, -- CL_STATUS
  ⟨0x100, 1, 4, 4, [⟨31, 16, .rw, 0, 97, 0, 0⟩, ⟨15, 0, .rw, 0, 97, 0, 0⟩]⟩ -- CL_ECC_CNT
]

/-- The block-specific registers of page `p` (Table 18-3). -/
def pageRows (p : Nat) : List RegRow :=
  if p = 0 then rows_bt40
  else if p = 1 then rows_el00
  else if p = 2 then rows_el10
  else if p = 3 then rows_rm0 ++ rows_rm1 ++ rows_rm2
  else if p = 4 then rows_tt0 ++ rows_tt1 ++ rows_tt2
  else if p = 5 then rows_tp0
  else if p = 6 then rows_mw0
  else if p = 7 then rows_fu0 ++ rows_fu1
  else if p = 8 then rows_tm0 ++ rows_tm1
  else if p = 9 then rows_rp0
  else if p = 10 then rows_fwany0 ++ rows_fw40
  else if p = 11 then rows_pw40 ++ rows_pw41 ++ rows_pwany0
  else if p = 12 then rows_kv40
  else if 16 ≤ p && p < 80 then
    (if p % 16 = 0 then rows_bt0
     else if p % 16 = 1 then rows_ce0
     else if p % 16 = 2 then rows_fwany0 ++ rows_fwd0
     else if p % 16 = 3 then rows_pwany0 ++ rows_pwn0
     else if p % 16 = 4 then rows_kv0
     else if p % 16 = 5 then rows_el0
     else if p % 16 < 15 then rows_te0 ++ rows_te1 else [])
  else if 99 ≤ p && p < 103 then rows_cl0
  else if p = 113 then rows_io10
  else if 128 ≤ p && p < 136 then rows_io0 ++ rows_can0
  else if 112 ≤ p && p < 145 then rows_io0
  else if p = 145 then rows_gpio0
  else if 160 ≤ p && p < 176 then rows_phy0
  else if p = 176 then rows_yl0 ++ rows_yl00
  else if 176 ≤ p && p < 180 then rows_yl0
  else if 180 ≤ p && p < 184 then rows_phy0
  else []

/-- The bits of INT_STAT that page `p` has (R670, R671: bit 31 on every page). -/
def intMask (p : Nat) : Nat :=
  2 ^ 31 + (if p = 1 then 31 else if p = 3 then 127 else if p = 4 then 63 else if p = 5 then 31 else if p = 6 then 63
    else if p = 7 then 127 else if p = 8 then 31 else if p = 9 then 7 else if p = 10 then 15 else if p = 11 then 255
    else if 16 ≤ p && p < 80 && p % 16 == 2 then 11 else 0)

/-- The page numbers that hold pages with the common layout (R667, R679). -/
def isCommonPage (p : Nat) : Bool :=
  p < 13 || (16 ≤ p && p < 80 && p % 16 < 15) || (99 ≤ p && p < 103) || (112 ≤ p && p < 146) || (160 ≤ p && p < 184)

/-- The page numbers that hold pages (R660, Table 18-3): 154 of them. -/
def isPage (p : Nat) : Bool := isCommonPage p || (80 ≤ p && p < 99)

/-- The Restored by set of page `p` (Table 18-2) in the encoding of `FieldRow.restore`. -/
def pageSet (p : Nat) : Nat :=
  if p = 0 then 0 else if p = 1 then 64 else if p = 2 then 8 else if p = 8 then 1
  else if 16 ≤ p && p < 80 then 1 + 2 + 16
  else if 99 ≤ p && p < 103 then 1 + 32 + 64
  else 1 + 64

/-- ID of page `p`: prefix letters, instance, kind 1 (R668, Table 18-4). -/
def pageId (p : Nat) : Nat :=
  let mk := fun (a b i : Nat) => a * 2 ^ 24 + b * 2 ^ 16 + i * 256 + 1
  let d := (p - 16) / 16
  if p = 0 then mk 0x42 0x54 4 else if p = 1 then mk 0x45 0x4C 0 else if p = 2 then mk 0x45 0x4C 1
  else if p = 3 then mk 0x52 0x4D 0 else if p = 4 then mk 0x54 0x54 0 else if p = 5 then mk 0x54 0x50 0
  else if p = 6 then mk 0x4D 0x57 0 else if p = 7 then mk 0x46 0x55 0 else if p = 8 then mk 0x54 0x4D 0
  else if p = 9 then mk 0x52 0x50 0 else if p = 10 then mk 0x46 0x57 4 else if p = 11 then mk 0x50 0x57 4
  else if p = 12 then mk 0x4B 0x56 4
  else if p < 80 then
    (if p % 16 = 0 then mk 0x42 0x54 d else if p % 16 = 1 then mk 0x43 0x45 d else if p % 16 = 2 then mk 0x46 0x57 d
     else if p % 16 = 3 then mk 0x50 0x57 d else if p % 16 = 4 then mk 0x4B 0x56 d
     else if p % 16 = 5 then mk 0x45 0x4C (2 + d) else mk 0x54 0x45 (9 * d + (p % 16 - 6)))
  else if p < 103 then mk 0x43 0x4C (p - 99)
  else if p < 146 then mk 0x49 0x4F (p - 112)
  else if p < 176 then mk 0x49 0x4F (64 + (p - 160))
  else if p < 180 then mk 0x59 0x4C (p - 176)
  else mk 0x59 0x4C (4 + (p - 180))

/-- VERSION of every page (R2, R668). -/
def pageVersion : Nat := 0x010000B0

/-- The registers that every page with the common layout has (Table 18-1). -/
def commonRows (p : Nat) : List RegRow := [
  ⟨0x000, 1, 4, 4, [⟨31, 0, .ro, pageId p, 128, 0, 0⟩]⟩, -- ID
  ⟨0x004, 1, 4, 4, [⟨31, 0, .ro, pageVersion, 128, 0, 0⟩]⟩, -- VERSION
  ⟨0x008, 1, 8, 8, []⟩, -- CAP
  ⟨0x010, 1, 8, 8, []⟩, -- CTRL
  ⟨0x018, 1, 8, 8, []⟩, -- STATUS
  ⟨0x020, 1, 4, 4, [⟨31, 0, .w1c, 0, 128, 0, 0⟩]⟩, -- INT_STAT
  ⟨0x024, 1, 4, 4, [⟨31, 0, .rw, 0, 128, 0, 0⟩]⟩, -- INT_EN
  ⟨0x028, 1, 4, 4, [⟨31, 0, .wo, 0, 128, 1, 0⟩]⟩, -- INT_FORCE
  ⟨0x030, 1, 8, 8, [⟨63, 63, .w1s, 0, 128, 1, 1⟩, ⟨57, 56, .rwl, 0, 128, 1, 0⟩, ⟨53, 52, .rwl, 0, 128, 1, 0⟩, ⟨51, 48, .rwl, 0, 128, 1, 0⟩, ⟨47, 44, .rwl, 0, 128, 1, 0⟩, ⟨10, 0, .rwl, 0, 128, 1, 0⟩]⟩, -- INT_ROUTE
  ⟨0x040, 1, 8, 8, [⟨63, 63, .w1c, 0, 128, 0, 0⟩, ⟨62, 62, .ro, 0, 128, 0, 0⟩, ⟨61, 59, .ro, 0, 128, 0, 0⟩, ⟨51, 40, .ro, 0, 128, 0, 0⟩, ⟨37, 32, .ro, 0, 128, 0, 0⟩, ⟨15, 0, .ro, 0, 128, 0, 0⟩]⟩, -- ERRW_INFO
  ⟨0x048, 1, 8, 8, [⟨63, 0, .ro, 0, 128, 0, 0⟩]⟩, -- ERRW_DATA
  ⟨0x050, 1, 4, 4, [⟨15, 0, .rw, 0, 128, 0, 0⟩]⟩ -- ERRW_CNT
]

/-- Offset `off` is that of a register of row `r`. -/
def RegRow.at_ (r : RegRow) (off : Nat) : Bool := r.off ≤ off && (off - r.off) / r.stride < r.count && (off - r.off) % r.stride == 0

/-- Offset `off` lies inside a register of row `r`. -/
def RegRow.holds (r : RegRow) (off : Nat) : Bool := r.off ≤ off && (off - r.off) / r.stride < r.count && (off - r.off) % r.stride < r.bytes

/-- The fields of a list with those of a second list whose place it does not have. -/
def moreFields (fs gs : List FieldRow) : List FieldRow := fs ++ gs.filter fun g => !(fs.any fun f => f.lo == g.lo)

/-- Width in bytes and fields of the register at offset `off` of a page with registers `rs`; a register whose fields stand in
several tables has the fields of all. -/
def findReg (rs : List RegRow) (off : Nat) : Option (Nat × List FieldRow) := match rs.filter fun r => r.at_ off with
  | [] => none
  | r :: t => some (r.bytes, t.foldl (fun fs x => moreFields fs x.fields) r.fields)

/-- All registers of page `p`. -/
def allRows (p : Nat) : List RegRow := pageRows p ++ commonRows p

/-- The field of a row of register offset `off` on page `p`. -/
def rowFld (p off : Nat) (f : FieldRow) : Fld := ⟨p * 0x10000 + off, f.lo, f.hi + 1 - f.lo, f.reset⟩

/-- The Restored by column of a field of page `p`, "as the page" resolved. -/
def restoreOf (p : Nat) (f : FieldRow) : Nat := if f.restore = 128 then pageSet p else f.restore

/-- Whether an event of the encoding `ev` restores the field with map key `k` (R13 to R15; PO restores all). -/
def restores (ev : Nat) (k : Nat) : Bool :=
  let off := k / 64 % 0x10000
  let p := k / 64 / 0x10000
  if off < 0x100 && !(off == 0x008 || off == 0x010 || off == 0x018) then
    (Nat.land (pageSet p) ev) != 0
  else match findReg (pageRows p) off with
    | none => false
    | some (_, fs) => match fs.find? (fun f => f.lo == k % 64) with
      | none => false
      | some f => (Nat.land (restoreOf p f) ev) != 0

end Sys2Proof.Machine
end

