-- ==== Sys2Proof/Machine/State.lean ====
section
/-! DEFINITION. The state of the block as plain data: the storage, the register fields, and every mechanism the manual
gives state of its own; the reasons a command can stop; the state right after PORST_N rises. -/

namespace Sys2Proof.Machine

/-- The reasons for which a command stops with a fault: there are none. Every failure that the manual describes is an effect on
the state (a status, a response, an error record), and a command whose operands name no part of the block
(`Instr.wellFormed`) has no effect. -/
inductive Fault
  deriving DecidableEq, Repr

/-- A command that the model does not carry out. -/
inductive Refusal
  /-- Answered by an arm of `exec` whose command has no meaning yet. Safe. -/
  | notModelled (mnemonic : String)
  deriving DecidableEq, Repr

/-- A range of storage whose content is lost: addresses `lo` to `hi - 1`, by event number `gen` (Table 17-8, R77). -/
structure Lost where
  lo : Nat
  hi : Nat
  gen : Nat
  deriving DecidableEq, Repr

/-- A range of storage that a clear has filled with one byte: addresses `lo` to `hi - 1` (R435). -/
structure Fill where
  lo : Nat
  hi : Nat
  byte : Byte
  deriving DecidableEq, Repr

/-- The storage: the bytes listed, the ranges whose content is lost, and the ranges filled. An address in none of them
reads 0 (log entry 4). -/
structure Mem where
  cells : List Host.Cell
  lost : List Lost
  fills : List Fill
  deriving DecidableEq, Repr

/-- A report to the error log (Table 18-11). -/
structure Report where
  time : Nat
  cls : Nat
  origin : Nat
  addrValid : Bool
  doubt : Bool
  init : Nat
  ticket : Nat
  code : Nat
  page : Nat
  unit : Nat
  addr : Nat
  detail : Nat
  deriving DecidableEq, Repr

/-- The error log's ingress queues 0 to 4, oldest report first, and the queue served last (R568, R569); the grid cycle of the
firewall violation that each FW_ page holds (R355), of the report that each EL_FIRST holds (R572), of the event that each page's error
window holds (R681), and of the last report of each queue (R568). -/
structure LogSt where
  queues : List (List Report)
  last : Nat
  violAt : SMap Nat
  firstAt : SMap Nat
  errwAt : SMap Nat
  runAt : SMap (Nat × Nat)
  deriving DecidableEq, Repr

/-- The doubt latch (R537, R538): the latched bits, and the record of the first. -/
structure DoubtSt where
  bits : Nat
  firstSrc : Nat
  firstOrigin : Nat
  firstTime : Nat
  deriving DecidableEq, Repr

/-- The frame grid (R29 to R32, R497): grid cycles since PORST_N rose, whether boundaries occur, the cycle of the last
boundary and of the last grid point, the point's number and the number that the count of the plan before gave it, T_APPLY
of the point and of the next one (R500), t_k of the last boundary, budget and power windows begun. -/
structure GridSt where
  now : Nat
  running : Bool
  boundaryAt : Nat
  pointAt : Nat
  point : Nat
  pointOld : Nat
  applyNow : Nat
  applyNext : Nat
  tk : Nat
  windowAt : Nat
  window : Nat
  powerWindow : Nat
  deriving DecidableEq, Repr

/-- A pulse output (R380, R381): pin level, whether a ONCE pulse has fired, the time and the grid cycle of the last rise, the time of
the next periodic rise, the boundary that the last GRID pulse followed, and the grid cycle of the last configuration write. -/
structure Pulse where
  level : Bool
  fired : Bool
  riseAt : Nat
  riseCycle : Nat
  next : Nat
  gridAt : Option Nat
  setAt : Nat
  deriving DecidableEq, Repr

/-- The time unit beside its registers (R363 to R365, R373, R377, R378): the counter, the 32-bit accumulator, the INC in force at the
next cycle, the rate adjustment, good Syncs counted in holdover, the grandmaster the best
master choice selects, latched NS and FRAC, capture FIFOs, edge times, pulse outputs, path delays, messages discarded, the port in
the time receiver state, MTIME and the comparators. -/
structure TimeSt where
  sec : Nat
  ns : Nat
  frac : Nat
  sub : Nat
  inc : Nat
  adj : Int
  syncs : Nat
  bestGm : Nat
  latched : Option Nat
  fifo : SMap (List Nat)
  lastEdge : SMap Nat
  pulses : SMap Pulse
  pathDelay : SMap Int
  ptpSeq : SMap Nat
  discarded : Nat
  rxPort : Option Nat
  mtime : Nat
  mtimecmp : SMap Nat
  deriving DecidableEq, Repr

/-- A request waiting at a turnstile (R335, R344): arrival number, which requests that arrive together share, data bytes, the cycle
at which its ticket's bucket first covered its cost, and whether its latency miss has been reported. -/
structure Waiting where
  order : Nat
  bytes : Nat
  covered : Option Nat
  missed : Bool
  deriving DecidableEq, Repr

/-- A turnstile's entry for one ticket (R334 to R336, R343): bucket level in 1/11 byte, bytes admitted in the window,
demand and admitted bytes of the guarantee monitor, whether a budget held a request, and the requests waiting. -/
structure TsEntry where
  level : Nat
  used : Nat
  demand : Nat
  admitted : Nat
  held : Bool
  waiting : List Waiting
  deriving DecidableEq, Repr

/-- The turnstiles: entries by 64 × port + ticket, the class B ticket admitted last by port, arrivals seen, class B
bytes admitted in the window by port, the ports whose class B the cap has stopped in this power window (R606), the ports on which a carousel step falls in the window (R565), RATE and BURST in force until
the next grid cycle of entries that software has just written (R341), and the grid cycle in which a plan last set the entries
(R340). [DEDUCED: log entry 141] -/
structure TsSt where
  entries : SMap TsEntry
  lastB : SMap Nat
  arrivals : Nat
  classB : SMap Nat
  capped : List Nat
  exempt : List Nat
  before : SMap (Nat × Nat)
  planAt : Option Nat
  deriving DecidableEq, Repr

/-- A firewall window (Table 8-13): its four words. -/
structure Win where
  w0 : Nat
  w1 : Nat
  w2 : Nat
  w3 : Nat
  deriving DecidableEq, Repr

/-- The window table as written, and as the checkers use it (R350). -/
structure FwSt where
  table : SMap Win
  inForce : SMap Win
  deriving DecidableEq, Repr

/-- The state of one queue (Table 7-1), and whether it is stopped under R273. -/
structure Queue where
  enable : Bool
  cls : Nat
  mode : Nat
  ringLog2 : Nat
  compLog2 : Nat
  qlock : Bool
  ringBase : Nat
  client : Nat
  ticket : Nat
  compBase : Nat
  irqHart : Nat
  irqId : Nat
  irqEn : Bool
  unit : Nat
  owner : Nat
  head : Nat
  tail : Nat
  ctail : Nat
  chead : Nat
  fault : Bool
  dbErr : Bool
  dbDeny : Bool
  dropped : Nat
  stopped : Bool
  deriving DecidableEq, Repr

/-- The reset values of Table 7-1. [DESIGN CHOICE: log entry 22] -/
def Queue.reset : Queue :=
  ⟨false, 0, 0, 1, 1, false, 0, 0, 0x3F, 0, 0, 0, false, 0, 0, 0, 0, 0, 0, false, false, false, 0, false⟩

/-- A step of a scale-history record (R206, R207): context, prediction, step maximum, rows clipped, caught, row blocks
redone, rows denied. -/
structure ScaleStep where
  ctx : Nat
  p : Nat
  max : Nat
  clipped : Nat
  caught : Nat
  redone : Nat
  denied : Nat
  deriving DecidableEq, Repr

/-- The outcome of a page selection (R247, R248): selected blocks, reserve blocks in their order, and the selection generation of each
block whose page table entry was read. [DESIGN CHOICE: log entry 244] -/
structure Selection where
  sel : List Nat
  reserve : List Nat
  gens : SMap Nat
  deriving DecidableEq, Repr

/-- A job: the descriptor as read (R272), its queue and index, the client charged, the slot it belongs to (none: OPEN
work), whether it has started, the result once its work has ended, the batch entry at which it stopped, whether its POST
is to be done, a stop that waits for the next tile boundary, the ranges it writes, the scale-history step that it commits
when it completes, whether another job made what it writes unpredictable (R495), the cycle of its frame, the t_k and the
frame number at its start (R485, R486, R493), the scale-history record fetched when it was dispatched (R186), the selections that a suspended retrieval keeps, by head
group (R262), and what it writes that conflicts with another job in progress (R322). -/
structure Job where
  queue : Nat
  index : Nat
  client : Nat
  slot : Option Nat
  desc : List Byte
  ticket : Nat
  started : Bool
  status : Option Nat
  entry : Nat
  post : Bool
  stopWith : Option Nat
  outs : List (Nat × Nat)
  commit : Option ScaleStep
  spoiled : Bool
  began : Nat
  beganTk : Nat
  beganFrame : Nat
  hist : List Byte
  kept : SMap Selection
  clash : List (Nat × Nat)
  deriving DecidableEq, Repr

/-- A unit of Table 7-6: the running job, the suspended job, descriptors taken but not started in ring order, whether
a pre-emption or switch is under way, and whether the unit is failed for good (R719). -/
structure UnitSt where
  running : Option Job
  suspended : Option Job
  held : List Job
  switching : Bool
  failed : Bool
  deriving DecidableEq, Repr

/-- A slot record (Table 7-5). -/
structure Slot where
  typ : Nat
  contingent : Bool
  start : Nat
  len : Nat
  frames : Nat
  wcet : Nat
  queue : Nat
  count : Nat
  client : Nat
  unit : Nat
  bUnit : Nat
  bStart : Nat
  bQueue : Nat
  link : Nat
  id : Nat
  reserved : Bool
  deriving DecidableEq, Repr

/-- A rate entry (R282). -/
structure Rate where
  port : Nat
  ticket : Nat
  rate : Nat
  burst : Nat
  reserved : Bool
  deriving DecidableEq, Repr

/-- A frame plan as read from its image (R280 to R283). -/
structure PlanImg where
  planId : Nat
  slots : List Slot
  rates : List Rate
  pins : List Nat
  percShare : Nat
  percClient : Nat
  actMin : Nat
  deriving DecidableEq, Repr

/-- What Ringmaster holds of one slot in the current frame: descriptors taken, whether the slot has started, jobs
completed with DONE or EMPTY, whether some job ended otherwise, whether a SAFE slot's signature was accepted, whether
the slot runs on its backup, is displaced, runs as OPEN work of PERC_CLIENT (R318), is checked, and the dies on which a job of it met
a condition of R212. -/
structure SlotRun where
  taken : Nat
  started : Bool
  good : Nat
  bad : Bool
  matched : Bool
  backup : Bool
  displaced : Bool
  asOpen : Bool
  checked : Bool
  doubtful : List Nat
  deriving DecidableEq, Repr

/-- Ringmaster's plans: staging store, the address of the image that a STAGE is reading, the plan in force, the plan that takes over with the
earliest grid cycle of its first boundary, the stop that is pending, slots of the current frame by SLOT_ID, positions
and KV units in backup mode, those that failed in the current frame, dies whose SAFE slots R624 exempts, engines and KV units
(36 + die) whose signature has been compared in this frame (R164, R263), descriptors taken ahead for slots of the next frame by SLOT_ID:
the unit and their number (R293). -/
structure PlanSt where
  staged : Option PlanImg
  reading : Option Nat
  inForce : Option PlanImg
  next : Option (PlanImg × Nat)
  stopping : Bool
  slots : SMap SlotRun
  backupMode : List Nat
  newlyFailed : List Nat
  exempt : List Nat
  compared : List Nat
  ahead : SMap (Nat × Nat)
  deriving DecidableEq, Repr

/-- A serving group (R310 to R313): pending membership in order with the QROWS of the next step, the members last
published, the next step number, and the lower groups of the same STEP write that publish first. -/
structure Group where
  members : List (Nat × Nat)
  published : List Nat
  nextStep : Nat
  after : List Nat
  deriving DecidableEq, Repr

/-- Ringmaster: queues, units, the last queue served by unit and client, serving groups, clients ready. -/
structure RmSt where
  queues : SMap Queue
  units : SMap UnitSt
  lastQ : SMap Nat
  groups : SMap Group
  ready : List Nat
  deriving DecidableEq, Repr

/-- A hot sequence context (R225, R226): its 128 bytes, pins by software and by the plan, modified. -/
structure HotCtx where
  data : List Byte
  pinSw : Bool
  pinPlan : Bool
  modified : Bool
  deriving DecidableEq, Repr

/-- The hot-context cache: entries by context index, the indices from least to most recently used, and contexts whose
storage was written by another path, with the number of the event (R224). -/
structure HotSt where
  entries : SMap HotCtx
  order : List Nat
  spoiled : SMap Nat
  deriving DecidableEq, Repr

/-- A row move in progress: row of the stack (page and pseudo-channel) and the remap entry taken (R87). -/
structure RowMove where
  page : Nat
  pc : Nat
  entry : Nat
  deriving DecidableEq, Repr

/-- Wear of the storage (R86 to R92): lost blocks, retired pages, corrected errors by row (the scrub period that they fall in,
and their number), fenced granules, moves in progress, replays of each link (the 10 µs window, and their number), and changes
that the island has not yet recorded. -/
structure WearSt where
  lost : SMap (List Nat)
  retired : SMap (List Nat)
  rowErrors : SMap (Nat × Nat)
  sramErrors : SMap (Nat × Nat)
  fenced : List Nat
  moves : SMap (List RowMove)
  linkReplays : SMap (Nat × Nat)
  unrecorded : List HealthEntry
  deriving DecidableEq, Repr

/-- The error collectors' and Ringmaster's engine state (R164, R170 to R178): requested comparator tests, engines and
KV units failed, engines whose last golden step passed. -/
structure EngSt where
  sigTest : List Nat
  kvSigTest : List Nat
  failedEng : List Nat
  failedKv : List Nat
  passed : List Nat
  deriving DecidableEq, Repr

/-- A sample that a group may use: slot sequence number, timestamp, slot address (R386, R395). -/
structure Sample where
  seq : Nat
  ts : Nat
  addr : Nat
  deriving DecidableEq, Repr

/-- A stream beside its registers: accepted samples so far, timestamp of the last, usable samples that were not late, newest first, and
the grid cycle of the write of a reinstatement that waits for the next cycle boundary (R385, R386, R395, R402, R405). -/
structure StreamSt where
  seq : Nat
  lastTs : Option Nat
  samples : List Sample
  reinstate : Option Nat
  deriving DecidableEq, Repr

/-- A member's history of decoded samples, newest first: timestamp and the values of channels 0 to 15 (R406). -/
abbrev History := List (Nat × List Nat)

/-- A cycle that has started: its boundary, T_ref, T_prev, the calibration records and CAL_EPOCH in force (R394, R408). -/
structure Cycle where
  at_ : Nat
  tRef : Nat
  tPrev : Int
  cal : SMap (List Byte)
  epoch : Nat
  deriving DecidableEq, Repr

/-- A member at a cycle's close (R421): number, stream, whether it is absent, and the closed cycles before for which it has been so. -/
structure Presence where
  member : Nat
  stream : Nat
  absent : Bool
  run : Nat
  deriving DecidableEq, Repr

/-- A closed cycle that waits for FUSE (R397 to R400): its number, the samples of each member present that the snapshot holds for the
cycle, oldest first, with its stream, the histories of the members that are not unreliable, the status word's close fields, and the
members (R421). -/
structure Held where
  cycle : Nat
  info : Cycle
  snap : List (Nat × Nat × List Sample)
  hist : SMap History
  status : Nat
  seen : List Presence
  deriving DecidableEq, Repr

/-- A fusion track (R410): FP32 codes of position, velocity and variance by axis. -/
structure Track where
  id : Nat
  cls : Nat
  p : List Nat
  v : List Nat
  var : List Nat
  misses : Nat
  deriving DecidableEq, Repr

/-- An alignment group beside its registers: the open cycle, the closed one, T_ref of the cycle before, values emitted
last by member, closed cycles for which each member has been absent, tracks, histories by member, late samples since the
last close (R394 to R421). -/
structure FgSt where
  opened : Option Cycle
  held : Option Held
  prevRef : Option Nat
  emitted : SMap (List Nat)
  missRun : SMap Nat
  tracks : List Track
  histories : SMap History
  late : Nat
  deriving DecidableEq, Repr

/-- A camera's calibration accumulator (R426): A by rows, b, and the correspondences counted; FP32 codes. -/
structure CalSt where
  a : List (List Nat)
  b : List Nat
  n : Nat
  deriving DecidableEq, Repr

/-- The fusion unit. `online`: the record that an on-line update wrote in this major frame, and the pending record that
it replaced (R427, R428). -/
structure FuSt where
  streams : SMap StreamSt
  groups : SMap FgSt
  cal : SMap CalSt
  online : SMap (List Byte × List Byte)
  deriving DecidableEq, Repr

/-- Midway beside its registers and the map SRAM (R432 to R460): SDF_R, NX, NY, NZ under which the distance codes of each
buffer were computed, entries of the dynamic-cell list, the entries that the list has taken and given up in the generation now made
(R436), the entries of the changed-cell ring by generation, newest first (R439), generation of the current candidate set, candidates
in it, and START_BAD of the PLAN that made it. -/
structure MwSt where
  dims0 : List Nat
  dims1 : List Nat
  dynCount : Nat
  genDyn : Nat
  ring : List (Nat × Nat)
  setGen : Nat
  nCand : Nat
  startBad : Bool
  deriving DecidableEq, Repr

/-- A state block as Trapeze wrote it last: its header, and the point table of the problem (R484). [DEDUCED: log entry 96] -/
structure TpBlock where
  header : List Byte
  table : List Nat
  deriving DecidableEq, Repr

/-- An axis beside its registers (R508 to R532): whether it runs, the predictions of R508, INTEG and τ_bump, the current
applied at the axis's latest boundary, whether the next update is a first one and follows a return, the sample latched at
that boundary, the last sample accepted, whether a sample is due, whether that is the loop's, and whether the point's sample
was accepted or missed, samples missed in a row,
the entry sent for the next grid point and whether the island sent it, the set in use, the tables, FB_NS, HOP_NS and
CMD_NS of its module, and the entries of the cogging table that software wrote last, with the grid cycle (R12). [DEDUCED: log entry 126] -/
structure AxisSt where
  on : Bool
  thPred : Int
  wPred : Int
  thmPrev : Nat
  integ : Int
  tauBump : Int
  iPrev : Int
  first : Bool
  afterReturn : Bool
  th : Int
  w : Int
  thm : Nat
  missing : Bool
  lastTh : Int
  lastW : Int
  seen : Bool
  due : Bool
  loopDue : Bool
  got : Bool
  missed : Bool
  missRun : Nat
  sent : Option (Int × Bool)
  posRef : Option Int
  velRef : Int
  tauFf : Int
  cog : List Int
  fric : List Int
  ns : Nat × Nat × Nat
  written : Nat × List Nat
  deriving DecidableEq, Repr

/-- An axis ring beside its registers: the responses of its last enumeration (NODE, MAC, LAST; R529), the grid point of the
cycle in which its axes were last updated (R521), and that of the cycle in which a CMD frame was last sent on it (R556). -/
structure RingSt where
  found : List (Nat × Nat × Nat)
  updated : Option Nat
  sentAt : Option Nat
  deriving DecidableEq, Repr

/-- A TT_CMD command in progress (R529, R530). -/
structure TtCmd where
  op : Nat
  ring : Nat
  node : Nat
  axis : Nat
  offset : Nat
  attempt : Nat
  deriving DecidableEq, Repr

/-- A take of the staging set (R502, R504): its grid cycle, the base of the set, the axes whose entries it read. -/
structure Take where
  at_ : Nat
  base : Nat
  axes : List Nat
  deriving DecidableEq, Repr

/-- Tightrope: axes, rings, the grid cycle of the boundary at which the set in use was taken, the grid point of the last
take (R502), the last take of a complete set, a command in progress. -/
structure TtSt where
  axes : SMap AxisSt
  rings : SMap RingSt
  setAt : Nat
  takenAt : Option Nat
  taking : Option Take
  cmd : Option TtCmd
  deriving DecidableEq, Repr

/-- The net's state of one axis (R547, R548). -/
structure NetAxis where
  pr : Int
  vr : Int
  tg : Int
  tauBump : Int
  first : Bool
  misses : Nat
  dead : Bool
  still : Nat
  deriving DecidableEq, Repr

/-- The island beside its registers (R536, R542 to R564): ISL_STO_N; the doubt wires asserted and not yet latched; the handover
point scheduled and that of the last handover, as grid cycles; the net's axes, the point of its last update and the first
point it commands after a change of pair; the IMU sample and its point; whether a STOP1 has completed; the axes that are
commanded no more (R554); the reintegration's phase (0 none, 1 golden pass, 2 waiting for a take, 3 return at the next
boundary), units whose pass is still out, doubt since the request; the time of latching; the last kick of the HOST
watchdog; the carousel entry whose step runs, comparator tests awaited, the golden step of each such entry's last
test; and whether a conversion of the net has overflowed since reset (R111). -/
structure IslSt where
  sto : Bool
  wires : List (Nat × Nat)
  handoverAt : Option Nat
  handoverPoint : Nat
  axes : SMap NetAxis
  netAt : Option Nat
  netFrom : Nat
  imu : List Byte
  imuAt : Option Nat
  stopDone : Bool
  netDead : List Nat
  reint : Nat
  reintWait : List Nat
  reintBits : Nat
  latchedAt : Nat
  hostAt : Nat
  carousel : Option Nat
  awaiting : List Nat
  testStep : SMap Nat
  ovf : Bool
  deriving DecidableEq, Repr

/-- A phase entry (R604): key, demands, and the grid cycle of the power window that hit it last. -/
structure Phase where
  key : Nat
  dc : Nat
  dm : Nat
  dl : Nat
  hitAt : Nat
  deriving DecidableEq, Repr

/-- The power controllers beside their registers (R594 to R628): enable outputs that are high and power-good inputs that are (0
to 3 VDD_C[d], 4 hub, 5 memory), the phase table, the key looked up for this window with the entry that it hit, whether a die's duty
was below 16 in this window (R606), halved caps of memory and links, whether a window has been allocated, the class B caps in force by
port, windows with CAP_OVER, votes by part (duty, age), the energy of each rail in the current windows of this power window, in
1/8 nJ (R603), the sum of each rail's estimates before the gain and the number of current windows since the last gain update (R600), THERM_N, the state transition that runs (the state it enters and the
last target), the wake events that wait for an entry to complete, and the dies parked: on when P1 was entered, and not yet out of
reset again (R624). [DEDUCED: log entry 141] -/
structure PwSt where
  enables : List Nat
  good : List Nat
  phases : SMap Phase
  look : Option (Nat × Option Nat)
  throttled : Bool
  memHalf : Bool
  linkHalf : Bool
  allocated : Bool
  caps : SMap Nat
  capOver : Nat
  votes : SMap (Nat × Nat)
  energy : List Nat
  raw : List Nat
  rawWindows : Nat
  thermN : Bool
  transition : Option (Nat × Nat)
  wakes : List (Nat × Nat)
  parked : List Nat
  deriving DecidableEq, Repr

/-- An operation of boot step 7: ENUM of a ring, or READ and CONFIG of a mapped axis (R645). -/
inductive BootOp
  | enumRing (r : Nat)
  | axis (m : AxisMap)
  deriving DecidableEq, Repr

/-- Boot and the identity memories: the flash, the configuration record in use, the step of Table 17-5 that waits (0: none;
5 and 9 for power, 7 for a TT_CMD command, 11 for STAGE, 12 for the first boundary), what runs the steps (0 nothing, 1 power-on,
2 warm reset, 3 exit from P3), the rest of step 7 with the rings whose ENUM failed, whether hub firmware was verified, what the
power-on showed, whether the flash is locked, the health record in use with its SEQ and slot, the dies in reset (bits), and
the application cores: 0 stopped, 1 running, 2 stopped in P1, 3 stopped with their state lost, with the address at which they
last started. -/
structure BootSt where
  flash : Flash
  cfg : Option CfgRecord
  step : Nat
  kind : Nat
  todo : List BootOp
  badRings : List Nat
  firmware : Bool
  env : BootEnv
  locked : Bool
  health : List HealthEntry
  healthSeq : Nat
  healthSlotB : Bool
  resetRunning : Nat
  harts : Nat
  hartsAt : Nat
  deriving DecidableEq, Repr

/-- What the silicon fixes: key hashes in island ROM (R631, R657) and the key store's device secret (R635). [DESIGN CHOICE: log entry 150] -/
structure SiliconSt where
  aumalenHash : Nat
  debugHash : Nat
  keyStore : Option Nat
  deriving DecidableEq, Repr

/-- Debug access (R656 to R659): levels open (bit 0 APP, 1 ISL, 2 TEST), failed attempts, the nonce. -/
structure DebugSt where
  levels : Nat
  fails : Nat
  nonce : Nat
  deriving DecidableEq, Repr

/-- The response to the last fabric request or register read: TAG of the request (Table 8-1), status (0, or a code of Table
7-3), data. [DESIGN CHOICE: log entry 6] -/
structure Resp where
  init : Nat
  tag : Nat
  status : Nat
  data : List Byte
  deriving DecidableEq, Repr

/-- A dirty line of L2 or L3: its 64 bytes, and the initiator ID of the hart and the ticket of its last write (R329). -/
structure Line where
  data : List Byte
  hart : Nat
  ticket : Nat
  deriving DecidableEq, Repr

/-- What the part sends or drives: kind of output, port, bytes. [DESIGN CHOICE: log entry 6] -/
structure Out where
  kind : Nat
  port : Nat
  data : List Byte
  deriving DecidableEq, Repr

/-- Register access state: staging words by page with owner and offset, read latches by page and initiator (R662),
message files' pending identities by file address (R673), hart ticket CSRs (R327), dirty lines of L2 and L3 by block, GPIO pins. -/
structure BusSt where
  staging : SMap (Nat × Nat × Nat)
  latches : SMap Nat
  files : SMap (List Nat)
  hartTkt : SMap Nat
  lines : SMap Line
  gpio : Nat
  resp : Option Resp
  sent : List Out
  deriving DecidableEq, Repr

/-- A sample in a FEED's row: record, TYPE, FLAGS, first element, elements (R586). -/
structure Seg where
  record : Nat
  typ : Nat
  flags : Nat
  start : Nat
  len : Nat
  deriving DecidableEq, Repr

/-- How far a FEED has come (R586 to R592): the job, position, row number, first position of the row, its samples, its
data, elements used, skips, skip log entries written or taken, those of the last row closed, the next entry of a replay, and
the decode times of the last 64 records placed, newest first. -/
structure FeedRun where
  queue : Nat
  index : Nat
  pos : Nat
  row : Nat
  posFirst : Nat
  segs : List Seg
  data : List Byte
  used : Nat
  nSkip : Nat
  logged : Nat
  rowLog : Nat
  replayAt : Nat
  times : List Nat
  deriving DecidableEq, Repr

/-- The record pipeline: the FEED in progress. -/
structure FeedSt where
  run : Option FeedRun
  deriving DecidableEq, Repr

/-- A Yelilo port beside its registers (R709, R712): training, failed codewords of the 10 µs window, the retry
buffer's flits. [DEDUCED: log entry 199] -/
structure YlSt where
  training : Bool
  window : Nat
  fails : Nat
  retry : List (List Byte)
  deriving DecidableEq, Repr

/-- The state of the block. [DESIGN CHOICE: log entry 228] -/
structure State where
  regs : SMap Nat
  mem : Mem
  doubt : DoubtSt
  fw : FwSt
  silicon : SiliconSt
  dbg : DebugSt
  log : LogSt
  grid : GridSt
  time : TimeSt
  ts : TsSt
  rm : RmSt
  plan : PlanSt
  hot : HotSt
  wear : WearSt
  eng : EngSt
  fu : FuSt
  mw : MwSt
  tp : SMap TpBlock
  tt : TtSt
  isl : IslSt
  pw : PwSt
  boot : BootSt
  bus : BusSt
  feed : FeedSt
  yl : SMap YlSt
  fresh : Nat
  pending : List Instr
  deriving DecidableEq, Repr

/-- The boot flash of a part whose board has programmed nothing (log entry 5). [DESIGN CHOICE: log entry 5] -/
def Flash.empty : Flash := ⟨false, [], [], none, none, none, none, none, [], 0⟩

/-- A power-on at which the PUF yields nothing and no die comes up (log entry 5). [DESIGN CHOICE: log entry 5] -/
def BootEnv.empty : BootEnv := ⟨none, 0, [], [], [], [], none⟩

/-- INC_NOM (R365). -/
def incNom : Nat := 3904515724

/-- The part right after PORST_N rises: every register field at its reset value (an empty map), the doubt latch with
START (R540), ISL_STO_N low (R536), nothing running, no command waiting. [DESIGN CHOICE: log entries 2, 3, 5, 22, 150] -/
def State.reset : State where
  regs := []
  mem := ⟨[], [], []⟩
  doubt := ⟨0x2000, 0xD, 5, 0⟩
  fw := ⟨[], []⟩
  silicon := ⟨0, 0, none⟩
  dbg := ⟨0, 0, 0⟩
  log := ⟨[[], [], [], [], []], 4, [], [], [], []⟩
  grid := ⟨0, false, 0, 0, 0, 0, 0, 0, 0, 0, 0, 0⟩
  time := ⟨0, 0, 0, 0, incNom, 0, 0, 0, none, [], [], [], [], [], 0, none, 0, []⟩
  ts := ⟨[], [], 0, [], [], [], [], none⟩
  rm := ⟨[], [], [], [], []⟩
  plan := ⟨none, none, none, none, false, [], [], [], [], [], []⟩
  hot := ⟨[], [], []⟩
  wear := ⟨[], [], [], [], [], [], [], []⟩
  eng := ⟨[], [], [], [], []⟩
  fu := ⟨[], [], [], []⟩
  mw := ⟨[], [], 0, 0, [], 0, 0, false⟩
  tp := []
  tt := ⟨[], [], 0, none, none, none⟩
  isl := ⟨false, [], none, 0, [], none, 0, [], none, false, [], 0, [], 0, 0, 0, none, [], [], false⟩
  pw := ⟨[], [], [], none, false, false, false, false, [], 0, [], [], [], 0, true, none, [], []⟩
  boot := ⟨Flash.empty, none, 1, 1, [], [], false, BootEnv.empty, false, [], 0, false, 15, 0, 0⟩
  bus := ⟨[], [], [], [], [], 0, none, []⟩
  feed := ⟨none⟩
  yl := []
  fresh := 0
  pending := []

end Sys2Proof.Machine
end

