-- ==== Sys2Proof/Machine/Ops.lean ====
section
/-! DEFINITION. The named operations over the state: primitive effects and their application, storage, register fields,
interrupts, the error log, the doubt latch, the address map and the access checks. Every command's meaning is a list of
primitive effects computed from the state, so that what no primitive effect can do, no command does. -/

namespace Sys2Proof.Machine

/-! ### Storage -/

/-- The pieces of `r` outside the addresses from `a` to `b - 1`. -/
def Lost.cut (a b : Nat) (r : Lost) : List Lost :=
  if r.hi ≤ a ∨ b ≤ r.lo then [r]
  else (if r.lo < a then [⟨r.lo, a, r.gen⟩] else []) ++ (if b < r.hi then [⟨b, r.hi, r.gen⟩] else [])

/-- The event that lost the content at `a`, if its content is lost. -/
def lostAt : List Lost → Nat → Option Nat
  | [], _ => none
  | r :: rs, a => if r.lo ≤ a ∧ a < r.hi then some r.gen else lostAt rs a

/-- The byte of the range that fills `a`; 0 outside all of them (log entry 4). -/
def fillAt : List Fill → Nat → Byte
  | [], _ => 0#8
  | r :: rs, a => if r.lo ≤ a ∧ a < r.hi then r.byte else fillAt rs a

/-- The pieces of a filled range outside the addresses from `a` to `b - 1`. -/
def Fill.cut (a b : Nat) (r : Fill) : List Fill :=
  if r.hi ≤ a ∨ b ≤ r.lo then [r]
  else (if r.lo < a then [⟨r.lo, a, r.byte⟩] else []) ++ (if b < r.hi then [⟨b, r.hi, r.byte⟩] else [])

/-- The part of a filled range inside addresses `a` to `b - 1`, moved up by `d` (down when negative). -/
def Fill.part (a b : Nat) (d : Int) (r : Fill) : List Fill :=
  if max a r.lo < min b r.hi then [⟨(max a r.lo + d).toNat, (min b r.hi + d).toNat, r.byte⟩] else []

/-- The same of a lost range. -/
def Lost.part (a b : Nat) (d : Int) (r : Lost) : List Lost :=
  if max a r.lo < min b r.hi then [⟨(max a r.lo + d).toNat, (min b r.hi + d).toNat, r.gen⟩] else []

/-- What an address that is not listed reads as: a free byte where its content is lost, else the fill. [DESIGN CHOICE: log entry 4] -/
def Mem.unlisted (m : Mem) (a : Nat) : Byte :=
  match lostAt m.lost a with
  | some g => Config.freeByte g a
  | none => fillAt m.fills a

/-- The byte at `a`. [DESIGN CHOICE: log entry 4] -/
def Mem.byte (m : Mem) (a : Nat) : Byte := (mget m.cells a).getD (m.unlisted a)

/-- The cells with `v` at `a`: listed unless it is what fills the address. -/
def putCell (fs : List Fill) (cs : List Host.Cell) (a : Nat) (v : Byte) : List Host.Cell :=
  if v = fillAt fs a then mdel cs a else mset cs a v

/-- The cells with the bytes `bs` from `a` on. -/
def putCells (fs : List Fill) (cs : List Host.Cell) (a : Nat) : List Byte → List Host.Cell
  | [] => cs
  | b :: bs => putCells fs (putCell fs cs a b) (a + 1) bs

/-- The storage with `bs` from `a` on. -/
def Mem.write (m : Mem) (a : Nat) (bs : List Byte) : Mem :=
  ⟨putCells m.fills m.cells a bs, m.lost.flatMap (Lost.cut a (a + bs.length)), m.fills⟩

/-- The storage with the content of addresses `lo` to `hi - 1` lost by event `gen`. -/
def Mem.lose (m : Mem) (lo hi : Nat) (gen : Nat) : Mem :=
  ⟨mdelIf m.cells (fun a => decide (lo ≤ a ∧ a < hi)), ⟨lo, hi, gen⟩ :: m.lost.flatMap (Lost.cut lo hi), m.fills⟩

/-- The storage with `v` at addresses `lo` to `hi - 1`. -/
def Mem.fill (m : Mem) (lo hi : Nat) (v : Byte) : Mem :=
  ⟨mdelIf m.cells (fun a => decide (lo ≤ a ∧ a < hi)), m.lost.flatMap (Lost.cut lo hi), ⟨lo, hi, v⟩ :: m.fills.flatMap (Fill.cut lo hi)⟩

/-- The cells with each of a list put at its address plus `d`. -/
def moveCells (fs : List Fill) (cs : List Host.Cell) (d : Int) : List Host.Cell → List Host.Cell
  | [] => cs
  | c :: r => moveCells fs (putCell fs cs (c.1 + d).toNat c.2) d r

/-- The storage with `n` bytes copied from `src` to `dst`, two ranges that do not meet. What is lost in the source is
lost in the copy. -/
def Mem.copy (m : Mem) (src dst n : Nat) : Mem :=
  let d : Int := (dst : Int) - src
  let fs := m.fills.flatMap (Fill.part src (src + n) d) ++ m.fills.flatMap (Fill.cut dst (dst + n))
  let ls := m.lost.flatMap (Lost.part src (src + n) d)
  ⟨moveCells fs (mdelIf m.cells (fun a => decide (dst ≤ a ∧ a < dst + n))) d (m.cells.filter (fun c => src ≤ c.1 && c.1 < src + n && (lostAt m.lost c.1).isNone)),
    ls ++ m.lost.flatMap (Lost.cut dst (dst + n)), fs⟩

/-- The canonical form of the storage: addresses strictly rising, and no cell listed that reads as an unlisted
address does or that lies in a lost range. [DESIGN CHOICE: log entry 4] -/
abbrev Mem.wf (m : Mem) : Prop :=
  mwf m.cells ∧ ∀ c ∈ m.cells, c.2 ≠ fillAt m.fills c.1 ∧ lostAt m.lost c.1 = none

/-- The `n` bytes from `a` on, as the storage holds them. -/
def Mem.bytes (m : Mem) (a : Nat) : Nat → List Byte
  | 0 => []
  | n + 1 => m.byte a :: m.bytes (a + 1) n

/-! ### Register fields -/

/-- The register map with `v` in field `f`; a field at its reset value is not listed. -/
def putFld (m : SMap Nat) (f : Fld) (v : Nat) : SMap Nat :=
  if v % 2 ^ f.width = f.reset then mdel m f.key else mset m f.key (v % 2 ^ f.width)

/-- The value of field `f`. -/
def State.get (s : State) (f : Fld) : Nat := (mget s.regs f.key).getD f.reset

/-- Field `f` is not 0. -/
def State.is (s : State) (f : Fld) : Bool := s.get f != 0

/-! ### Doubt latch -/

/-- The lowest source, and for it the lowest origin, among wires (R538). -/
def lowestWire : List (Nat × Nat) → Option (Nat × Nat)
  | [] => none
  | w :: ws => match lowestWire ws with
    | none => some w
    | some v => if w.1 < v.1 ∨ (w.1 = v.1 ∧ w.2 ≤ v.2) then some w else some v

/-- The latch after the wires `ws` assert in one cycle at time `t` (R537, R538). -/
def DoubtSt.latch (d : DoubtSt) (ws : List (Nat × Nat)) (t : Nat) : DoubtSt :=
  let bits := ws.foldl (fun b w => setBit b w.1) d.bits
  if d.bits = 0 then
    match lowestWire ws with
    | none => d
    | some w => ⟨bits, w.1, w.2, t⟩
  else { d with bits := bits }

/-! ### Primitive effects -/

/-- A primitive effect. None clears a doubt bit, writes a firewall window, touches the key store or the ROM hashes,
opens or closes debug access, or touches the queue of commands. -/
inductive Eff
  /-- Bytes stored from an address on. -/
  | write (a : Nat) (bs : List Byte)
  /-- The content of `n` bytes from `a` becomes unpredictable. -/
  | lose (a : Nat) (n : Nat)
  /-- `n` bytes from an address take one value. -/
  | fill (a : Nat) (n : Nat) (v : Byte)
  /-- `n` bytes are copied from one range to another. -/
  | copyMem (src dst n : Nat)
  /-- A register field takes a value. -/
  | reg (f : Fld) (v : Nat)
  /-- The fields whose Restored by column names an event, among pages for which `p` holds, return to reset. -/
  | restore (ev : Nat) (pages : List Nat)
  /-- Doubt wires latch. -/
  | latch (ws : List (Nat × Nat)) (t : Nat)
  /-- One value of the free-value counter is used up. -/
  | bump
  | setLog (v : LogSt)
  | setGrid (v : GridSt)
  | setTime (v : TimeSt)
  | setTs (v : TsSt)
  | setRm (v : RmSt)
  | setPlan (v : PlanSt)
  | setHot (v : HotSt)
  | setWear (v : WearSt)
  | setEng (v : EngSt)
  | setFu (v : FuSt)
  | setMw (v : MwSt)
  | setTp (v : SMap TpBlock)
  | setTt (v : TtSt)
  | setIsl (v : IslSt)
  | setPw (v : PwSt)
  | setBoot (v : BootSt)
  | setBus (v : BusSt)
  | setFeed (v : FeedSt)
  | setYl (v : SMap YlSt)

/-- The state after one primitive effect. -/
def State.apply (s : State) : Eff → State
  | .write a bs => { s with mem := s.mem.write a bs }
  | .lose a n => { s with mem := s.mem.lose a (a + n) s.fresh, fresh := s.fresh + 1 }
  | .fill a n v => { s with mem := s.mem.fill a (a + n) v }
  | .copyMem src dst n => { s with mem := s.mem.copy src dst n }
  | .reg f v => { s with regs := putFld s.regs f v }
  | .restore ev ps =>
    { s with regs := mdelIf s.regs (fun k => ps.contains (k / 64 / 0x10000) && restores ev k) }
  | .latch ws t => { s with doubt := s.doubt.latch ws t }
  | .bump => { s with fresh := s.fresh + 1 }
  | .setLog v => { s with log := v }
  | .setGrid v => { s with grid := v }
  | .setTime v => { s with time := v }
  | .setTs v => { s with ts := v }
  | .setRm v => { s with rm := v }
  | .setPlan v => { s with plan := v }
  | .setHot v => { s with hot := v }
  | .setWear v => { s with wear := v }
  | .setEng v => { s with eng := v }
  | .setFu v => { s with fu := v }
  | .setMw v => { s with mw := v }
  | .setTp v => { s with tp := v }
  | .setTt v => { s with tt := v }
  | .setIsl v => { s with isl := v }
  | .setPw v => { s with pw := v }
  | .setBoot v => { s with boot := v }
  | .setBus v => { s with bus := v }
  | .setFeed v => { s with feed := v }
  | .setYl v => { s with yl := v }

/-- The state after a list of primitive effects, in order. -/
def State.run (s : State) : List Eff → State
  | [] => s
  | e :: es => (s.apply e).run es

/-- An action: the primitive effects that a part of a command has in a state. -/
abbrev Act := State → List Eff

/-- The state after an action. -/
def State.act (s : State) (a : Act) : State := s.run (a s)

/-- No effect. -/
def skip : Act := fun _ => []

/-- The actions one after another, each in the state that the ones before leave. -/
def seq : List Act → Act
  | [] => skip
  | a :: as => fun s => a s ++ seq as (s.run (a s))

/-- `a` when `c` holds. -/
def whenA (c : Bool) (a : Act) : Act := fun s => if c then a s else []

/-- `a` when `c` holds of the state. -/
def whenS (c : State → Bool) (a : Act) : Act := fun s => if c s then a s else []

/-- An action chosen from the state. -/
def withS (f : State → Act) : Act := fun s => f s s

/-- `f` for each element in order. -/
def forA {α : Type} (xs : List α) (f : α → Act) : Act := seq (xs.map f)

/-- Store bytes. -/
def store (a : Nat) (bs : List Byte) : Act := fun _ => [.write a bs]

/-- Make the content of `n` bytes unpredictable. -/
def lose (a : Nat) (n : Nat) : Act := fun _ => if n = 0 then [] else [.lose a n]

/-- Set a register field. -/
def setF (f : Fld) (v : Nat) : Act := fun _ => [.reg f v]

/-- Count `n` in a field that saturates at its largest value. -/
def countF (f : Fld) (n : Nat) : Act := fun s => [.reg f (satU f.width (s.get f + n))]

/-- A free value, numbered by the free-value counter. [DESIGN CHOICE: log entry 1] -/
def withFree (f : Nat → Act) : Act := fun s => .bump :: f s.fresh (s.apply .bump)

def updLog (f : LogSt → LogSt) : Act := fun s => [.setLog (f s.log)]
def updGrid (f : GridSt → GridSt) : Act := fun s => [.setGrid (f s.grid)]
def updTime (f : TimeSt → TimeSt) : Act := fun s => [.setTime (f s.time)]
def updTs (f : TsSt → TsSt) : Act := fun s => [.setTs (f s.ts)]
def updRm (f : RmSt → RmSt) : Act := fun s => [.setRm (f s.rm)]
def updPlan (f : PlanSt → PlanSt) : Act := fun s => [.setPlan (f s.plan)]
def updHot (f : HotSt → HotSt) : Act := fun s => [.setHot (f s.hot)]
def updWear (f : WearSt → WearSt) : Act := fun s => [.setWear (f s.wear)]
def updEng (f : EngSt → EngSt) : Act := fun s => [.setEng (f s.eng)]
def updFu (f : FuSt → FuSt) : Act := fun s => [.setFu (f s.fu)]
def updMw (f : MwSt → MwSt) : Act := fun s => [.setMw (f s.mw)]
def updTt (f : TtSt → TtSt) : Act := fun s => [.setTt (f s.tt)]
def updIsl (f : IslSt → IslSt) : Act := fun s => [.setIsl (f s.isl)]
def updPw (f : PwSt → PwSt) : Act := fun s => [.setPw (f s.pw)]
def updBoot (f : BootSt → BootSt) : Act := fun s => [.setBoot (f s.boot)]
def updBus (f : BusSt → BusSt) : Act := fun s => [.setBus (f s.bus)]
def updFeed (f : FeedSt → FeedSt) : Act := fun s => [.setFeed (f s.feed)]

/-- The outcome of a command: with operands that name something of the block, the state after its action; else nothing happens. [DESIGN CHOICE: log entry 222] -/
def perform (ok : Bool) (a : Act) (s : State) : Host.Outcome State Fault Refusal :=
  .next (if ok then s.run (a s) else s)

/-! ### Time and initiators -/

/-- The timestamp of the present grid cycle (R366). -/
def State.timestamp (s : State) : Nat := (1000000000 * s.time.sec + s.time.ns) % 2 ^ 64

/-- The initiator is one of the island's (R324). -/
def isIsland (init : Nat) : Bool := init == 0x090 || init == 0x091 || init == 0x092

/-- The initiator is an application core hart. -/
def isHart (init : Nat) : Bool := 0x080 ≤ init && init ≤ 0x08F

/-- The initiator is a copy engine. -/
def isCopyEngine (init : Nat) : Bool := 0x028 ≤ init && init ≤ 0x067

/-- The ticket that an initiator's requests carry outside a job (Table 8-3): a hart's CSR, the island's 0, FW_IO_TKT of an I/O
initiator, 63 of an HBM controller, LOG_TKT of the error log, and PLAN_TKT of Ringmaster. [DEDUCED: log entry 188] -/
def ticketOf (s : State) (init : Nat) : Nat :=
  if isHart init then (mget s.bus.hartTkt (init - 0x080)).getD 0x3F
  else if isIsland init then 0
  else if 0x100 ≤ init && init ≤ 0x120 then s.get (FW_IO_TKT_TICKET (init - 0x100))
  else if 0x0B0 ≤ init && init ≤ 0x0B3 then 63
  else if init == 0x0A3 then s.get FW_HK_TKT_LOG_TKT
  else s.get FW_HK_TKT_PLAN_TKT

/-- The ticket that a request of `init` carries (R326): that of the source which Table 8-3 gives the initiator; that of a unit's
running job; else `tkt`, for the initiators that have several sources. [DEDUCED: log entry 188] -/
def carried (s : State) (init tkt : Nat) : Nat :=
  if isHart init || isIsland init || (0x100 ≤ init && init ≤ 0x120) || (0x0B0 ≤ init && init ≤ 0x0B3) || init == 0x0A3 then ticketOf s init
  else match (mget s.rm.units init).bind (·.running) with
    | some j => j.ticket
    | none => if init = 105 then s.get TT_CTRL_TICKET else if init = 107 then s.get FU_CTRL_TICKET else tkt

/-- The frame plan is in force. -/
def State.planOn (s : State) : Bool := s.plan.inForce.isSome

/-- A ring's RUN bit is 1. -/
def State.someRun (s : State) : Bool := s.is TT_CTRL_RUN

/-- Doubt is latched (R537). -/
def State.doubted (s : State) : Bool := s.doubt.bits != 0

/-- The frame index and the major frame count as registers hold them (R30). -/
def State.frameIdx (s : State) : Nat := s.get RM_STATUS_FRAME_IDX
def State.major (s : State) : Nat := s.get RM_FRAME_MAJOR

/-! ### Interrupts -/

/-- The message file that page `p`'s INT_ROUTE names, unless it names none (R673). -/
def routeFile (s : State) (p : Nat) : Option Nat :=
  let h := s.get (INT_ROUTE_HART p)
  let l := s.get (INT_ROUTE_LEVEL p)
  let g := s.get (INT_ROUTE_GUEST p)
  let sup := 0xF000000000 + (81 + h) * 0x10000
  if s.get (INT_ROUTE_IDENT p) = 0 ∨ l = 3 ∨ (l = 2 ∧ g = 0) then none
  else if l = 0 then some (0xF000500000 + 0x1000 * h)
  else if l = 1 then some sup
  else some (sup + 0x1000 * g)

/-- Identity `id` becomes pending in the message file at `file` (R673, R677). -/
def pendMsg (file id : Nat) : Act :=
  updBus fun b =>
    let ids := (mget b.files file).getD []
    { b with files := mset b.files file (if ids.contains id then ids else ids ++ [id]) }

/-- Page `p` sends its message, if DEST is 1 or 3 and R673 does not hold it back. [DEDUCED: log entry 62] -/
def sendMsg (p : Nat) : Act := withS fun s =>
  if s.get (INT_ROUTE_DEST p) % 2 = 1 then
    match routeFile s p with
    | some f => pendMsg f (s.get (INT_ROUTE_IDENT p))
    | none => skip
  else skip

/-- Page `p`'s request: INT_STAT and INT_EN. -/
def request (s : State) (p : Nat) : Nat := Nat.land (s.get (INT_STAT p)) (s.get (INT_EN p))

/-- Input `p` of the island's interrupt controller (R675). -/
def islandInput (s : State) (p : Nat) : Bool :=
  isPage p && request s p != 0 && 2 ≤ s.get (INT_ROUTE_DEST p)

/-- `a` changes page `p`'s INT_STAT by hardware; a request that turns non-zero sends a message (R672). -/
def intChange (p : Nat) (a : Act) : Act := withS fun s0 =>
  seq [a, whenS (fun s => request s0 p == 0 && request s p != 0) (sendMsg p)]

/-- An event sets bit `b` of page `p`'s INT_STAT. -/
def raiseInt (p b : Nat) : Act :=
  intChange p (fun s => [.reg (INT_STAT p) (setBit (s.get (INT_STAT p)) b)])

/-! ### The error log -/

/-- Page number of the error log. -/
def pageEL : Nat := 1

/-- EL_FIRST of the report's class takes it: VALID is 0, or it holds a report of the same cycle with a higher origin, or with the same origin
and a higher initiator (R572). -/
def takesFirst (s : State) (r : Report) : Bool :=
  s.get (EL_FIRST_VALID r.cls) == 0 || (mget s.log.firstAt r.cls == some s.grid.now
    && (r.origin < s.get (EL_FIRST_ORIGIN r.cls) || (r.origin == s.get (EL_FIRST_ORIGIN r.cls) && r.init < s.get (EL_FIRST_INIT r.cls))))

/-- The number of reports of queue `q` raised in the present cycle before this one, as far as they still stand in it. -/
def sameCycle (s : State) (q : Nat) : Nat := match mget s.log.runAt q with
  | some (t, n) => if t = s.grid.now then n else 0
  | none => 0

/-- A queue with report `r` after the reports of earlier cycles, among the last `n`, those of its own cycle, in ascending initiator (R568). -/
def enter (cur : List Report) (n : Nat) (r : Report) : List Report :=
  let old := cur.take (cur.length - n)
  let now := cur.drop (cur.length - n)
  old ++ now.takeWhile (fun x => x.init ≤ r.init) ++ r :: now.dropWhile fun x => x.init ≤ r.init

/-- A report is raised: first-error capture, then its ingress queue or EL_MISSED. Reports of one cycle enter in ascending initiator,
so that of a full queue's the last in that order is missed (R568, R571, R572). -/
def report (r : Report) : Act := withS fun s =>
  let q := if r.origin < 4 then r.origin else 4
  let qs := s.log.queues
  let cur := qs.getD q []
  let n := min (sameCycle s q) cur.length
  let new := enter cur n r
  let first : Act := seq [whenS (fun s => s.get (EL_FIRST_VALID r.cls) == 0) (raiseInt pageEL 3), setF (EL_FIRST_ORIGIN r.cls) r.origin, setF (EL_FIRST_INIT r.cls) r.init,
    setF (EL_FIRST_TIME r.cls) r.time, setF (EL_FIRST_ADDR r.cls) r.addr, setF (EL_FIRST_VALID r.cls) 1]
  seq [
    whenA (takesFirst s r) (seq [updLog (fun l => { l with firstAt := mset l.firstAt r.cls s.grid.now }), first]),
    updLog (fun l => { l with queues := l.queues.set q (new.take 64), runAt := mset l.runAt q (s.grid.now, min (n + 1) 64) }),
    if cur.length < 64 then whenA (q < 4 && s.get (EL_ING_PEAK q) < cur.length + 1) (setF (EL_ING_PEAK q) (cur.length + 1))
    else
      seq [countF (EL_MISSED_COUNT (16 * q + ((new.drop 64).head?.getD r).cls % 16)) 1, setF EL_LOG_STAT_OVF 1, raiseInt pageEL 2]]

/-- A report with the common fields, at the present time. -/
def reportNow (cls origin code page unit init ticket : Nat) (doubt : Bool) (addr : Option Nat) (detail : Nat) : Act :=
  withS fun s => report ⟨s.timestamp, cls, origin, addr.isSome, doubt, init, ticket, code, page, unit, addr.getD 0, detail⟩

/-! ### Doubt -/

/-- A source asserts its doubt wire; the latch follows within 40 ns (R537). [DESIGN CHOICE: log entry 10] [DEDUCED: log entry 128] -/
def assertWire (src origin : Nat) : Act := updIsl fun i => { i with wires := i.wires ++ [(src, origin)] }

/-- The first grid point whose net update the latching at `t` still reaches (R542). -/
def handoverPoint (g : GridSt) (netOfs t : Nat) : Nat :=
  if t ≤ g.pointAt + netOfs then g.pointAt + 137500 else g.pointAt + 2 * 137500

/-- Wires latch in one cycle (R537, R538), a handover is set up unless one is or the net holds the rings (R542), and a
running reintegration sees the doubt (R560). [DESIGN CHOICE: log entry 10] -/
def latchWires (ws : List (Nat × Nat)) : Act := withS fun s =>
  if ws.isEmpty then skip else
  seq [fun s => [.latch ws s.timestamp],
    whenA (!s.doubted) (raiseInt pageEL 0),
    updIsl (fun i =>
      let i := { i with latchedAt := if s.doubted then i.latchedAt else s.timestamp,
                        reintBits := if i.reint == 0 then i.reintBits else ws.foldl (fun b w => setBit b w.1) i.reintBits }
      if s.doubted || s.is EL_NET_STAT_OWNER || i.handoverAt.isSome || !s.grid.running then i
      else { i with handoverAt := some (handoverPoint s.grid (s.get EL_NET_TIME_NET_OFS) s.grid.now) })]

/-- The island latches one of its own sources (origin 5). -/
def latchOwn (src : Nat) : Act := latchWires [(src, 5)]

/-- A reintegration ends with a result of Table 14-5 (R557). [DEDUCED: log entries 129, 168] -/
def reintEnd (code : Nat) : Act := seq [
  updIsl (fun i => { i with reint := 0, reintWait := [] }),
  setF EL_REINT_BUSY 0, setF EL_REINT_RESULT code, raiseInt pageEL 4]

/-! ### The error window -/

/-- Page `p`'s error window takes an event of `init`: it holds none, or one of the same cycle with a higher INIT (R681). -/
def holdsError (s : State) (p init : Nat) : Bool :=
  s.get (ERRW_VALID p) == 0 || (mget s.log.errwAt p == some s.grid.now && init < s.get (ERRW_INIT p))

/-- An event of Table 18-10 on page `p` (R681, R682); the request carried ticket `tkt` unless its initiator has a source of its
own (R326). -/
def errWindow (p kind init tkt off data : Nat) (isWrite : Bool) : Act := withS fun s =>
  let t := carried s init tkt
  seq [
    whenS (fun s => holdsError s p init) (seq [updLog (fun l => { l with errwAt := mset l.errwAt p s.grid.now }),
      whenS (fun s => s.get (ERRW_VALID p) == 0) (raiseInt p 31), setF (ERRW_VALID p) 1, setF (ERRW_WRITE p) (ofBool isWrite),
      setF (ERRW_KIND p) kind, setF (ERRW_INIT p) init, setF (ERRW_TICKET p) t, setF (ERRW_OFFSET p) off,
      setF (ERRW_DATA p) (if isWrite then data else 0)]),
    countF (ERRW_CNT p) 1,
    reportNow 9 (if 16 ≤ p && p < 80 then (p - 16) / 16 else if p == 2 then 5 else 4) (0x200 + kind) p 0xFF init t false
      (some (0xF000000000 + p * 0x10000 + off)) off]

/-! ### The address map -/

/-- What an address names (Table 2-1, Table 2-2). -/
inductive Region
  | stack (s off : Nat)
  | sram (d e off : Nat)
  | scratch (d off : Nat)
  | hubSram (off : Nat)
  | mapSram (off : Nat)
  | logRing (off : Nat)
  | islandSram (off : Nat)
  | page (p off : Nat)
  | doorbell (q off : Nat)
  | peer (p off : Nat)
  | nothing
  deriving DecidableEq, Repr

/-- The region of an address by the map alone. An alias address is named by its stack and offset (R46). -/
def region (a : Nat) : Region :=
  let lo := a % 2 ^ 40
  if a / 2 ^ 40 = 0 then
    if lo < 0x2400000000 then .stack (lo / 0x900000000) (lo % 0x900000000)
    else if 0x4000000000 ≤ lo && lo < 0x6400000000 then
      let x := lo - 0x4000000000
      .stack (x / 2048 % 4) (x / 8192 * 2048 + x % 2048)
    else if 0xE000000000 ≤ lo && lo < 0xE400000000 then
      let d := (lo - 0xE000000000) / 0x100000000
      let o := lo % 0x100000000
      if o < 9 * 0x400000 then .sram d (o / 0x400000) (o % 0x400000)
      else if 0x4000000 ≤ o && o < 0x7000000 then .scratch d (o - 0x4000000)
      else .nothing
    else if 0xE400000000 ≤ lo && lo < 0xE402000000 then .hubSram (lo - 0xE400000000)
    else if 0xE404000000 ≤ lo && lo < 0xE407000000 then .mapSram (lo - 0xE404000000)
    else if 0xE408000000 ≤ lo && lo < 0xE408020000 then .logRing (lo - 0xE408000000)
    else if 0xE40C000000 ≤ lo && lo < 0xE40C400000 then .islandSram (lo - 0xE40C000000)
    else if 0xF000000000 ≤ lo && lo < 0xF001000000 then .page ((lo - 0xF000000000) / 0x10000) (lo % 0x10000)
    else if 0xF800000000 ≤ lo && lo < 0xF800080000 then .doorbell ((lo - 0xF800000000) / 8) (lo % 8)
    else .nothing
  else if 0x80 ≤ a / 2 ^ 40 && a / 2 ^ 40 < 0xA0 && lo < 0x6400000000
    && (lo < 0x2400000000 || 0x4000000000 ≤ lo) then .peer (a / 2 ^ 40 - 0x80) lo
  else .nothing

/-- The engine that serves position `9d + e`, if any (R177, Table 4-15). -/
def serving (s : State) (pos : Nat) : Option Nat :=
  (List.range 9).foldr (fun k r =>
    let g := 9 * (pos / 9) + k
    if s.get (TE_STATUS_STATE g) == 1 && s.get (TE_STATUS_SERVES g) == pos % 9 then some g else r) none

/-- Compute die `d` is off or in reset: its rails are not on (R623, R665). -/
def dieOff (s : State) (d : Nat) : Bool := !(s.pw.good.contains d) || bit s.boot.resetRunning d

/-- The part is in A0 and no exit or entry runs (R623). -/
def stacksUsable (s : State) : Bool := s.get PW_STATUS_STATE == 0 && !(s.is PW_STATUS_TRANS)

/-- An address is usable (R43, R48, R51, R52, R623, R660, R665). Only copy engines reach peers. -/
def usable (s : State) (init : Nat) (a : Nat) : Bool :=
  match region a with
  | .stack _ off => off < 0x8FFC00000 && stacksUsable s
  | .sram d e _ => (serving s (9 * d + e)).isSome
  | .scratch _ _ | .hubSram _ | .mapSram _ | .logRing _ | .islandSram _ => true
  | .page p _ => isPage p && !(16 ≤ p && p < 80 && dieOff s ((p - 16) / 16))
  | .doorbell _ _ => true
  | .peer p off => isCopyEngine init && p != s.get YL_SELF_SELF && !(region off == .nothing) && stacksUsable s
  | .nothing => false

/-- The storage location of an address: stacks by their window (R47), a position's window by the engine that serves it
(R51). -/
def phys (s : State) (a : Nat) : Nat :=
  match region a with
  | .stack k off => k * 0x900000000 + off
  | .sram d e off => match serving s (9 * d + e) with
    | some g => 0xE000000000 + d * 0x100000000 + (g % 9) * 0x400000 + off
    | none => a
  | _ => a

/-! ### Firewalls -/

/-- A window matches a request for granule `g` (R349). -/
def Win.hits (w : Win) (init tkt g : Nat) : Bool :=
  bit w.w0 63 && field w.w0 47 12 ≤ g && g ≤ field w.w1 47 12
    && Nat.land init (field w.w2 27 16) == Nat.land (field w.w2 11 0) (field w.w2 27 16) && bit w.w3 tkt

/-- The lowest window that matches (R349), among windows in ascending order. -/
def deciding : SMap Win → Nat → Nat → Nat → Option (Nat × Win)
  | [], _, _, _ => none
  | (n, w) :: r, init, tkt, g => if w.hits init tkt g then some (n, w) else deciding r init tkt g

/-- Bit of word 0 that grants access type `acc` (0 R, 1 W, 2 A, 3 X). -/
def Win.grants (w : Win) (acc : Nat) : Bool := bit w.w0 acc

/-- The decision for one granule: allowed, or denied with the deciding window (0x3FE a fixed rule, 0x3FF none)
(R348, R349). `own` is the position an engine serves. -/
def fwDecide (s : State) (init tkt acc : Nat) (a : Nat) : Option Nat :=
  let byWindow : Option Nat := match deciding s.fw.inForce init tkt (a % 2 ^ 48 / 4096) with
    | some (n, w) => if w.grants acc then none else some n
    | none => some 0x3FF
  match region a with
  | .islandSram _ => if isIsland init then none else some 0x3FE
  | .page p _ =>
    if p == 2 then (if isIsland init then none else some 0x3FE)
    else if isIsland init then none
    else if isHart init || init == 0x0A0 || ((init == 0x100 || init == 0x101) && 80 ≤ p && p ≤ 96) then byWindow
    else some 0x3FE
  | .doorbell _ _ => if isIsland init then none else if isHart init then byWindow else some 0x3FE
  | .sram d e _ => if isIsland init || init == 9 * d + e then none else byWindow
  | _ => if isIsland init || (0x0B0 ≤ init && init ≤ 0x0B3) then none else byWindow

/-- The FW_ page whose checker decides a request: the instance number (Table 8-5). -/
def checkerOf (init : Nat) (a : Nat) : Nat :=
  if isHart init then 4 else match region a with
  | .stack k _ => k
  | .sram d _ _ => d
  | .scratch d _ => d
  | _ => 4

/-- Page number of FW_[n]. -/
def pageFW (n : Nat) : Nat := if n = 4 then 10 else 18 + 16 * n

/-- Page n's violation registers take a violation of `init` now: they hold none, or one of a higher INIT of the same cycle (R355). -/
def holdsViolation (s : State) (n init : Nat) : Bool :=
  s.get (FW_VIOL_INFO_VALID n) == 0 || (mget s.log.violAt n == some s.grid.now && init < s.get (FW_VIOL_INFO_INIT n))

/-- A denied request is recorded, logged and, under tickets 0 to 7, raises doubt (R354 to R356). -/
def violation (init tkt acc : Nat) (a : Nat) (win : Nat) : Act :=
  let n := checkerOf init a
  seq [
    whenS (fun s => holdsViolation s n init) (seq [(fun s => [.setLog { s.log with violAt := mset s.log.violAt n s.grid.now }]), setF (FW_VIOL_INFO_VALID n) 1,
      setF (FW_VIOL_INFO_SC n) (ofBool (tkt < 8)), setF (FW_VIOL_INFO_ACC n) acc, setF (FW_VIOL_INFO_TICKET n) tkt,
      setF (FW_VIOL_INFO_INIT n) init, setF (FW_VIOL_INFO_WIN n) win, setF (FW_VIOL_ADDR_ADDR n) a]),
    countF (FW_VIOL_INFO_COUNT n) 1,
    raiseInt (pageFW n) 0,
    reportNow 2 n 0x110 (pageFW n) (if init < 109 then init else 0xFF) init tkt (tkt < 8) (some a) (win + acc * 1024),
    whenA (tkt < 8) (assertWire 4 n)]

/-! ### Access checks over a range -/

/-- The pieces of the range of `n` bytes from `a` that lie in one 2 KiB granule each: address and length. -/
def pieces (a n : Nat) : List (Nat × Nat) :=
  if n = 0 then [] else
  (List.range ((a + n - 1) / 2048 - a / 2048 + 1)).map fun k =>
    let lo := max a ((a / 2048 + k) * 2048)
    let hi := min (a + n) ((a / 2048 + k + 1) * 2048)
    (lo, hi - lo)

/-- The first block of a list that the range of `n` bytes from `p` meets; `w` is the block size. -/
def firstBlock (bs : List Nat) (p n w : Nat) : Option Nat := bs.find? (fun b => b < p + n && p < b + w)

/-- The blocks of stack `k` on its lost-block list, as window addresses (R86). -/
def lostBlocks (s : State) (k : Nat) : List Nat := (mget s.wear.lost k).getD []

/-- The block size of the protection of an address: 64 B in a stack (R58), 8 B in SRAM (R60). -/
def eccWidth (a : Nat) : Nat := match region a with | .stack _ _ => 64 | _ => 8

/-- The Big Top link between the die of an initiator and the die or hub of an address is down (R63): pair links by the
page of the lower die. Initiators 0 to 0x067 sit on dies, the rest on the hub. -/
def initDie (init : Nat) : Option Nat :=
  if init < 36 then some (init / 9) else if init < 40 then some (init - 36)
  else if init < 0x068 then some ((init - 0x028) / 16)
  else if 0x0B0 ≤ init && init ≤ 0x0B3 then some (init - 0x0B0) else none

/-- The compute die that holds an address. -/
def addrDie (a : Nat) : Option Nat := match region a with
  | .stack k _ => some k
  | .sram d _ _ => some d
  | .scratch d _ => some d
  | .page p _ => if 16 ≤ p && p < 80 then some ((p - 16) / 16) else none
  | _ => none

/-- The local index on die `d`'s page of its link to die `e` (R63, Table 2-14). -/
def linkIndex (d e : Nat) : Nat := if e < d then e else e - 1

/-- The link that a request crosses is down: of Big Top (R63), or no Yelilo port, all of which sit on the hub, is up to the part
that a peer address names (R712). [DEDUCED: log entry 197] -/
def pathDown (s : State) (init : Nat) (a : Nat) : Bool :=
  match region a with
  | .peer p _ => !((List.range 4).any fun q => s.is (YL_STATUS_UP q) && s.get (YL_STATUS_PEER q) == p)
    || (match initDie init with
      | some d => s.is (BT_LINK_STAT_DOWN d 3)
      | none => false)
  | _ => match initDie init, addrDie a with
  | some d, some e => d != e && (s.is (BT_LINK_STAT_DOWN d (linkIndex d e)) || s.is (BT_LINK_STAT_DOWN e (linkIndex e d)))
  | some d, none => s.is (BT_LINK_STAT_DOWN d 3)
  | none, some e => s.is (BT_LINK_STAT_DOWN e 3)
  | none, none => false

/-- The page of a stack offset is retired (R90). -/
def isRetired (s : State) (a : Nat) : Bool := match region a with
  | .stack k off => ((mget s.wear.retired k).getD []).contains (off / 32768)
  | _ => false

/-- The fence granule of an address is fenced (R91). -/
def isFenced (s : State) (a : Nat) : Bool := match region a with
  | .scratch _ _ | .hubSram _ | .mapSram _ => s.wear.fenced.contains (a / 65536 * 65536)
  | _ => false

/-- Status codes of Table 7-3. -/
def stDONE : Nat := 0x00
def stEMPTY : Nat := 0x01
def stILLEGAL : Nat := 0x02
def stPLACE : Nat := 0x03
def stADDR_FAULT : Nat := 0x04
def stFW_DENY : Nat := 0x05
def stUNCORR : Nat := 0x06
def stRETIRED : Nat := 0x07
def stFENCED : Nat := 0x08
def stLINK_DOWN : Nat := 0x09
def stENG_FAIL : Nat := 0x0A
def stABORTED : Nat := 0x0B
def stGOLD_FAIL : Nat := 0x0C
def stSHED : Nat := 0x0D
def stNO_PAGE : Nat := 0x10
def stPL_FULL : Nat := 0x11
def stSTALE : Nat := 0x12
def stTOO_LONG : Nat := 0x13
def stPIN_FULL : Nat := 0x14

/-- The result of checking one piece: 0, or a status with the failing address and deciding window. The order of the
checks is the model's (log entry 8). A write that covers a whole listed block does not fail on it (R86). [DEDUCED: log entry 8] -/
def checkPiece (s : State) (init tkt acc : Nat) (ecc : Ecc) (a n : Nat) : Nat × Nat × Nat :=
  let p := phys s a
  let w := eccWidth a
  let listed := match region a with | .stack k _ => lostBlocks s k | _ => []
  let bad := if acc = 1 then
      (listed ++ ecc.uncorr).find? (fun b => b < p + n && p < b + w && !(p ≤ b && b + w ≤ p + n))
    else firstBlock (listed ++ ecc.uncorr) p n w
  if !(usable s init a) then (stADDR_FAULT, a, 0)
  else match fwDecide s init tkt acc a with
    | some win => (stFW_DENY, a, win)
    | none =>
      if pathDown s init a then (stLINK_DOWN, a, 0)
      else if isRetired s a then (stRETIRED, a, 0)
      else if isFenced s a then (stFENCED, a, 0)
      else match bad with
        | some b => (stUNCORR, b, 0)
        | none => (0, a, 0)

/-- The result of checking the range of `n` bytes from `a`: the first piece that fails, or 0. [DEDUCED: log entry 8] -/
def checkRange (s : State) (init tkt acc : Nat) (ecc : Ecc) (a n : Nat) : Nat × Nat × Nat :=
  ((pieces a n).map (fun q => checkPiece s init tkt acc ecc q.1 q.2)).find? (fun r => r.1 != 0) |>.getD (0, a, 0)

/-- The result of checking one request of `n` bytes at `a`, as a whole: an address that is not usable makes it ADDR_FAULT, else
its lowest denied granule a violation at the request's own address, else its first failing piece decides (R43, R349, R354). [DEDUCED: log entry 8] -/
def checkRequest (s : State) (init tkt acc : Nat) (ecc : Ecc) (a n : Nat) : Nat × Nat × Nat :=
  if (pieces a n).any (fun q => !(usable s init q.1)) then (stADDR_FAULT, a, 0)
  else match (pieces a n).findSome? (fun q => fwDecide s init tkt acc q.1) with
    | some win => (stFW_DENY, a, win)
    | none => checkRange s init tkt acc ecc a n

/-! ### The map SRAM of Midway (R430 to R433) -/

/-- Base of the map SRAM, and of map buffer `b` in it (Table 11-1). -/
def mapBase : Nat := 0xE404000000
def mapBuf (b : Nat) : Nat := mapBase + 0x1400000 * b
/-- Where the distance codes of buffer `b` begin. -/
def mapDist (b : Nat) : Nat := mapBuf b + 0x400000

/-- The two bits of a cell in buffer `b`, static then dynamic (R431). -/
def cellBits (s : State) (b cell : Nat) : Nat := (s.mem.byte (mapBuf b + cell / 4)).toNat / 4 ^ (cell % 4) % 4

/-- The smaller of two bounds, of which one may be missing. -/
def optMin : Option Nat → Nat → Option Nat
  | none, n => some n
  | some m, n => some (min m n)

/-- A cell of the map is occupied, in a buffer with these dimensions (SDF_R, NX, NY, NZ). -/
def cellOcc (s : State) (b : Nat) (ds : List Nat) (x y z : Nat) : Bool :=
  ds.getD 1 1 ≤ x || ds.getD 2 1 ≤ y || ds.getD 3 1 ≤ z || cellBits s b (z * 2 ^ 18 + y * 2 ^ 9 + x) != 0

/-- The numbers from `v - r` to `v + r` below `n`. -/
def around (v r n : Nat) : List Nat := (List.range (min n (v + r + 1) - (v - r))).map fun i => v - r + i

/-- n of R432 for a cell: the smallest squared distance to a cell of the other state within its box, if there is one. -/
def nearestOther (s : State) (b : Nat) (ds : List Nat) (x y z : Nat) : Option Nat :=
  let r := ds.getD 0 1
  let o := cellOcc s b ds x y z
  let sq (a c : Nat) : Nat := (max a c - min a c) ^ 2
  (around z r 64).foldl (fun m k => (around y r 512).foldl (fun m j => (around x r 512).foldl (fun m i =>
    if cellOcc s b ds i j k == o then m else optMin m (sq i x + sq j y + sq k z)) m) m) none

/-- The integer square root rounded down, by halving an interval `fuel` times. -/
def halve (fuel n lo hi : Nat) : Nat := match fuel with
  | 0 => lo
  | k + 1 => let mid := (lo + hi) / 2
    if hi ≤ lo + 1 then lo else if mid * mid ≤ n then halve k n mid hi else halve k n lo mid

/-- The distance code of a cell as a byte (R432). -/
def distCode (s : State) (b : Nat) (ds : List Nat) (cell : Nat) : Byte :=
  let x := cell % 512
  let y := cell / 512 % 512
  let z := cell / 2 ^ 18
  let top := 4 * ds.getD 0 1
  let free := !(cellOcc s b ds x y z)
  match nearestOther s b ds x y z with
  | none => BitVec.ofInt 8 (if free then top else -(top : Int))
  | some n =>
    let q := halve 10 (16 * n) 0 1024
    BitVec.ofInt 8 (if free then (min top q : Nat) else -((min top (if q * q = 16 * n then q else q + 1) : Nat) : Int))

/-- The byte at storage location `p`. A distance code of a map buffer that has been cleared is what R432 gives for the
occupancy (R433). -/
def State.stored (s : State) (p : Nat) : Byte :=
  let b := if mapDist 0 ≤ p ∧ p < mapBuf 1 then 0 else if mapDist 1 ≤ p ∧ p < mapBuf 2 then 1 else 2
  if b < 2 ∧ (lostAt s.mem.lost p).isNone ∧ fillAt s.mem.fills p ≠ 0#8 then
    distCode s b (if b = 0 then s.mw.dims0 else s.mw.dims1) (p - mapDist b)
  else s.mem.byte p

/-- The bytes of a range, each at its storage location; a byte of a peer is free (log entry 7). [DESIGN CHOICE: log entry 7] -/
def readRange (s : State) (a : Nat) (n : Nat) : List Byte :=
  (pieces a n).flatMap fun q => match region q.1 with
    | .peer _ _ => tab q.2 (fun i => Config.freeByte s.fresh (q.1 + i))
    | .mapSram _ => tab q.2 (fun i => s.stored (phys s q.1 + i))
    | _ => s.mem.bytes (phys s q.1) q.2

/-- The regions of the map SRAM that software writes (Table 11-1): first offset and size. -/
def mapSoftware : List (Nat × Nat) :=
  [(0x2800000, 0x200000), (0x2A00000, 0x200000), (0x2C40000, 0x20000), (0x2C60000, 0x10000), (0x2C70000, 0x100), (0x2C71000, 0x4000)]

/-- `n` bytes from offset `o` of the map SRAM may be written by an initiator other than Midway (R430). -/
def mapWritable (s : State) (o n : Nat) : Bool :=
  !(s.is MW_CTRL_EN) && mapSoftware.any fun r => r.1 ≤ o && o + n ≤ r.1 + r.2

/-- The content of the whole map SRAM becomes unpredictable (R430). [DESIGN CHOICE: log entry 82] -/
def spoilMap : Act := lose mapBase 0x3000000

/-- Port `p` of Yelilo beside its registers. -/
def State.port (s : State) (p : Nat) : YlSt := (mget s.yl p).getD ⟨false, 0, 0, []⟩

def updPort (p : Nat) (f : YlSt → YlSt) : Act := fun s => [.setYl (mset s.yl p (f (s.port p)))]

/-- The Yelilo port that is up to part `p`. [DEDUCED: log entry 197] -/
def portTo (s : State) (p : Nat) : Option Nat := (List.range 4).find? fun q => s.is (YL_STATUS_UP q) && s.get (YL_STATUS_PEER q) == p

/-- A write is sent to part `p`; the port keeps it in its retry buffer (R712). [DEDUCED: log entries 197, 199] -/
def sendPeer (p : Nat) (bs : List Byte) : Act := withS fun s => match portTo s p with
  | some q => seq [updBus (fun b => { b with sent := b.sent ++ [⟨1, p, bs⟩] }), updPort q fun y => { y with retry := y.retry ++ [bs] }]
  | none => skip

/-- Store bytes at the storage locations of a range; to a peer they are sent. -/
def storePieces (ps : List (Nat × Nat)) (bs : List Byte) : Act := match ps with
  | [] => skip
  | q :: r => seq [
      (fun s => match region q.1 with
        | .peer p _ => sendPeer p (leBytes 6 q.1 ++ bs.take q.2) s
        | .mapSram o => if mapWritable s o q.2 then [.write (phys s q.1) (bs.take q.2)] else spoilMap s
        | _ => [.write (phys s q.1) (bs.take q.2)]),
      storePieces r (bs.drop q.2)]

/-- Blocks of stack `k` wholly covered by a write leave the lost-block list (R86). -/
def unlist (k p n : Nat) : Act := withS fun s =>
  let l := lostBlocks s k
  if l.any (fun b => p ≤ b && b + 64 ≤ p + n) then
    seq [updWear (fun w => { w with lost := mset w.lost k (l.filter (fun b => !(p ≤ b && b + 64 ≤ p + n))) }),
      setF (BT_HBM_HEALTH_LOST_USED k) (l.filter (fun b => !(p ≤ b && b + 64 ≤ p + n))).length]
  else skip

/-- The storage of the contexts of KV_CTX_BASE[n], in stack window Sn (R221). -/
def ctxStore (s : State) (n : Nat) : Nat := s.get (KV_CTX_BASE_BASE n) * 4096

/-- The contexts whose storage meets `n` bytes from stack location `p`. -/
def ctxsAt (s : State) (p n : Nat) : List Nat := (List.range 4).flatMap fun k =>
  let b := ctxStore s k
  if b / 0x900000000 = k ∧ p < b + 0x800000 ∧ b < p + n then
    let lo := (p - b) / 128
    (List.range (min 65536 (ceilDiv (p + n - b) 128) - lo)).map fun i => 65536 * k + lo + i
  else []

/-- The content of contexts written by a path other than CTX is unpredictable from now on (R224). -/
def spoilCtxs (cs : List Nat) : Act := fun s =>
  if cs.isEmpty then [] else
  [.setHot { s.hot with spoiled := cs.foldl (fun m c => mset m c s.fresh) s.hot.spoiled }, .bump]

/-- A 32-bit free value as a signed number. -/
def freeQ (n : Nat) : Int := toSigned 32 (Config.freeWord n).toNat

/-- A set in use with the values taken for one axis free, from value number `n` on. -/
def spoilAxis (m : SMap AxisSt) (n a : Nat) : SMap AxisSt := match mget m a with
  | some x => mset m a { x with posRef := some (freeQ n), velRef := freeQ (n + 1), tauFf := freeQ (n + 2) }
  | none => m

/-- A write of `n` bytes at `a` of hub shared SRAM: one to the staging set within the 1,100 cycles of a take makes the values taken
unpredictable (R504). -/
def spoilTake (a n : Nat) : Act := fun s => match s.tt.taking with
  | some t => if t.at_ ≤ s.grid.now ∧ s.grid.now < t.at_ + 1100 ∧ a < t.base + 2112 ∧ t.base < a + n then
      Eff.setTt { s.tt with axes := t.axes.zipIdx.foldl (fun m q => spoilAxis m (s.fresh + 3 * q.2) q.1) s.tt.axes }
        :: List.replicate (3 * t.axes.length) .bump
    else []
  | none => []

/-- A write of a checked range: the bytes, the listed blocks it covers (R86), contexts it spoils (R224), a take that it meets (R504). -/
def writeRange (a : Nat) (bs : List Byte) : Act := seq [
  storePieces (pieces a bs.length) bs,
  forA (pieces a bs.length) (fun q s => match region q.1 with
    | .stack k _ => seq [unlist k (phys s q.1) q.2, spoilCtxs (ctxsAt s (phys s q.1) q.2)] s
    | .hubSram _ => spoilTake q.1 q.2 s
    | _ => [])]

/-- The content of a range becomes unpredictable, at its storage locations (R77), and with it that of the contexts there
(R224). -/
def loseRange (a : Nat) (n : Nat) : Act := forA (pieces a n) fun q s => match region q.1 with
  | .peer _ _ => []
  | .stack _ _ => seq [lose (phys s q.1) q.2, spoilCtxs (ctxsAt s (phys s q.1) q.2)] s
  | .hubSram _ => seq [lose (phys s q.1) q.2, spoilTake q.1 q.2] s
  | _ => lose (phys s q.1) q.2 s

/-- Something is sent or driven. [DESIGN CHOICE: log entry 6] -/
def send (kind port : Nat) (bs : List Byte) : Act := updBus fun b => { b with sent := b.sent ++ [⟨kind, port, bs⟩] }

/-- The response to initiator `init`, with TAG 0. [DESIGN CHOICE: log entry 6] [DEDUCED: log entry 195] -/
def respond (init status : Nat) (bs : List Byte) : Act := updBus fun b => { b with resp := some ⟨init, 0, status, bs⟩ }

end Sys2Proof.Machine
end

