-- ==== Sys2Proof/Machine/Descriptor.lean ====
section
/-! DEFINITION. The words and common fields of a 64-byte descriptor (R4, R70, Table 2-5). -/

namespace Sys2Proof.Machine

/-- Word `i` of a descriptor (R4). -/
def dWord (d : List Byte) (i : Nat) : Nat := le d (8 * i) 8

/-- Bits `[hi:lo]` of word `i`. -/
def dField (d : List Byte) (i hi lo : Nat) : Nat := field (dWord d i) hi lo

def dOpcode (d : List Byte) : Nat := dField d 0 7 0
/-- ORDER; the descriptors of golden steps ignore it (Table 4-4, R229). -/
def dOrder (d : List Byte) : Bool := bit (dWord d 0) 11 && dOpcode d != 0x44 && dOpcode d != 0x64
def dWaitCtr (d : List Byte) : Nat := dField d 0 39 32
def dPostCtr (d : List Byte) : Nat := dField d 0 47 40
def dWaitEn (d : List Byte) : Bool := bit (dWord d 0) 48
def dPostEn (d : List Byte) : Bool := bit (dWord d 0) 49
def dCtrDie (d : List Byte) : Nat := dField d 0 51 50
def dOpx (d : List Byte) : Nat := dField d 0 31 27
def dTag (d : List Byte) : Nat := dField d 7 31 0

/-- The bits of word `i` outside the fields listed as (hi, lo) are 0. -/
def resvOk (d : List Byte) (i : Nat) (fs : List (Nat × Nat)) : Bool :=
  (List.range 64).all fun b => fs.any (fun f => f.2 ≤ b && b ≤ f.1) || !(bit (dWord d i) b)

end Sys2Proof.Machine
end

