-- ==== Sys2Proof/Machine/CopyDesc.lean ====
section
/-! DEFINITION. Copy descriptors: fields, checks, rows and destination ranges (R70 to R76, R94, R119 to R122, R716). -/

namespace Sys2Proof.Machine

/-! ### Fields (Table 2-5) -/

def cpConvert (d : List Byte) : Bool := bit (dWord d 0) 9
def cpBcast (d : List Byte) : Bool := bit (dWord d 0) 8
def cpMask (d : List Byte) : Nat := dField d 0 29 26
def cpDstFmt (d : List Byte) : Nat := dField d 0 25 21
def cpSrcFmt (d : List Byte) : Nat := dField d 0 20 16
def cpSR (d : List Byte) : Bool := bit (dWord d 0) 10
def cpSrc (d : List Byte) : Nat := dField d 1 47 0
def cpDst (d : List Byte) : Nat := dField d 2 47 0
def cpRows (d : List Byte) : Nat := dField d 3 47 32
def cpLength (d : List Byte) : Nat := dField d 3 31 0
def cpDstStride (d : List Byte) : Nat := dField d 4 63 32
def cpSrcStride (d : List Byte) : Nat := dField d 4 31 0
def cpList (d : List Byte) : Nat := dField d 5 47 0
def cpSeed (d : List Byte) : Nat := dField d 6 63 32
def cpCount (d : List Byte) : Nat := dField d 6 31 0

/-- GATHER or SCATTER. -/
def cpListed (d : List Byte) : Bool := dOpcode d == 0x22 || dOpcode d == 0x23

/-- A conversion pair of Table 3-6 (R119). -/
def pairOk (a b : Nat) : Bool :=
  a == b || (isFloat a && (isFloat b || isMX b || isInt b)) || (isMX a && (isFloat b || isMX b))
    || (isInt a && (isFloat b || isInt b)) || (isBell a && b ≤ 2)

/-- A broadcast destination: a stack window or a compute die's SRAM, by the map (R73). [DEDUCED: log entry 13] -/
def bcastOk (a : Nat) : Bool :=
  a < 0x2400000000 || match region a with
    | .sram _ _ _ | .scratch _ _ => true
    | _ => false

/-- The rules of R716 that give ILLEGAL: R71, R73, R75, R94, R119, R120. They bind a FILL with CONVERT as any other copy. [DEDUCED: log entry 38] -/
def copyIllegal (d : List Byte) : Bool :=
  let m := max (fmtMultiple (cpSrcFmt d)) (fmtMultiple (cpDstFmt d))
  !(0x20 ≤ dOpcode d && dOpcode d ≤ 0x24)
    || (cpListed d && cpList d % 8 != 0)
    || (cpBcast d && !(bcastOk (cpDst d)))
    || (cpConvert d && (!(isFmt (cpSrcFmt d)) || !(isFmt (cpDstFmt d)) || !(pairOk (cpSrcFmt d) (cpDstFmt d))
      || cpLength d % m != 0))

/-- The cases of R74. -/
def copyEmpty (d : List Byte) : Bool :=
  cpLength d == 0 || (dOpcode d == 0x21 && cpRows d == 0) || (cpListed d && cpCount d == 0) || (cpBcast d && cpMask d == 0)

/-- The check of a copy descriptor before any WAIT (R716). -/
def checkCopy (d : List Byte) : Option Nat :=
  if copyIllegal d then some stILLEGAL else if copyEmpty d then some stEMPTY else none

/-- A reserved field is not 0, or a FILL converts: the destination content is unpredictable (R76). [DEDUCED: log entry 38] -/
def copyOdd (d : List Byte) : Bool :=
  dField d 0 63 52 != 0 || dField d 0 31 30 != 0 || dField d 0 15 12 != 0 || dField d 2 63 48 != 0 || dField d 3 63 48 != 0
    || dField d 7 63 32 != 0 || (dOpcode d != 0x24 && dField d 1 63 48 != 0) || (cpListed d && dField d 5 63 48 != 0)
    || (dOpcode d == 0x24 && cpConvert d)

/-! ### Ranges -/

/-- Source and destination bytes of one row or list entry (R121). -/
def cpSrcBytes (d : List Byte) : Nat :=
  if cpConvert d && dOpcode d != 0x24 then rowBytes (cpSrcFmt d) (cpLength d) else cpLength d
def cpDstBytes (d : List Byte) : Nat :=
  if cpConvert d && dOpcode d != 0x24 then rowBytes (cpDstFmt d) (cpLength d) else cpLength d

/-- Source and destination of each row or entry (Table 2-6), with the page list's addresses for GATHER and SCATTER. [DEDUCED: log entry 13] -/
def copyRows (d : List Byte) (list : List Nat) : List (Nat × Nat) :=
  if dOpcode d = 0x21 then tab (cpRows d) fun i => (cpSrc d + i * cpSrcStride d, cpDst d + i * cpDstStride d)
  else if dOpcode d = 0x22 then list.zipIdx.map fun q => (q.1, cpDst d + q.2 * cpDstBytes d)
  else if dOpcode d = 0x23 then list.zipIdx.map fun q => (cpSrc d + q.2 * cpSrcBytes d, q.1)
  else [(cpSrc d, cpDst d)]

/-- The die whose stack window, or whose SRAM, a broadcast destination lies in, with the kind of window. -/
def bcastWindow (a : Nat) : Bool × Nat :=
  if a < 0x2400000000 then (true, a / 0x900000000) else (false, (a - 0xE000000000) / 0x100000000)

/-- A row of a broadcast has left the window that DST_ADDR lies in: the same offset in another die's window names nothing (R43,
R73). [DEDUCED: log entry 13] -/
def bcastLeft (d : List Byte) (a : Nat) : Bool :=
  cpBcast d && (!(bcastOk a) || (dOpcode d != 0x23 && bcastWindow a != bcastWindow (cpDst d)))

/-- The same place on die `n` (R73). -/
def onDie (n : Nat) (a : Nat) : Nat :=
  if a < 0x2400000000 then n * 0x900000000 + a % 0x900000000
  else 0xE000000000 + n * 0x100000000 + (a - 0xE000000000) % 0x100000000

/-- The destinations of one row: itself, or one for each die of BCAST_MASK. -/
def cpTargets (d : List Byte) (a : Nat) : List Nat :=
  if bcastLeft d a then [] else if cpBcast d then ((List.range 4).filter (bit (cpMask d))).map fun n => onDie n a else [a]

/-- The destination ranges of a copy. -/
def copyDests (d : List Byte) (rows : List (Nat × Nat)) : List (Nat × Nat) :=
  rows.flatMap fun r => (cpTargets d r.2).map fun a => (a, cpDstBytes d)

/-- The destination ranges that the descriptor alone gives. -/
def copyOuts (d : List Byte) : List (Nat × Nat) :=
  if dOpcode d = 0x23 then []
  else if dOpcode d = 0x22 then copyDests d (tab (cpCount d) fun i => (0, cpDst d + i * cpDstBytes d))
  else copyDests d (copyRows d [])

/-- The addresses of a page list (R71). -/
def listAddrs (n : Nat) (bs : List Byte) : List Nat := tab n fun i => le bs (8 * i) 8 % 2 ^ 48

/-- An entry of a page list has a reserved bit set (R71, R76). -/
def listOdd (n : Nat) (bs : List Byte) : Bool := (List.range n).any fun i => le bs (8 * i) 8 / 2 ^ 48 != 0

/-- The destination ranges of a SCATTER, by its page list as it stands. -/
def scatterOuts (s : State) (d : List Byte) : List (Nat × Nat) :=
  if (pieces (cpList d) (8 * cpCount d)).all fun q => usable s 0x028 q.1 then
    copyDests d (copyRows d (listAddrs (cpCount d) (readRange s (cpList d) (8 * cpCount d))))
  else []

end Sys2Proof.Machine
end

