-- ==== Sys2Proof/Machine/Ports.lean ====
section
/-! DEFINITION. The ports of the turnstiles: their rate entries, the ports that a request's data crosses, and what it is charged
there (R331 to R336, R341, Table 8-4). -/

namespace Sys2Proof.Machine

/-- Page instance and local index of a port (Table 8-4). -/
def portPage (p : Nat) : Nat × Nat :=
  if p < 4 then (p, 0)
  else if p < 24 then
    let d := (p - 8) / 4
    let e := (p - 8) % 4
    (d, 1 + (if e < d then e else e - 1))
  else if p < 28 then (p - 24, 4)
  else if p < 32 then (4, p - 28)
  else (4, 4)

/-- RATE, BURST and BUDGET of a port's entry for ticket `t` as the registers hold them (Table 8-11). -/
def tsRate (s : State) (p t : Nat) : Nat := s.get (FW_TS_RATE_RATE (portPage p).1 (64 * (portPage p).2 + t))
def tsBurst (s : State) (p t : Nat) : Nat := s.get (FW_TS_RATE_BURST (portPage p).1 (64 * (portPage p).2 + t))
def tsBudget (s : State) (p t : Nat) : Nat := s.get (FW_TS_BUDGET_BUDGET (portPage p).1 (64 * (portPage p).2 + t))

/-- An entry with nothing waiting and an empty bucket. -/
def TsEntry.none : TsEntry := ⟨0, 0, 0, 0, false, []⟩

/-- The entry of port `p` and ticket `t`. -/
def tsEntry (s : State) (p t : Nat) : TsEntry := (mget s.ts.entries (64 * p + t)).getD TsEntry.none

/-- RATE and BURST in force at port `p` for ticket `t`: those of the registers, or those before a software write of this grid
cycle (R341). -/
def rateNow (s : State) (p t : Nat) : Nat × Nat := (mget s.ts.before (64 * p + t)).getD (tsRate s p t, tsBurst s p t)

/-- The effective budget of a ticket at a port; 0 is unlimited (R336). -/
def effBudget (s : State) (p t : Nat) : Nat :=
  if tsBudget s p t = 0 then 0 else max (tsBudget s p t) (1000 * (rateNow s p t).1 + (rateNow s p t).2)

/-- The port of the link that data takes from one die to another; `none` stands for the hub (Table 8-4). -/
def linkPort : Option Nat → Option Nat → List Nat
  | some d, some e => if d = e then [] else [8 + 4 * d + e]
  | some d, none => [24 + d]
  | none, some e => [28 + e]
  | none, none => []

/-- The ports that the data of a request by `init` to address `a` crosses (R332). A request to a peer crosses the link to the hub,
where the Yelilo ports sit; Midway reaches the map SRAM by a port of its own (R430). [DESIGN CHOICE: log entry 232] -/
def portsOf (init : Nat) (write : Bool) (a : Nat) : List Nat :=
  let here := initDie init
  let there := addrDie a
  (if write then linkPort here there else linkPort there here) ++ match region a with
    | .stack k _ => [k]
    | .mapSram _ => if init = 0x06A then [] else [32]
    | .hubSram _ | .logRing _ => [32]
    | _ => []

/-- `n` bytes of ticket `t` pass port `p` at once: as much as the budget leaves room for is admitted, out of the bucket as far as
that reaches and of the spare bandwidth beyond, up to the class B cap of the window; what the budget or the cap holds back marks the window
(R332 to R336, R606, R610). [DESIGN CHOICE: log entry 232] -/
def chargePort (t n p : Nat) : Act := fun s =>
  let e := tsEntry s p t
  let b := effBudget s p t
  let fits := if b = 0 then n else min n (b - e.used)
  let paid := if (rateNow s p t).1 = 0 then 0 else min fits (e.level / 11)
  let spare := match mget s.pw.caps p with
    | some cap => min (fits - paid) (cap - (mget s.ts.classB p).getD 0)
    | none => fits - paid
  let adm := paid + spare
  [.setTs { s.ts with
    entries := mset s.ts.entries (64 * p + t) { e with level := e.level - 11 * paid, used := e.used + adm, demand := e.demand + adm, admitted := e.admitted + adm, held := e.held || fits < n }
    classB := if 0 < spare then mset s.ts.classB p ((mget s.ts.classB p).getD 0 + spare) else s.ts.classB
    lastB := if 0 < spare then mset s.ts.lastB p t else s.ts.lastB
    capped := if adm < fits then p :: s.ts.capped.filter (fun x => x != p) else s.ts.capped }]

/-- A request, or the requests of a range, of `n` bytes at `a` under ticket `t` are charged at every port that their data crosses
(R332). [DESIGN CHOICE: log entry 232] -/
def charge (init t : Nat) (write : Bool) (a n : Nat) : Act :=
  forA (pieces a n) fun q => forA (portsOf init write q.1) (chargePort t q.2)

end Sys2Proof.Machine
end

