-- ==== Sys2Proof/Machine/Jobs.lean ====
section
/-! DEFINITION. Queues, units and jobs as every family of units uses them: descriptor fields, credits, the end of a job,
the failure of an engine, KV unit or fixed-function unit, and what it does to the frame plan's slots (R78, R79, R158,
R171, R172, R264, R314, R315, R719). -/

namespace Sys2Proof.Machine

/-- Queue `q` as Ringmaster holds it. -/
def State.queue (s : State) (q : Nat) : Queue := (mget s.rm.queues q).getD Queue.reset

/-- A unit that holds nothing. -/
def UnitSt.idle : UnitSt := ⟨none, none, [], false, false⟩

/-- Unit `u` of Table 7-6. -/
def State.unit (s : State) (u : Nat) : UnitSt := (mget s.rm.units u).getD UnitSt.idle

/-- Change queue `q`. -/
def updQueue (q : Nat) (f : Queue → Queue) : Act := fun s =>
  [.setRm { s.rm with queues := mset s.rm.queues q (f (s.queue q)) }]

/-- Change unit `u`. -/
def updUnit (u : Nat) (f : UnitSt → UnitSt) : Act := fun s =>
  [.setRm { s.rm with units := mset s.rm.units u (f (s.unit u)) }]

/-! ### Credit counters -/

/-- Page number of CE_[d]. -/
def pageCE (d : Nat) : Nat := 17 + 16 * d

/-- One credit is posted to counter `c` of die `d` (R79). -/
def postCredit (d c : Nat) : Act := withS fun s =>
  if s.get (CE_CTR_VALUE d c) = 0xFFFF then
    seq [setF (CE_STATUS_CTR_OVF d) 1, reportNow 10 d 0x210 (pageCE d) 0xFF 0xFFF 0 false none c]
  else setF (CE_CTR_VALUE d c) (s.get (CE_CTR_VALUE d c) + 1)

/-- One credit is taken from counter `c` of die `d` (R78). -/
def takeCredit (d c : Nat) : Act := withS fun s => setF (CE_CTR_VALUE d c) (s.get (CE_CTR_VALUE d c) - 1)

/-! ### Outputs of the fixed-function units -/

/-- Bytes of a FEED row: D_OFF, M_OFF and RB (R586). -/
def feedOffsets (d : List Byte) : Nat × Nat × Nat :=
  let e := dField d 5 16 0
  let at1 := 64 * ceilDiv (64 + 16 * dField d 5 31 24) 64
  let at2 := at1 + 64 * ceilDiv (e * 2 ^ dField d 5 21 20) 64
  (at1, at2, at2 + 64 * ceilDiv (2 * e) 64)

/-- The ranges that a CMD of Trapeze writes, by its map entries as they stand, and its seal (R493, R494). -/
def cmdOuts (s : State) (d : List Byte) : List (Nat × Nat) :=
  let m := readRange s (dField d 2 47 0) (8 * dField d 5 8 0)
  tab (dField d 5 8 0) (fun i => (dField d 3 47 0 + le m (8 * i + 4) 4, 4))
    ++ (if dField d 4 47 0 = 0 then [] else [(dField d 4 47 0, 8)])

/-- The cycle of group `g` that a FUSE job processes: the one held, or in a planned slot the one of the current frame, which may be still to
close (R420). -/
def fuseCycle (s : State) (planned : Bool) (g : Nat) : Nat := match (mget s.fu.groups g).bind FgSt.held with
  | some h => if !planned || h.info.at_ == s.grid.boundaryAt then h.cycle else s.get (FU_GROUP_STAT_CYCLE g)
  | none => s.get (FU_GROUP_STAT_CYCLE g)

/-- The output ranges of a job that has written nothing yet and whose descriptor alone does not give them: the entries of a
SCATTER (R77, R82), the buffers of Midway's jobs (R430, R458), the group's result buffer (R423), the rows and skip log of a FEED
(R584), the commands of CMD. A SOLVE that fails writes nothing (R485). -/
def fixedOuts (s : State) (u : Nat) (planned : Bool) (d : List Byte) : List (Nat × Nat) :=
  let op := dOpcode d
  if 40 ≤ u ∧ u < 104 then (if op = 0x23 then scatterOuts s d else [])
  else if u = 104 then (if op = 0xA1 then cmdOuts s d else [])
  else if u = 106 then
    (if op = 0x94 then [(dField d 2 47 0, 64 + 32 * 513)]
     else if op = 0x93 then [(mapBase + 0x2D00000, 0x300000), (mapBase + 0x2CA0000 + 0x28000 * (1 - s.get MW_STATUS_CUR_SET), 0x28000)]
     else if op = 0x92 then []
     else [(mapBuf (1 - s.get MW_STATUS_FRONT), 0x1400000), (mapBase + 0x2C00000, 0x40000), (mapBase + 0x2C80000, 0x20000)])
  else if u = 107 then
    let g := dOpx d % 16
    let n := fuseCycle s planned g
    let len := s.get (FU_GROUP_RES_RES_STRIDE g) * 4096
    [(s.get (FU_GROUP_RES_RES_BASE g) + n % 2 * len, if s.is (FU_GROUP_CFG_KIND g) then len else 1088)]
  else if u = 108 then [(dField d 2 47 0, dField d 3 47 32 * (feedOffsets d).2.2), (dField d 6 47 0, 8 * dField d 6 63 48)]
  else []

/-! ### The end of a job -/

/-- Unit `u` writes an address of the map SRAM as Midway does, through its own port. -/
def ownMap (u : Nat) (a : Nat) : Bool := u == 106 && mapBase ≤ a && a < mapBase + 0x3000000

/-- The job's output ranges become unpredictable where its unit may write (R77, R82, R157, R172, R271, R315); an output
of another unit than Midway in the map SRAM may take all of it along (R430). -/
def loseOuts (u : Nat) (j : Job) : Act := withS fun s => forA (j.outs ++ fixedOuts s u j.slot.isSome j.desc) fun r =>
  forA ((pieces r.1 r.2).filter fun q => ownMap u q.1 || (checkPiece s u j.ticket 1 ⟨[], []⟩ q.1 q.2).1 == 0) fun q => match region q.1 with
    | .mapSram o => if u == 106 || mapWritable s o q.2 then loseRange q.1 q.2 else spoilMap
    | _ => loseRange q.1 q.2

/-- The running job of unit `u` has ended with `st`; JOB_COMPLETE writes its record. -/
def endRunning (u st : Nat) : Act := updUnit u fun t =>
  { t with running := t.running.map fun j => if j.status.isSome then j else { j with status := some st, stopWith := none } }

/-- The running job ended with `st`, stopped at batch entry `e`. -/
def endRunningAt (u st e : Nat) : Act := updUnit u fun t =>
  { t with running := t.running.map fun j => if j.status.isSome then j else { j with status := some st, stopWith := none, entry := e } }

/-- The running job of `u`, if its work has not ended, is stopped with `st` and its output is unpredictable. -/
def stopRunning (u st : Nat) : Act := withS fun s => match (s.unit u).running with
  | some j => if j.status.isSome then skip else seq [loseOuts u j, endRunning u st]
  | none => skip

/-- The suspended job of `u` completes with `st`, its output unpredictable. -/
def stopSuspended (u st : Nat) : Act := withS fun s => match (s.unit u).suspended with
  | some j => if j.status.isSome then skip else
      seq [loseOuts u j, updUnit u fun t => { t with suspended := t.suspended.map (fun j => { j with status := some st }) }]
  | none => skip

/-- The unit has a job that still works, with opcode `op`, and is not to stop at its next tile boundary (R157). [DESIGN CHOICE: log entry 23] -/
def workingJob (s : State) (u op : Nat) : Option Job := match (s.unit u).running with
  | some j => if j.status.isNone && j.stopWith.isNone && dOpcode j.desc == op then some j else none
  | none => none

/-! ### Slots of the frame plan -/

/-- The slots of the plan in force. -/
def State.planSlots (s : State) : List Slot := match s.plan.inForce with
  | some p => p.slots
  | none => []

/-- The slot is in force in the current control frame (R291). -/
def slotOn (s : State) (t : Slot) : Bool := s.planOn && bit t.frames s.frameIdx

/-- The slot with SLOT_ID `id` in the plan in force. -/
def State.slot (s : State) (id : Nat) : Option Slot := s.planSlots.find? (fun t => t.id == id)

/-- A slot of which nothing has happened yet in this frame. -/
def SlotRun.none : SlotRun := ⟨0, false, 0, false, false, false, false, false, false, []⟩

/-- What happened of slot `id` in this frame. -/
def State.slotRun (s : State) (id : Nat) : SlotRun := (mget s.plan.slots id).getD SlotRun.none

def updSlot (id : Nat) (f : SlotRun → SlotRun) : Act := fun s =>
  [.setPlan { s.plan with slots := mset s.plan.slots id (f (s.slotRun id)) }]

/-- Grid cycles since the control frame boundary. -/
def State.inFrame (s : State) : Nat := s.grid.now - s.grid.boundaryAt

/-- The unit that runs the slot in this frame: its backup when the backup is active (R314, R317). -/
def slotUnit (s : State) (t : Slot) : Nat := if (s.slotRun t.id).backup then t.bUnit else t.unit

/-- The queue that the slot dispatches in this frame. -/
def slotQueue (s : State) (t : Slot) : Nat := if (s.slotRun t.id).backup then t.bQueue else t.queue

/-- Start and deadline of the slot in this frame (R297). -/
def slotStartAt (s : State) (t : Slot) : Nat := if (s.slotRun t.id).backup then t.bStart else t.start
def slotEndAt (s : State) (t : Slot) : Nat := slotStartAt s t + t.len

/-- The position or KV unit `u` is failed or retired: no engine serves it. [DEDUCED: log entry 52] -/
def unitDead (s : State) (u : Nat) : Bool :=
  if u < 36 then (serving s u).isNone
  else if u < 40 then s.eng.failedKv.contains (u - 36)
  else (s.unit u).failed

/-- Position `u` has an engine once its die is out of reset (R177). -/
def servedWhenOn (s : State) (u : Nat) : Bool :=
  let lost := (List.range 8).filter fun k => s.eng.failedEng.contains (9 * (u / 9) + k)
  !(lost.contains (u % 9)) || (!(s.eng.failedEng.contains (9 * (u / 9) + 8)) && lost.head? == some (u % 9))

/-- Unit `u` is a retired position or a failed KV unit (R174, R264). A position that failed in this frame is retired, or
taken over, only at the next boundary; on a parked die (R624) no position is retired that will have an engine again. [DEDUCED: log entry 52] -/
def retired (s : State) (u : Nat) : Bool :=
  if u < 36 then (if s.pw.parked.contains (u / 9) then !(servedWhenOn s u) else unitDead s u) && !(s.plan.newlyFailed.contains u)
  else u < 40 && unitDead s u

/-- The compute die of a unit, 4 for the hub. -/
def unitDie (u : Nat) : Nat := if u < 36 then u / 9 else if u < 40 then u - 36 else if u < 104 then (u - 40) / 16 else 4

/-- The SAFE slots of die `d` do not run now, nor in a frame that begins (R624): it is off, or its park is under way. -/
def diePark (s : State) (d : Nat) : Bool := dieOff s d || (match s.pw.transition with
  | some t => 1 ≤ t.1
  | none => s.is PW_STATUS_STATE)

/-- The SAFE slots of unit `u` are not run and not checked: R624 exempts its die, or the position is retired or the KV
unit failed (R297). [DEDUCED: log entry 210] -/
def safeExempt (s : State) (u : Nat) : Bool :=
  retired s u || diePark s (unitDie u) || s.plan.exempt.contains (unitDie u)

/-- A CONTINGENT slot runs only while the slot it links to runs on its backup (Table 7-5). -/
def slotRuns (s : State) (t : Slot) : Bool :=
  slotOn s t && !(s.slotRun t.id).displaced
    && (!t.contingent || (s.slotRun t.link).backup)

/-- A job taken that has not started and does not complete at once. -/
def Job.waits (j : Job) : Bool := !j.started && (j.status == none || j.status == some stEMPTY)

/-- A PERC slot of this frame is displaced: it is not run, counts once in PERC_MISS, its running job is stopped with SHED
at the next tile boundary and descriptors taken but not started complete with SHED (R315). [DEDUCED: log entry 208] -/
def displace (t : Slot) : Act := withS fun s =>
  if (s.slotRun t.id).displaced then skip else
  seq [updSlot t.id (fun r => { r with displaced := true }),
    countF RM_MISS_CNT_PERC_MISS 1,
    updUnit (slotUnit s t) (fun u => { u with
      running := u.running.map (fun j => if j.slot = some t.id ∧ j.status = none then { j with stopWith := some stSHED } else j),
      held := u.held.map (fun j => if j.slot = some t.id ∧ j.waits then { j with status := some stSHED } else j) })]

/-- Activate slot `t`'s backup in this frame: PERC slots of the backup unit that overlap the window are displaced
(R314, R315). -/
def activateBackup (t : Slot) : Act := withS fun s =>
  seq [updSlot t.id (fun r => { r with backup := true, taken := 0, started := false, good := 0, bad := false }),
    setF (RM_UNIT_STAT_BACKUP_NOW t.unit) 1,
    forA (s.planSlots.filter (fun p => p.typ == 2 && slotOn s p && slotUnit s p == t.bUnit
      && slotStartAt s p < t.bStart + t.len && t.bStart < slotEndAt s p)) displace]

/-- The unit `u` (position or KV unit) has failed: each of its remaining CTRL slots of this frame runs on its backup when
there is time for it (R314). -/
def failSlots (u : Nat) : Act := withS fun s =>
  let now := s.inFrame
  forA (s.planSlots.filter (fun t => t.typ == 1 && t.unit == u && slotOn s t && !t.contingent
      && !(s.slotRun t.id).checked && !((s.slotRun t.id).good == t.count)
      && t.bUnit != 0xFF && !(unitDead s t.bUnit)
      && now + 3300 ≤ t.bStart
      && s.planSlots.all (fun c => !(c.contingent && c.link == t.id && slotOn s c) || now + 3300 ≤ c.start)))
    activateBackup

/-! ### Failures -/

/-- Page number of TE_[g] and KV_[d]. -/
def pageTE (g : Nat) : Nat := 22 + 16 * (g / 9) + g % 9
def pageKV (d : Nat) : Nat := 20 + 16 * d
/-- Page number of EL_[2 + d]. -/
def pageELd (d : Nat) : Nat := 21 + 16 * d

/-- Engine `g` fails (R171, R172): state failed, its position's running and suspended jobs end, it starts no job, a
requested comparator test is cancelled (R170), and its position's slots go to their backups (R314). -/
def failEngine (g runStatus : Nat) : Act := withS fun s =>
  if s.eng.failedEng.contains g then skip else
  let e := s.get (TE_STATUS_SERVES g)
  let pos := 9 * (g / 9) + e
  let active := s.get (TE_STATUS_STATE g) == 1
  seq [updEng (fun x => { x with failedEng := g :: x.failedEng, sigTest := x.sigTest.filter (fun y => y != g), passed := x.passed.filter (fun y => y != g) }),
    updIsl (fun i => { i with awaiting := i.awaiting.filter (fun y => y != 55 + g) }),
    setF (EL_CAR_RUNNING (55 + g)) 0,
    setF (TE_STATUS_STATE g) 3,
    updWear (fun w => { w with unrecorded := w.unrecorded ++ [.engine g (min 3 (s.get (TE_HEALTH_FAIL_COUNT g) + 1))] }),
    whenA (g % 9 == 8) (forA (List.range 9) fun k => setF (TE_CAP_SPARE_FREE (9 * (g / 9) + k)) 0),
    reportNow 6 (g / 9) 0x150 (pageELd (g / 9)) (if active then pos else g) 0xFFF 0 false none (g + (if active then e * 256 else 0xF * 256)),
    whenA active (seq [stopRunning pos runStatus, stopSuspended pos stENG_FAIL,
      updPlan (fun p => { p with newlyFailed := p.newlyFailed ++ [pos] }),
      failSlots pos])]

/-- What a unit that has failed for good was handed and has not started ends with ENG_FAIL (R264, R719). -/
def failHeld (u : Nat) : Act := updUnit u fun t =>
  { t with held := t.held.map fun j => if j.waits then { j with status := some stENG_FAIL } else j }

/-- KV unit `d` fails (R264): as an engine, with no spare. [DEDUCED: log entry 207] -/
def failKv (d runStatus : Nat) : Act := withS fun s =>
  if s.eng.failedKv.contains d then skip else
  seq [updEng (fun x => { x with failedKv := d :: x.failedKv, kvSigTest := x.kvSigTest.filter (fun y => y != d) }),
    updIsl (fun i => { i with awaiting := i.awaiting.filter (fun y => y != 98 + d) }),
    setF (EL_CAR_RUNNING (98 + d)) 0,
    setF (KV_STATUS_STATE d) 3,
    updWear (fun w => { w with unrecorded := w.unrecorded ++ [.kvFailed d] }),
    reportNow 6 d 0x150 (pageELd d) (36 + d) 0xFFF 0 false none (36 + d),
    stopRunning (36 + d) runStatus, stopSuspended (36 + d) stENG_FAIL, failHeld (36 + d),
    updPlan (fun p => { p with newlyFailed := p.newlyFailed ++ [36 + d] }),
    failSlots (36 + d)]

/-- Page number of a fixed-function unit 104 to 108. -/
def pageFixed (u : Nat) : Nat := if u = 104 then 5 else if u = 105 then 4 else if u = 106 then 6 else if u = 107 then 7 else 9

/-- Trapeze, Midway or the record pipeline is treated as failed (R158, R719). -/
def failFixed (u : Nat) : Act := withS fun s =>
  if (s.unit u).failed then skip else
  seq [stopRunning u stABORTED, stopSuspended u stENG_FAIL, failHeld u,
    updUnit u (fun t => { t with failed := true }),
    reportNow 6 4 0x150 (pageFixed u) u 0xFFF 0 false none u]

/-- The initiator ID and the ticket under which unit `u` does its job (R271). -/
def jobInit (u : Nat) : Nat := u

/-! ### Reads that meet errors -/

/-- The die or hub (4) whose error collector handles an address. -/
def originOf (a : Nat) : Nat := (addrDie a).getD 4

/-- Row of a stack block: its page and pseudo-channel (R45). -/
def rowOf (off : Nat) : Nat × Nat := (off / 32768, off / 256 % 32)

/-- The remap entries of one stack (R87). -/
def remapEntries : Nat := 4096

/-- Stack `k` retires page `pg` (R90). -/
def retirePage (k pg : Nat) : Act := withS fun s =>
  if ((mget s.wear.retired k).getD []).contains pg then skip else
  seq [updWear (fun w => { w with retired := mset w.retired k (((mget w.retired k).getD []) ++ [pg]), unrecorded := w.unrecorded ++ [.retired k pg] }),
    setF (BT_HBM_CAP_USABLE_PAGES k) (s.get (BT_HBM_CAP_USABLE_PAGES k) - 1),
    reportNow 0 k 0x103 (16 + 16 * k) 0xFF (0x0B0 + k) 63 false (some (k * 0x900000000 + pg * 32768)) pg,
    -- the page's entry in the KV page table of its die is marked retired (R218)
    (fun s =>
      let base := s.get (KV_POOL_BASE_BASE k) * 32768
      let a := k * 0x900000000 + pg * 32768
      let n := min (s.get (KV_POOL_PAGES_PAGES k)) 524288
      if base ≤ a && (a - base) / 32768 < n then
        let pte := phys s (s.get (KV_PT_BASE_BASE k) * 4096 + 8 * ((a - base) / 32768))
        let w := ofLe (s.mem.bytes pte 8)
        let gen := (field w 39 16 + 1) % 2 ^ 24
        [.write pte (leBytes 8 (setBit (w - field w 39 16 * 2 ^ 16 + gen * 2 ^ 16) 63))]
      else [])]

/-- A row of stack `k` starts to move, or its page is retired when no remap entry is free (R87, R90). [DESIGN CHOICE: log entry 216] -/
def moveRow (k off : Nat) : Act := withS fun s =>
  let row := rowOf off
  let ms := (mget s.wear.moves k).getD []
  if ms.any (fun m => m.page == row.1 && m.pc == row.2) then skip
  else if s.get (BT_HBM_HEALTH_REMAP_USED k) + ms.length < remapEntries then
    updWear fun w => { w with moves := mset w.moves k (ms ++ [⟨row.1, row.2, s.get (BT_HBM_HEALTH_REMAP_USED k) + ms.length⟩]) }
  else retirePage k row.1

/-- The granule of a fenced SRAM is fenced at once (R91). -/
def fenceGranule (a : Nat) : Act := withS fun s =>
  let g := a / 65536 * 65536
  if s.wear.fenced.contains g then skip else
  seq [updWear (fun w => { w with fenced := w.fenced ++ [g], unrecorded := w.unrecorded ++ [.fenced g] }),
    reportNow 0 (originOf a) 0x104 (if originOf a < 4 then 16 + 16 * originOf a else 1) 0xFF 0xFFF 0 false (some g) (g / 65536 % 2 ^ 21)]

/-- A row of an SRAM has failed at storage location `b`: the granule is fenced, or the engine whose local SRAM it is fails, the
spare in standby too (R91, R92). -/
def sramRowFailed (b : Nat) : Act := match region b with
  | .scratch _ _ | .hubSram _ | .mapSram _ => fenceGranule b
  | .sram d e _ => failEngine (9 * d + e) stENG_FAIL
  | _ => skip

/-- The address that names storage location `b`: an engine's local SRAM is named by the position that the engine serves (R51). -/
def nameOf (s : State) (b : Nat) : Nat := match region b with
  | .sram d e off => if s.get (TE_STATUS_STATE (9 * d + e)) == 1 then 0xE000000000 + d * 0x100000000 + s.get (TE_STATUS_SERVES (9 * d + e)) * 0x400000 + off else b
  | _ => b

/-- The number of the scrub period of SCRUB_HOURS hours at hand: periods follow one another from PORST_N on, and the hub's SRAM
takes the period of C0's controller (R59, R61). [DESIGN CHOICE: log entry 229] -/
def scrubPeriod (s : State) (b : Nat) : Nat :=
  s.grid.now / (3960000000000 * max 1 (s.get (BT_HBM_CTRL_SCRUB_HOURS ((addrDie b).getD 0))))

/-- The count of a row with one more corrected error in scrub period `p` (R87, R91). -/
def rowCount (m : SMap (Nat × Nat)) (key p : Nat) : Nat := match mget m key with
  | some c => if c.1 = p then c.2 + 1 else 1
  | none => 1

/-- An uncorrectable error in island SRAM latches ISLAND; a net record that it touches commands its axis no more (R554). -/
def netRecordLost (b : Nat) : Act := withS fun s =>
  let t := s.get EL_NET_TAB_ADDR
  seq [whenA (t ≤ b && b < t + 8192) (updIsl fun i => { i with netDead := (b - t) / 64 :: i.netDead }), latchOwn 12]

/-- DETAIL of an ECC record: the symbol or bit, and whether it is HBM or SRAM (Table 18-12). [DESIGN CHOICE: log entry 250] -/
def eccDetail (s : State) (b : Nat) : Nat :=
  (Config.eccSymbol b s.grid.now).toNat + match region b with
    | .stack _ _ => 0
    | _ => 2 ^ 56

/-- The block at storage location `b` is found uncorrectable by a read of initiator `init` under `tkt`, or by a scrub: it is listed, its row moves
or its granule is fenced, the event is logged and, for a consumer under tickets 0 to 7, raises doubt (R84 to R92). -/
def foundUncorr (init tkt : Nat) (consumer : Bool) (b : Nat) : Act := withS fun s =>
  let o := originOf b
  let doubt := consumer && tkt < 8
  let logIt := reportNow 1 o 0x101 (if o < 4 then pageELd o else 1) (if init < 109 then init else 0xFF) init tkt doubt
    (some (nameOf s b)) (eccDetail s b)
  seq [match region b with
    | .stack k off =>
      let blk := k * 0x900000000 + off / 64 * 64
      if (lostBlocks s k).contains blk then skip
      else if (lostBlocks s k).length < 256 then
        seq [updWear (fun w => { w with lost := mset w.lost k (lostBlocks s k ++ [blk]) }),
          setF (BT_HBM_HEALTH_LOST_USED k) ((lostBlocks s k).length + 1),
          countF (BT_ECC_CNT_UNCORR k) 1, moveRow k off]
      else seq [countF (BT_ECC_CNT_UNCORR k) 1, retirePage k (off / 32768)]
    | .islandSram _ => netRecordLost b
    | _ => seq [whenA (o < 4) (countF (BT_ECC_CNT_UNCORR o) 1), sramRowFailed b],
    logIt, whenA doubt (assertWire 5 o)]

/-- One corrected error at storage location `b`: counted and logged, and its row moves or is fenced at the threshold of the
scrub period (R87, R91). A row of SRAM is 1 KiB of addresses. [DESIGN CHOICE: log entry 230] -/
def foundCorr (init tkt : Nat) (b : Nat) : Act := withS fun s =>
  let o := originOf b
  seq [whenA (o < 4) (countF (BT_ECC_CNT_CORR o) 1),
    reportNow 0 o 0x100 (if o < 4 then pageELd o else 1) 0xFF init tkt false (some (nameOf s b))
      (eccDetail s b),
    match region b with
    | .stack k off =>
      let key := k * 2 ^ 40 + (rowOf off).1 * 32 + (rowOf off).2
      let n := rowCount s.wear.rowErrors key (scrubPeriod s b)
      let thr := max 1 (s.get (BT_HBM_CTRL_ROW_THR k))
      seq [updWear (fun w => { w with rowErrors := mset w.rowErrors key (scrubPeriod s b, n) }), whenA (thr ≤ n) (moveRow k off)]
    | .scratch _ _ | .hubSram _ | .mapSram _ | .sram _ _ _ =>
      let key := b / 1024
      let n := rowCount s.wear.sramErrors key (scrubPeriod s b)
      seq [updWear (fun w => { w with sramErrors := mset w.sramErrors key (scrubPeriod s b, n) }), whenA (2 ≤ n) (sramRowFailed b)]
    | _ => skip]

/-- What a failed access of a job or a request records: the violation, or the uncorrectable block, or the address
fault (R84, R354, R77). -/
def accessFailed (init tkt acc : Nat) (r : Nat × Nat × Nat) : Act :=
  if r.1 = stFW_DENY then violation init tkt acc r.2.1 r.2.2
  else if r.1 = stUNCORR then foundUncorr init tkt true r.2.1
  else withS fun s => reportNow (if r.1 = stLINK_DOWN then 7 else 15) (originOf r.2.1) r.1 1 (if init < 109 then init else 0xFF) init tkt
    false (some r.2.1) (match (s.unit init).running with | some j => dTag j.desc + j.entry * 2 ^ 32 | none => 0)

/-- The corrected errors in blocks that a range of `n` bytes from `a` meets are handled (R58, R60). [DESIGN CHOICE: log entry 47] -/
def noteCorr (init tkt : Nat) (ecc : Ecc) (a n : Nat) : Act := withS fun s =>
  forA (ecc.corr.filter fun b => (pieces a n).any fun q => b < phys s q.1 + q.2 && phys s q.1 < b + eccWidth b) (foundCorr init tkt)

/-- A unit's access to a range: checked, its errors handled and its data charged at the ports; then `ok` with nothing wrong, else
the job ends with the status (R43, R77, R84, R332, R354). -/
def access (u tkt acc : Nat) (ecc : Ecc) (a n : Nat) (ok : Act) (bad : Nat → Act) : Act := withS fun s =>
  let r := checkRange s (jobInit u) tkt acc ecc a n
  if r.1 = 0 then seq [noteCorr (jobInit u) tkt ecc a n, charge (jobInit u) tkt (acc == 1) a n, ok]
  else seq [accessFailed (jobInit u) tkt acc r, bad r.1]

/-- A list of ranges that a unit must be able to read (`acc` 0) or write (1), all checked before `ok`. -/
def accessAll (u tkt : Nat) (ecc : Ecc) : List (Nat × Nat × Nat) → Act → (Nat → Act) → Act
  | [], ok, _ => ok
  | (acc, a, n) :: rs, ok, bad => access u tkt acc ecc a n (accessAll u tkt ecc rs ok bad) bad

/-- The running job fails with `st`: its output is unpredictable (R77) and the job's end is logged with its status. -/
def failJob (u st : Nat) (j : Job) : Act := seq [loseOuts u j, endRunning u st]

end Sys2Proof.Machine
end

