-- ==== Sys2Proof/Machine/Context.lean ====
section
/-! DEFINITION. Sequence contexts and the hot-context cache (R221 to R227), and the scale-history record that a context
holds (R183 to R190, R206, R207). -/

namespace Sys2Proof.Machine

/-- Address of context `c` (R221), and its storage location. -/
def ctxName (s : State) (c : Nat) : Nat := (s.get (KV_CTX_BASE_BASE (c / 65536)) * 4096 + 128 * (c % 65536)) % 2 ^ 48
def ctxAddr (s : State) (c : Nat) : Nat := phys s (ctxName s c)

/-- The check of the cache's own access to context `c` under ticket `tkt` (R326, R346). -/
def ctxCheck (s : State) (tkt acc c : Nat) : Nat × Nat × Nat := checkRange s 0x0A1 tkt acc ⟨[], []⟩ (ctxName s c) 128

/-- The 128 bytes of context `c` as units see them (R224, R225). -/
def ctxBytes (s : State) (c : Nat) : List Byte :=
  match mget s.hot.spoiled c with
  | some g => tab 128 fun i => Config.freeByte g (128 * c + i)
  | none => match mget s.hot.entries c with
    | some e => e.data
    | none => s.mem.bytes (ctxAddr s c) 128

/-- The number of contexts pinned, by software or by the plan. -/
def pinnedCount (s : State) : Nat := (s.hot.entries.filter (fun e => e.2.pinSw || e.2.pinPlan)).length

/-- Entry `c` is written back to its storage under ticket `tkt` when it was modified (R225, R227). A write-back that is denied or
fails changes no byte (R354). [DEDUCED: log entry 196] -/
def writeBack (tkt c : Nat) : Act := withS fun s => match mget s.hot.entries c with
  | some e => if e.modified then seq [
      if (ctxCheck s tkt 1 c).1 = 0 then seq [charge 0x0A1 tkt true (ctxName s c) 128, store (ctxAddr s c) (ctxBytes s c)] else accessFailed 0x0A1 tkt 1 (ctxCheck s tkt 1 c),
      updHot fun h => { h with entries := mset h.entries c { e with modified := false } }] else skip
  | none => skip

/-- The least recently used entry that is not pinned. -/
def victim (s : State) : Option Nat := s.hot.order.find? fun c => match mget s.hot.entries c with
  | some e => !(e.pinSw || e.pinPlan)
  | none => false

/-- A unit uses context `c`: it is loaded when it is not held, with the least recently used unpinned entry written
back to make room, and becomes the most recently used (R225). [DEDUCED: log entry 196] -/
def useCtx (tkt c : Nat) : Act := withS fun s =>
  seq [
    if (mget s.hot.entries c).isSome then skip else seq [
      whenA (4096 ≤ s.hot.entries.length) (match victim s with
        | some v => seq [writeBack tkt v,
            updHot fun h => { h with entries := mdel h.entries v, order := h.order.filter (fun x => x != v) }]
        | none => skip),
      countF KV_HOT_STAT_MISSES 1, charge 0x0A1 tkt false (ctxName s c) 128,
      updHot fun h => { h with entries := mset h.entries c ⟨ctxBytes s c, false, false, false⟩ }],
    updHot fun h => { h with order := h.order.filter (fun x => x != c) ++ [c] }]

/-- Context `c`, held in the cache, takes new bytes. A whole write ends its unpredictable content (R224). [DEDUCED: log entry 196] -/
def putCtx (c : Nat) (bs : List Byte) : Act := updHot fun h =>
  match mget h.entries c with
  | some e => { h with entries := mset h.entries c { e with data := bs, modified := true }, spoiled := mdel h.spoiled c }
  | none => h

/-- Context `c` is used under ticket `tkt` by `ok`; a load that is denied or fails gives its status to `bad` (R326, R354). -/
def withCtx (tkt c : Nat) (ok : Act) (bad : Nat → Act) : Act := withS fun s =>
  if (mget s.hot.entries c).isSome || (ctxCheck s tkt 0 c).1 == 0 then seq [useCtx tkt c, ok]
  else seq [accessFailed 0x0A1 tkt 0 (ctxCheck s tkt 0 c), bad (ctxCheck s tkt 0 c).1]

/-- Every modified entry is written back under CTX_TKT (R227). -/
def writeBackAll : Act := withS fun s => forA (mkeys s.hot.entries) (writeBack (s.get FW_HK_TKT_CTX_TKT))

/-! ### Fields of a context (Table 6-3) -/

def cWord (d : List Byte) (i : Nat) : Nat := le d (8 * i) 8
def cLength (d : List Byte) : Nat := field (cWord d 0) 31 0
def cFmt (d : List Byte) : Nat := field (cWord d 0) 39 35
def cDimCode (d : List Byte) : Nat := field (cWord d 0) 41 40
def cDim (d : List Byte) : Nat := 64 * 2 ^ cDimCode d
def cInBatch (d : List Byte) : Bool := bit (cWord d 0) 43
def cGroup (d : List Byte) : Nat := field (cWord d 0) 47 44
def cPlHead (d : List Byte) : Nat := field (cWord d 1) 47 0
def cLh (d : List Byte) : Nat := if field (cWord d 1) 63 48 = 0 then 4096 else field (cWord d 1) 63 48
def cPosBase (d : List Byte) : Nat := field (cWord d 2) 31 0
def cPlCap (d : List Byte) : Nat := field (cWord d 2) 63 32
def cMask (d : List Byte) : Nat := field (cWord d 3) 47 0
def cIdx (d : List Byte) : Nat := field (cWord d 4) 47 0
def cKScale (d : List Byte) : Nat := field (cWord d 5) 31 0
def cVScale (d : List Byte) : Nat := field (cWord d 5) 63 32

/-- Tokens per page (R215). -/
def cTpp (d : List Byte) : Nat := 16384 / (cDim d * fmtBits (cFmt d) / 8)

/-- The bytes with word `i` replaced. -/
def cPut (d : List Byte) (i v : Nat) : List Byte := d.take (8 * i) ++ leBytes 8 v ++ d.drop (8 * i + 8)

/-- The context with another LENGTH. -/
def cSetLength (d : List Byte) (n : Nat) : List Byte := cPut d 0 (cWord d 0 / 2 ^ 32 * 2 ^ 32 + n % 2 ^ 32)

/-- The context with IN_BATCH and GROUP set to given values. -/
def cSetBatch (d : List Byte) (inB : Bool) (g : Nat) : List Byte :=
  let w := cWord d 0
  cPut d 0 (w - field w 47 43 * 2 ^ 43 + (ofBool inB + 2 * (g % 16)) * 2 ^ 43)

/-- A scale is finite and above 0. -/
def scaleOk (c : Nat) : Bool := match f32Val c with
  | .fin n m _ => !n && m != 0
  | _ => false

/-- No field of the context is reserved or out of range, and both scales are finite and above 0 (R223). -/
def ctxOk (d : List Byte) : Bool :=
  field (cWord d 0) 63 48 == 0 && !(bit (cWord d 0) 42) && cDimCode d != 3 && 1 ≤ cFmt d && cFmt d ≤ 4
    && field (cWord d 0) 34 32 == 0 && cLength d ≤ 1048576 && cPlHead d % 4 == 0 && field (cWord d 1) 63 48 ≤ 4096
    && field (cWord d 3) 63 48 == 0 && field (cWord d 4) 63 48 == 0 && cWord d 6 == 0 && cWord d 7 == 0
    && scaleOk (cKScale d) && scaleOk (cVScale d)

/-! ### The scale-history record (Table 5-2) -/

/-- The record of a context: bytes 64 to 127. -/
def ctxHist (d : List Byte) : List Byte := d.drop 64

def hWord (h : List Byte) (i : Nat) : Nat := le h (8 * i) 8
/-- HISTi. -/
def hHist (h : List Byte) (i : Nat) : Nat := le h (4 * (i % 8)) 4
def hHead (h : List Byte) : Nat := field (hWord h 5) 3 0
def hValid (h : List Byte) : Nat := field (hWord h 5) 7 4
def hBoost (h : List Byte) : Bool := bit (hWord h 5) 8
def hRedoLim (h : List Byte) : Nat := field (hWord h 5) 31 16
def hSteps (h : List Byte) : Nat := field (hWord h 5) 63 32
def hInit (h : List Byte) : Nat := field (hWord h 4) 31 0

/-- INIT_MAX is finite and not negative, and the reserved fields are 0 (R185). -/
def hOk (h : List Byte) : Bool :=
  (match f32Val (hInit h) with | .fin n m _ => !n || m == 0 | _ => false)
    && field (hWord h 5) 15 9 == 0 && field (hWord h 7) 63 16 == 0

/-- The prediction of a step (R188). -/
def predict (h : List Byte) (histN headroom catchF : Nat) : Nat :=
  let n := min (hValid h) histN
  let hmax := if n = 0 then hInit h
    else (List.range n).foldl (fun m i => fmax m (hHist h (hHead h + 16 - (i + 1)))) 0
  let wide (c : Nat) : Nat := f32 (decodeFloat (floatFmt 1) c)
  fmul (fmul hmax (wide headroom)) (if hBoost h then wide catchF else 0x3F800000)

/-- The record after the commit of a step (R207). -/
def hCommit (h : List Byte) (p : ScaleStep) : List Byte :=
  let live := flt 0 p.max
  let i := hHead h % 8
  let h1 := if live then h.take (4 * i) ++ leBytes 4 p.max ++ h.drop (4 * i + 4) else h
  let head := if live then (hHead h + 1) % 8 else hHead h
  let valid := if live then min (hValid h + 1) 8 else hValid h
  let w5 := head + valid * 16 + (if 0 < p.caught ∨ 0 < p.denied then 256 else 0) + field (hWord h 5) 15 9 * 2 ^ 9
    + hRedoLim h * 2 ^ 16 + satU 32 (hSteps h + 1) * 2 ^ 32
  let w6 := satU 16 (field (hWord h 6) 15 0 + p.clipped) + satU 16 (field (hWord h 6) 31 16 + p.caught) * 2 ^ 16
    + satU 16 (field (hWord h 6) 47 32 + p.redone) * 2 ^ 32 + satU 16 (field (hWord h 6) 63 48 + p.denied) * 2 ^ 48
  let w7 := field (hWord h 7) 63 16 * 2 ^ 16 + (if live then field (hWord h 7) 15 0 else satU 16 (field (hWord h 7) 15 0 + 1))
  h1.take 32 ++ leBytes 4 (hInit h) ++ leBytes 4 p.p ++ leBytes 8 w5 ++ leBytes 8 w6 ++ leBytes 8 w7

/-- A job commits its step to the record as it then stands (R187, R206, R207). -/
def commitStep (tkt : Nat) (p : ScaleStep) : Act := withCtx tkt p.ctx
  (withS fun s => putCtx p.ctx ((ctxBytes s p.ctx).take 64 ++ hCommit (ctxHist (ctxBytes s p.ctx)) p)) (fun _ => skip)

end Sys2Proof.Machine
end

