-- ==== Sys2Proof/Machine/TensorDesc.lean ====
section
/-! DEFINITION. Descriptors of the tensor engines (R124 to R151): their fields, the checks made on the descriptor alone
(R130 to R139, R145 to R151), and those made on the epilogue block (R140, R141, R190, R717). -/

namespace Sys2Proof.Machine

/-! ### Places (R124, R131) -/

/-- The address of die offset `off` on die `d`. -/
def dieAddr (d off : Nat) : Nat := 0xE000000000 + d * 0x100000000 + off

/-- The `n` bytes from die offset `off` lie in the window of position `e` of the die or in the scratch pool. -/
def inWindows (e off n : Nat) : Bool :=
  n == 0 || (0x400000 * e ≤ off && off + n ≤ 0x400000 * (e + 1)) || (0x4000000 ≤ off && off + n ≤ 0x7000000)

/-- Two byte ranges share a byte. -/
def rangesMeet (p q : Nat × Nat) : Bool := p.1 < q.1 + q.2 && q.1 < p.1 + p.2

/-- Some range of a list meets a later one. -/
def someMeet : List (Nat × Nat) → Bool
  | [] => false
  | r :: rs => rs.any (rangesMeet r) || someMeet rs

/-- `n` rows of `len` bytes from `off`, `stride` apart. -/
def rowRanges (off stride n len : Nat) : List (Nat × Nat) := tab n fun i => (off + i * stride, len)

/-! ### Arithmetic paths (Table 4-3) -/

inductive Path
  | float
  | int
  | bell
  deriving DecidableEq, Repr

/-- The path of an operand pair, if the array accepts it (R126). -/
def pairPath (a b : Nat) : Option Path :=
  if (a = b ∧ (a ≤ 2 ∨ a = 7 ∨ isMX a)) ∨ ((a = 3 ∨ a = 4) ∧ (b = 3 ∨ b = 4)) ∨ ((a = 5 ∨ a = 6) ∧ (b = 5 ∨ b = 6)) then
    some .float
  else if (a = 13 ∨ a = 14) ∧ (b = 13 ∨ b = 14) then some .int
  else if isBell a ∧ isBell b then some .bell
  else none

/-- The scaled output formats (Table 5-1). -/
def isScaled (f : Nat) : Bool := f == 13 || f == 14 || isBell f || isMX f

/-! ### Matrix descriptors -/

/-- A MATMUL, or a CONV as the MATMUL over its im2col rows (R136, R145, R146). Row i of A is the concatenation of
segments of `seg` elements each: a die offset, or none for a pixel outside the input. -/
structure Mat where
  path : Path
  af : Nat
  bf : Nat
  out : Nat
  raw : Bool
  sr : Bool
  seed : Nat
  m : Nat
  n : Nat
  k : Nat
  seg : Nat
  aRows : List (List (Option Nat))
  bRows : List (Nat × Nat)
  outRows : List (Nat × Nat)
  resOff : Nat
  resStride : Nat
  epi : Nat
  ctx : Nat
  deriving DecidableEq, Repr

def dOutFmt (d : List Byte) : Nat := dField d 0 26 22
def dBFmt (d : List Byte) : Nat := dField d 0 21 17
def dAFmt (d : List Byte) : Nat := dField d 0 16 12
def dSR (d : List Byte) : Bool := bit (dWord d 0) 10
def dRaw (d : List Byte) : Bool := bit (dWord d 0) 9
def dAct (d : List Byte) : Bool := bit (dWord d 0) 8

/-- Fields of CONV (Table 4-9). -/
def cvN (d : List Byte) : Nat := dField d 3 63 48
def cvC (d : List Byte) : Nat := dField d 3 47 32
def cvIW (d : List Byte) : Nat := dField d 3 31 16
def cvIH (d : List Byte) : Nat := dField d 3 15 0
def cvDW (d : List Byte) : Nat := dField d 4 63 60
def cvDH (d : List Byte) : Nat := dField d 4 59 56
def cvSW (d : List Byte) : Nat := dField d 4 55 52
def cvSH (d : List Byte) : Nat := dField d 4 51 48
def cvKW (d : List Byte) : Nat := dField d 4 47 44
def cvKH (d : List Byte) : Nat := dField d 4 43 40
def cvBatch (d : List Byte) : Nat := dField d 4 39 32
def cvOW (d : List Byte) : Nat := dField d 4 31 16
def cvOH (d : List Byte) : Nat := dField d 4 15 0

/-- The segments of im2col row `m` (R146). [DEDUCED: log entry 35] -/
def im2col (d : List Byte) (m : Nat) : List (Option Nat) :=
  let ox := m % cvOW d
  let oy := m / cvOW d % cvOH d
  let b := m / cvOW d / cvOH d
  tab (cvKH d * cvKW d) fun t =>
    let y : Int := (oy * cvSH d + t / cvKW d * cvDH d : Nat) - (dField d 5 7 0 : Int)
    let x : Int := (ox * cvSW d + t % cvKW d * cvDW d : Nat) - (dField d 5 15 8 : Int)
    if 0 ≤ y ∧ y < cvIH d ∧ 0 ≤ x ∧ x < cvIW d then
      some (dField d 1 31 0 + ((b * cvIH d + y.toNat) * cvIW d + x.toNat) * dField d 5 39 16)
    else none

/-- The matrix job of a MATMUL (0x40) or CONV (0x41) descriptor. -/
def matOf (d : List Byte) (path : Path) : Mat :=
  let of := dOutFmt d
  let raw := dRaw d
  let len (n : Nat) : Nat := if raw then 4 * n else rowBytes of n
  if dOpcode d = 0x40 then
    let m := dField d 3 19 0
    let n := dField d 3 39 20
    let k := dField d 3 59 40
    { path := path, af := dAFmt d, bf := dBFmt d, out := of, raw := raw, sr := dSR d, seed := dField d 6 63 32,
      m := m, n := n, k := k, seg := k,
      aRows := tab m fun i => [some (dField d 1 31 0 + i * dField d 4 31 0)],
      bRows := rowRanges (dField d 1 63 32) (dField d 4 63 32) n (rowBytes (dBFmt d) k),
      outRows := rowRanges (dField d 2 31 0) (dField d 5 31 0) m (len n),
      resOff := dField d 2 63 32, resStride := dField d 5 63 32, epi := dField d 6 31 0, ctx := dField d 7 49 32 }
  else
    let m := cvBatch d * cvOH d * cvOW d
    let n := cvN d
    let k := cvKH d * cvKW d * cvC d
    let pitch := ceilDiv (len n) 8 * 8
    { path := path, af := dAFmt d, bf := dBFmt d, out := of, raw := raw, sr := dSR d, seed := dField d 6 63 32,
      m := m, n := n, k := k, seg := cvC d,
      aRows := tab m (im2col d),
      bRows := rowRanges (dField d 1 63 32) (dField d 5 63 40) n (rowBytes (dBFmt d) k),
      outRows := rowRanges (dField d 2 31 0) pitch m (len n),
      resOff := dField d 2 63 32, resStride := pitch, epi := dField d 6 31 0, ctx := dField d 7 49 32 }

/-- The bytes of A that a matrix job reads. -/
def Mat.aRanges (a : Mat) : List (Nat × Nat) :=
  a.aRows.flatMap fun r => r.filterMap fun o => o.map fun x => (x, rowBytes a.af a.seg)

/-- Both 32-bit halves of word `i` are multiples of 8. -/
def halves8 (d : List Byte) (i : Nat) : Bool := dField d i 31 0 % 8 == 0 && dField d i 63 32 % 8 == 0

/-- The ILLEGAL conditions that a MATMUL or CONV descriptor shows (R126, R130, R134, R138, R139, R145, R146). [DEDUCED: log entries 31, 33] -/
def matIllegal (d : List Byte) : Bool :=
  let conv := dOpcode d == 0x41
  match pairPath (dAFmt d) (dBFmt d) with
  | none => true
  | some path =>
    let of := dOutFmt d
    let k := if conv then cvC d else dField d 3 59 40
    let n := if conv then cvN d else dField d 3 39 20
    !(isFmt of) || dField d 0 63 52 != 0 || dOpx d != 0 || dAct d || dField d 7 63 50 != 0
      || (if dRaw d then of != (if path = .float then 0 else 12) else of == 12 || of == 17)
      || k % fmtMultiple (dAFmt d) != 0 || k % fmtMultiple (dBFmt d) != 0 || n % fmtMultiple of != 0
      || !(halves8 d 1) || !(halves8 d 2) || dField d 6 31 0 % 8 != 0 || (!(dRaw d) && dField d 6 31 0 % 64 != 0)
      || (if conv then
            dField d 5 63 40 % 8 != 0 || dField d 5 39 16 % 8 != 0 || cvKH d == 0 || cvKW d == 0 || cvSH d == 0
              || cvSW d == 0 || cvDH d == 0 || cvDW d == 0
          else dField d 3 63 60 != 0 || !(halves8 d 4) || !(halves8 d 5))

/-! ### ELTWISE and REDUCE descriptors (R147 to R150) -/

def elRows (d : List Byte) : Nat := dField d 3 19 0
def elCols (d : List Byte) : Nat := dField d 3 39 20

/-- Operations of ELTWISE that read Y. -/
def elBinary (d : List Byte) : Bool := 1 ≤ dOpx d && dOpx d ≤ 5

/-- Format 0x11 has no value without its p, and INT32 and Q32 have no array class (R110, R119). [DEDUCED: log entry 31] -/
def elFmtOk (f : Nat) : Bool := isFmt f && !(isQ32 f)

/-- The ILLEGAL conditions that an ELTWISE descriptor shows. COLS meets the multiples of R138 (log entry 12). [DEDUCED: log entry 12] -/
def eltIllegal (d : List Byte) : Bool :=
  dField d 0 63 52 != 0 || dRaw d || 6 < dOpx d || !(elFmtOk (dAFmt d)) || !(elFmtOk (dBFmt d)) || !(elFmtOk (dOutFmt d))
    || !(resvOk d 3 [(39, 0)]) || !(resvOk d 5 [(31, 0)]) || !(resvOk d 7 [(49, 0)])
    || !(halves8 d 1) || !(halves8 d 2) || !(halves8 d 4) || dField d 5 31 0 % 8 != 0 || dField d 6 31 0 % 8 != 0
    || (dAct d && dField d 2 63 32 % 64 != 0) || (isScaled (dOutFmt d) && dField d 6 31 0 % 64 != 0)
    || elCols d % fmtMultiple (dAFmt d) != 0 || (elBinary d && elCols d % fmtMultiple (dBFmt d) != 0)
    || elCols d % fmtMultiple (dOutFmt d) != 0

/-- OPX[2:0] and OPX[3] of a REDUCE. -/
def rdOp (d : List Byte) : Nat := dOpx d % 8
def rdAxis (d : List Byte) : Bool := bit (dOpx d) 3

/-- The ILLEGAL conditions that a REDUCE descriptor shows. [DEDUCED: log entries 12, 31] -/
def redIllegal (d : List Byte) : Bool :=
  dField d 0 63 52 != 0 || dRaw d || dAct d || dSR d || dBFmt d != 0 || 15 < dOpx d || rdOp d == 7 || !(elFmtOk (dAFmt d))
    || dOutFmt d != (if rdOp d = 4 ∨ rdOp d = 5 then 12 else 0)
    || !(resvOk d 1 [(31, 0)]) || !(resvOk d 2 [(31, 0)]) || !(resvOk d 3 [(39, 0)]) || !(resvOk d 4 [(31, 0)])
    || !(resvOk d 5 [(31, 0)]) || !(resvOk d 6 [(63, 32)]) || !(resvOk d 7 [(49, 0)])
    || dField d 1 31 0 % 8 != 0 || dField d 2 31 0 % 8 != 0 || dField d 4 31 0 % 8 != 0 || dField d 5 31 0 % 8 != 0
    || elCols d % fmtMultiple (dAFmt d) != 0

/-- STEP_MASK of a GOLDEN or KV_GOLD descriptor (R151, R229). -/
def stepMask (d : List Byte) : Nat := dField d 0 31 12

/-- The ILLEGAL conditions that a GOLDEN or KV_GOLD descriptor shows. -/
def goldIllegal (d : List Byte) : Bool :=
  dField d 0 63 52 != 0 || (List.range 6).any (fun i => dWord d (i + 1) != 0) || dField d 7 63 32 != 0

/-- The ranges of die offsets that the descriptor itself names and the job touches: those read, and those written. -/
def tensorRanges (d : List Byte) : List (Nat × Nat) × List (Nat × Nat) :=
  let op := dOpcode d
  if op = 0x40 ∨ op = 0x41 then
    match pairPath (dAFmt d) (dBFmt d) with
    | none => ([], [])
    | some p =>
      let a := matOf d p
      (a.aRanges ++ a.bRows ++ (if a.raw then [] else [(a.epi, 64)]), a.outRows)
  else if op = 0x42 then
    let r := elRows d
    let c := elCols d
    let ys := if dField d 4 63 32 = 0 then 1 else r
    (rowRanges (dField d 1 31 0) (dField d 4 31 0) r (rowBytes (dAFmt d) c)
      ++ (if elBinary d then rowRanges (dField d 1 63 32) (dField d 4 63 32) ys (rowBytes (dBFmt d) c) else [])
      ++ (if dAct d then [(dField d 2 63 32, 1024)] else [])
      ++ (if isScaled (dOutFmt d) then [(dField d 6 31 0, 64)] else []),
      rowRanges (dField d 2 31 0) (dField d 5 31 0) r (rowBytes (dOutFmt d) c))
  else if op = 0x43 then
    (rowRanges (dField d 1 31 0) (dField d 4 31 0) (elRows d) (rowBytes (dAFmt d) (elCols d)),
      [(dField d 2 31 0, 4 * if rdAxis d then elCols d else elRows d)])
  else ([], [])

/-- The check of an engine descriptor for position `u` before any WAIT (R132, R133). -/
def checkTensor (u : Nat) (d : List Byte) : Option Nat :=
  let op := dOpcode d
  let ill := if op = 0x40 ∨ op = 0x41 then matIllegal d else if op = 0x42 then eltIllegal d else if op = 0x43 then redIllegal d
    else if op = 0x44 then goldIllegal d else true
  let empty := if op = 0x40 then dField d 3 19 0 == 0 || dField d 3 39 20 == 0 || dField d 3 59 40 == 0
    else if op = 0x41 then cvBatch d == 0 || cvOH d == 0 || cvOW d == 0 || cvC d == 0 || cvN d == 0
    else if op = 0x44 then stepMask d == 0 else elRows d == 0 || elCols d == 0
  if ill then some stILLEGAL
  else if empty then some stEMPTY
  else if ((tensorRanges d).1 ++ (tensorRanges d).2).all (fun r => inWindows (u % 9) r.1 r.2) then none
  else some stPLACE

/-- The output ranges of an engine job, as addresses. -/
def tensorOuts (u : Nat) (d : List Byte) : List (Nat × Nat) := (tensorRanges d).2.map fun r => (dieAddr (u / 9) r.1, r.2)

/-! ### The epilogue block (Table 4-8) -/

structure Epi where
  wscale : Bool
  ascale : Bool
  resFmt : Nat
  res : Bool
  act : Bool
  bias : Bool
  biasFmt : Nat
  biasOff : Nat
  ascaleOff : Nat
  actOff : Nat
  oscaleOff : Nat
  wscaleOff : Nat
  catchF : Nat
  headroom : Nat
  histN : Nat
  qpol : Nat
  deriving DecidableEq, Repr

/-- The fields of an epilogue block. -/
def epiOf (b : List Byte) : Epi :=
  { wscale := bit (dWord b 0) 46, ascale := bit (dWord b 0) 45, resFmt := dField b 0 44 40, res := bit (dWord b 0) 39,
    act := bit (dWord b 0) 38, bias := bit (dWord b 0) 37, biasFmt := dField b 0 36 32, biasOff := dField b 0 31 0,
    ascaleOff := dField b 1 63 32, actOff := dField b 1 31 0, oscaleOff := dField b 2 63 32, wscaleOff := dField b 2 31 0,
    catchF := dField b 3 37 22, headroom := dField b 3 21 6, histN := dField b 3 5 2, qpol := dField b 3 1 0 }

/-- A finite FP16 value of at least 1.0 (R190). -/
def factorOk (c : Nat) : Bool := match decodeFloat (floatFmt 1) c with
  | .fin n m e => !n && !(magLt m e 1 0)
  | _ => false

/-- The row-scale fields of the block are in range (R141, R190). -/
def Epi.scaleOk (e : Epi) (b : List Byte) : Bool :=
  1 ≤ e.histN && e.histN ≤ 8 && factorOk e.headroom && factorOk e.catchF && dField b 3 63 38 == 0

/-- Bytes of an operand's row-scale entry (R141), and of an output's (Table 5-1). -/
def scaleBytes (f : Nat) : Nat := if isMX f then 1 else 2

/-- The row scales of the output are predicted: a scaled format and QPOL other than 0 (R183). -/
def Epi.scales (e : Epi) (out : Nat) : Bool := isScaled out && e.qpol != 0

/-- The ILLEGAL conditions of the block of a matrix job (R134, R140, R141, R190). [DEDUCED: log entry 33] -/
def Epi.illegal (e : Epi) (b : List Byte) (out : Nat) : Bool :=
  !(e.scaleOk b) || dField b 0 63 47 != 0 || (List.range 4).any (fun i => dWord b (i + 4) != 0) || 2 < e.resFmt || 2 < e.biasFmt
    || (e.bias && e.biasOff % 8 != 0) || (e.ascale && e.ascaleOff % 8 != 0) || (e.wscale && e.wscaleOff % 8 != 0)
    || (e.act && e.actOff % 64 != 0) || (e.scales out && e.oscaleOff % 8 != 0)

/-- What the block of a matrix job makes it read, and what it makes it write beside the output. -/
def Epi.ranges (e : Epi) (a : Mat) : List (Nat × Nat) × List (Nat × Nat) :=
  ((if e.bias then [(e.biasOff, rowBytes e.biasFmt a.n)] else [])
      ++ (if e.ascale then [(e.ascaleOff, a.m * scaleBytes a.af)] else [])
      ++ (if e.wscale then [(e.wscaleOff, a.n * scaleBytes a.bf)] else [])
      ++ (if e.act then [(e.actOff, 1024)] else [])
      ++ (if e.res then rowRanges a.resOff a.resStride a.m (rowBytes e.resFmt a.n) else []),
    if e.scales a.out then [(e.oscaleOff, a.m * scaleBytes a.out)] else [])

end Sys2Proof.Machine
end

