-- ==== Sys2Proof/WellFormed.lean ====
section
/-! DEFINITION. Which operands a command has: the ranges of units, dies, engines, ports, axes, pages and widths that the
manual gives. A command outside them names nothing of this part. -/

namespace Sys2Proof

/-- Unit index of a copy engine (Table 7-6). -/
def isCopyUnit (u : Nat) : Bool := 40 ≤ u && u < 104
/-- Unit index of an engine position. -/
def isEngineUnit (u : Nat) : Bool := u < 36
/-- Unit index of a KV unit. -/
def isKvUnit (u : Nat) : Bool := 36 ≤ u && u < 40
/-- A port of Table 8-4. -/
def isPort (p : Nat) : Bool := p < 4 || (8 ≤ p && p < 24 && !((p - 8) / 4 == (p - 8) % 4)) || (24 ≤ p && p ≤ 32)
/-- An initiator ID of Table 8-2. -/
def isInit (i : Nat) : Bool :=
  i < 0x06D || (0x080 ≤ i && i ≤ 0x092) || (0x0A0 ≤ i && i ≤ 0x0A3) || (0x0B0 ≤ i && i ≤ 0x0B3)
    || (0x100 ≤ i && i ≤ 0x120) || (0xC00 ≤ i && i ≤ 0xC1F)
/-- A ticket. -/
def isTicket (t : Nat) : Bool := t < 64
/-- A 64-bit value. -/
def isWord64 (d : Nat) : Bool := d < 2 ^ 64
/-- A register page with the common layout (R667). [DEDUCED: log entry 29] -/
def isRegPage (p : Nat) : Bool :=
  p < 13 || (16 ≤ p && p < 80 && p % 16 < 15) || (99 ≤ p && p < 103) || (112 ≤ p && p < 146) || (160 ≤ p && p < 184)

/-- The operands of a command are in range. [DESIGN CHOICE: log entry 222] -/
def Instr.wellFormed : Instr → Bool
  | .registerWrite i t a w d => isInit i && isTicket t && 0 < w && w ≤ 8 && d < 2 ^ (8 * w)
      && 0xF000000000 ≤ a && a + w ≤ 0xF001000000
  | .resetWarm i t => isInit i && isTicket t
  | .resetDie i t d => isInit i && isTicket t && d < 4
  | .resetEng i t g => isInit i && isTicket t && g < 36
  | .pwrgdAssert x => x < 6
  | .pwrgdLoss x => x < 6
  | .doorbellWrite i q d => isInit i && q < 65536 && isWord64 d
  | .queueEnable i t | .queueDisable i t => isInit i && isTicket t
  | .descriptorTake q u _ => q < 65536 && u < 109
  | .creditWaitStart d c => d < 4 && c < 256
  | .jobComplete u _ _ _ _ => u < 109
  | .openDispatch u _ => u < 109
  | .planSlotTake _ _ => true
  | .preemptRequest u | .copySwitchDone u | .jobStopAtTile u => u < 109
  | .preemptRelease u _ => u < 109
  | .slotStart _ | .slotDeadline _ => true
  | .linear u _ | .strided u _ | .gather u _ | .scatter u _ | .fill u _ => isCopyUnit u
  | .matmul u _ | .conv u _ | .eltwise u _ | .reduce u _ => isEngineUnit u
  | .golden u _ => isEngineUnit u
  | .goldenCompare g st _ => g < 36 && st < 20
  | .teSigTest i t g => isInit i && isTicket t && g < 36
  | .append u _ | .attn u _ | .attnBwd u _ => isKvUnit u
  | .kvGold u _ => isKvUnit u
  | .ctxWrite u _ | .ctxRead u _ | .ctxAdvance u _ | .ctxTruncate u _ | .ctxPin u _ | .ctxUnpin u _
  | .ctxRelease u _ | .ctxSummary u _ => isKvUnit u
  | .kvCheckCompare d st _ => d < 4 && st < 20
  | .kvSigTest i t d => isInit i && isTicket t && d < 4
  | .sgJoin i g c q | .sgSetq i g c q => isInit i && g < 16 && c < 2 ^ 18 && q < 2 ^ 20
  | .sgLeave i g c => isInit i && g < 16 && c < 2 ^ 18
  | .sgStep i m => isInit i && m < 2 ^ 16
  | .sgPublish g _ => g < 16
  | .sgDisable i t g => isInit i && isTicket t && g < 16
  | .stage i t | .activate i t | .stop i t | .discard i t => isInit i && isTicket t
  | .fabricRequest i t h a n bs _ => isInit i && isTicket t && h.acc < 4 && h.tag < 4096 && (n == 64 || !(isEngineUnit i || (0x028 ≤ i && i ≤ 0x067))) && a < 2 ^ 48 && 0 < n && n ≤ 256
      && (h.acc == 0 || h.acc == 3 || bs.length == n)
  | .turnstileAdmit p as => isPort p && as.all (fun a => isTicket a.ticket && 0 < a.bytes && a.bytes ≤ 256)
  | .latencyMiss p t => isPort p && isTicket t
  | .fwWindowWrite i t w k d => isInit i && isTicket t && w < 512 && k < 4 && isWord64 d
  | .fwTsRateWrite i t n l k d => isInit i && isTicket t && n < 5 && l < 5 && k < 64 && isWord64 d
  | .hartTicketWrite h v => h < 16 && isWord64 v
  | .yeliloRequest p t h a n bs _ => p < 32 && isTicket t && h.acc < 4 && h.tag < 4096 && a < 2 ^ 40 && 0 < n && n ≤ 256
      && (h.acc == 0 || h.acc == 3 || bs.length == n)
  | .linkReplay d l | .linkDown d l => d < 4 && l < 4
  | .refresh k => k < 4
  | .patrolScrub _ v => v < 3
  | .rowMoveSwitch k => k < 4
  | .timeLoad i t d => isInit i && isTicket t && isWord64 d
  | .timeSecRead i => isInit i
  | .ptpSync p m g => p < 6 && m.domain < 256 && isWord64 g
  | .ptpAnnounce p m g => p < 6 && m.domain < 256 && isWord64 m.gm && isWord64 g
  | .ptpDelayMessage p h _ _ _ _ => p < 6 && h.kind < 8 && h.domain < 256
  | .ptpSyncInterval x => x.port < 6
  | .holdoverTimeout k => k < 2
  | .tcapEdge i k => i < 8 && k < 2
  | .capTsRead x i => isInit x && i < 8
  | .tpulseEdge j => j < 8
  | .pulseCfgWrite x j k d => isInit x && j < 8 && k < 3 && isWord64 d
  | .csi2Frame s _ | .ethernetSample s _ | .spiDrdy s _ | .i3cSample s _ | .canFrame s _ | .derivedRecord s _ => s < 64
  | .cycleClose g => g < 16
  | .fuStreamEnable i t s => isInit i && isTicket t && s < 64
  | .reinstate i s | .calCommit i s => isInit i && s < 64
  | .groupDisable i g => isInit i && g < 16
  | .fuse u _ => u == 107
  | .mapClear i => isInit i
  | .mapCells u _ | .mapFuse u _ | .plan u _ | .emit u _ => u == 106
  | .mapCommit u => u == 106
  | .solve u _ _ _ => u == 104
  | .cmd u _ => u == 104
  | .feed u _ _ => u == 108
  | .decodeBudgetOverrun u _ => u == 108
  | .fbFrame r _ | .axisFrameOther r _ | .discRsp r _ | .identRsp r _ => r < 4
  | .axisUpdate r xs => r < 4 && xs.all (fun a => a < 128)
  | .ringRun i t r | .enum i t r => isInit i && isTicket t && r < 4
  | .read i t r n a => isInit i && isTicket t && r < 4 && n < 64 && a < 128
  | .config i t a r n _ => isInit i && isTicket t && a < 128 && r < 4 && n < 64
  | .tabDataAccess i _ d => isInit i && d < 2 ^ 32
  | .faultClear i a => isInit i && a < 128
  | .doubtWireAssert ws => ws.all (fun w => w.1 < 15 && w.2 < 6)
  | .doubtRequest i | .netArm i | .hostKick i | .reintRequest i => isInit i
  | .lockstepMismatch p => p < 2
  | .watchdogExpiry w => w < 3
  | .carouselStepDone e _ => e < 102
  | .logTailWrite i t v => isInit i && isTicket t && v < 2 ^ 32
  | .currentWindow es => es.length == 13
  | .gainUpdate avs pmbus => avs.length == 5 && pmbus.length == 8
  | .powerWindow use => use.rails.length ≤ 5 && use.rails.all fun r => r.jobs.all fun j => j.client < 1024
      && use.rails.all (fun r => r.jobs.all fun e => decide (e.client < 1024))
  | .voteReceived p es => p < 4 && es.all (fun e => e.1 < 32 && 1 ≤ e.2.1 && e.2.1 ≤ 16)
  | .tempSample ts ks => ts.length == 5 && ts.all (fun l => l.length == 16) && ks.length == 4
  | .stateReqA0 i t | .stateReqP1 i t | .stateReqP2 i t | .stateReqP3 i t => isInit i && isTicket t
  | .wakeEvent k i => k < 3 && i < 8
  | .unlockPw p => p < 2 ^ 128
  | .unlockCr l _ _ _ _ _ => l < 256
  | .intForceWrite i t p d => isInit i && isTicket t && isRegPage p && d < 2 ^ 32
  | .intRouteWrite i t p d => isInit i && isTicket t && isRegPage p && isWord64 d
  | .yeliloEnable i p => isInit i && p < 4
  | .yeliloCodewordFail p | .yeliloLossOfLock p => p < 4
  | .yeliloLinkUp p t q => p < 4 && t < 256 && q < 32
  | .yeliloReplayRequest p _ => p < 4
  | .portLinkChange r _ => r < 4
  | .porstN _ | .wrstN | .pllLock | .controlFrameBoundary | .stageReadDone _ | .budgetWindow | .fwWindowSync
  | .healthRecordWrite | .referenceLost _ | .mapClearDone | .mapCopyDone | .axisGridPoint | .fbDeadline | .takePoint _
  | .enumDone | .identReqTimeout | .netUpdate | .netWatchdogExpiry | .watchWatchdogExpiry | .islandWatchdogExpiry
  | .reintGoldenTimeout | .logWrite | .stateDone _ | .nonce | .gridCycle _ => true

end Sys2Proof
end

