-- ==== Sys2Proof/Machine/Copy.lean ====
section
/-! DEFINITION. The copy engines (R70 to R77, R94, R115, R119 to R122, R716). -/

namespace Sys2Proof.Machine

/-! ### Carrying out a copy -/

/-- Storage ranges behind a list of address ranges (R76). -/
def storageOf (s : State) (rs : List (Nat × Nat)) : List (Nat × Nat) :=
  rs.flatMap fun r => (pieces r.1 r.2).map fun q => (phys s q.1, q.2)

/-- One row of source bytes as destination bytes; `base` is the position of its first element (R115). -/
def copyRow (d : List Byte) (base : Nat) (bs : List Byte) : RowConv :=
  if cpConvert d && cpSrcFmt d != cpDstFmt d then
    convertRow (cpDstFmt d)
      (fun i => if cpSR d then some (srBits (cpSeed d) ((base + i) % 2 ^ 32)) else none)
      (rowVals (cpSrcFmt d) (cpLength d) bs)
  else ⟨bs, 0, 0⟩

/-- The pattern of a FILL (Table 2-6). -/
def fillBytes (d : List Byte) : List Byte := tab (cpLength d) fun i => BitVec.ofNat 8 (dWord d 1 / 2 ^ (8 * (i % 8)))

/-- A copy over known rows: every source read and every destination checked, then the bytes written (R70, R76, R77). `odd`: a
reserved bit of the page list is set. A row of a broadcast that leaves its window fails with ADDR_FAULT (R43). -/
def copyOver (u : Nat) (j : Job) (ecc : Ecc) (odd : Bool) (rows : List (Nat × Nat)) : Act :=
  let d := j.desc
  match rows.find? fun r => bcastLeft d r.2 with
  | some r => seq [accessFailed u j.ticket 1 (stADDR_FAULT, r.2, 0), failJob u stADDR_FAULT j]
  | none =>
  let fill := dOpcode d == 0x24
  let srcs := if fill then [] else rows.map fun r => (r.1, cpSrcBytes d)
  let dsts := copyDests d rows
  accessAll u j.ticket ecc (srcs.map (fun r => (0, r.1, r.2)) ++ dsts.map (fun r => (1, r.1, r.2)))
    (withS fun s =>
      let outs := rows.zipIdx.map fun q =>
        (q.1.2, if fill then ⟨fillBytes d, 0, 0⟩ else copyRow d (q.2 * cpLength d) (readRange s q.1.1 (cpSrcBytes d)))
      let meet := (storageOf s dsts).any fun a => (storageOf s srcs).any (rangesMeet a)
      seq [
        if odd || copyOdd d || meet then forA dsts fun r => loseRange r.1 r.2
        else forA outs fun o => forA (cpTargets d o.1) fun a => writeRange a o.2.bytes,
        countF (CE_CVT_CNT_OUT_OF_RANGE ((u - 40) / 16)) (outs.foldl (fun t o => t + o.2.oor) 0),
        countF (CE_CVT_CNT_NAN_LOST ((u - 40) / 16)) (outs.foldl (fun t o => t + o.2.lost) 0),
        endRunning u stDONE])
    (fun st => failJob u st j)

/-- A GATHER or SCATTER: the page list is read first (R71). -/
def copyListed (u : Nat) (j : Job) (ecc : Ecc) : Act :=
  let d := j.desc
  access u j.ticket 0 ecc (cpList d) (8 * cpCount d) (withS fun s =>
    let bs := readRange s (cpList d) (8 * cpCount d)
    copyOver u j ecc (listOdd (cpCount d) bs) (copyRows d (listAddrs (cpCount d) bs)))
    (fun st => failJob u st j)

/-- The running copy of engine `u` with opcode `op`. [DESIGN CHOICE: log entry 23] -/
def onCopy (u op : Nat) (k : Job → Act) : Act := withS fun s => match workingJob s u op with
  | some j => k j
  | none => skip

/-- LINEAR (Table 2-6). -/
def execLinear (u : Nat) (ecc : Ecc) (s : State) : Host.Outcome State Fault Refusal :=
  perform (Instr.wellFormed (.linear u ecc)) (onCopy u 0x20 fun j => copyOver u j ecc false (copyRows j.desc [])) s

/-- STRIDED (Table 2-6). -/
def execStrided (u : Nat) (ecc : Ecc) (s : State) : Host.Outcome State Fault Refusal :=
  perform (Instr.wellFormed (.strided u ecc)) (onCopy u 0x21 fun j => copyOver u j ecc false (copyRows j.desc [])) s

/-- GATHER (R71). -/
def execGather (u : Nat) (ecc : Ecc) (s : State) : Host.Outcome State Fault Refusal :=
  perform (Instr.wellFormed (.gather u ecc)) (onCopy u 0x22 fun j => copyListed u j ecc) s

/-- SCATTER (R71). -/
def execScatter (u : Nat) (ecc : Ecc) (s : State) : Host.Outcome State Fault Refusal :=
  perform (Instr.wellFormed (.scatter u ecc)) (onCopy u 0x23 fun j => copyListed u j ecc) s

/-- FILL (Table 2-6). -/
def execFill (u : Nat) (ecc : Ecc) (s : State) : Host.Outcome State Fault Refusal :=
  perform (Instr.wellFormed (.fill u ecc)) (onCopy u 0x24 fun j => copyOver u j ecc false (copyRows j.desc [])) s

end Sys2Proof.Machine
end

