-- ==== Sys2Proof/Machine/FixedDesc.lean ====
section
/-! DEFINITION. The descriptors of the fixed-function units: Trapeze (R474), Midway (R461), the fusion unit (R419) and the
record pipeline (R581); their checks before any WAIT. -/

namespace Sys2Proof.Machine

/-- Word 0 keeps to Table 4-4 with the fields `fs` beside the opcode, ORDER and the counters. -/
def word0Ok (d : List Byte) (fs : List (Nat × Nat)) : Bool := resvOk d 0 ([(51, 32), (11, 11), (7, 0)] ++ fs)

/-- The words `ws` of a descriptor are 0. -/
def wordsZero (d : List Byte) (ws : List Nat) : Bool := ws.all fun i => dWord d i == 0

/-- Word `i` holds an address aligned to `n` bytes and nothing else. -/
def addrOk (d : List Byte) (n i : Nat) : Bool := resvOk d i [(47, 0)] && dWord d i % n == 0

/-- Trapeze (R474, R477, R494). -/
def checkTrapeze (d : List Byte) : Option Nat :=
  let op := dOpcode d
  let ok := word0Ok d [] && resvOk d 7 [(31, 0)] && addrOk d 64 1 && addrOk d 64 2 && addrOk d 64 3
  if op = 0xA0 then (if ok && wordsZero d [4, 5, 6] then none else some stILLEGAL)
  else if op = 0xA1 then
    if !(ok && addrOk d 64 4 && resvOk d 5 [(8, 0)] && dWord d 5 ≤ 256 && wordsZero d [6]) then some stILLEGAL
    else if dWord d 5 = 0 then some stEMPTY else none
  else some stILLEGAL

/-- Midway (R461, R462). -/
def checkMidway (d : List Byte) : Option Nat :=
  let op := dOpcode d
  let ok := word0Ok d [] && resvOk d 7 [(31, 0)] && wordsZero d [3, 4, 5, 6]
  let depth := dField d 2 24 20
  let good :=
    if op = 0x90 then addrOk d 4 1 && dWord d 2 ≤ 1048576
    else if op = 0x91 then addrOk d 64 1 && addrOk d 64 2
    else if op = 0x92 then wordsZero d [1, 2]
    else if op = 0x93 then addrOk d 64 1 && resvOk d 2 [(24, 0)] && dField d 2 19 16 ≤ 8 && 1 ≤ depth && depth ≤ 16
    else op == 0x94 && addrOk d 32 1 && addrOk d 64 2
  if !(ok && good) then some stILLEGAL
  else if (op = 0x90 ∧ dWord d 2 = 0) ∨ (op = 0x93 ∧ (dField d 2 15 0 = 0 ∨ dField d 2 19 16 = 0)) then some stEMPTY
  else none

/-- The fusion unit (R419). -/
def checkFusion (d : List Byte) : Option Nat :=
  if dOpcode d = 0x80 ∧ word0Ok d [(30, 27)] ∧ wordsZero d [1, 2, 3, 4, 5, 6] ∧ resvOk d 7 [(31, 0)] then none else some stILLEGAL

/-- The record pipeline (R581, R582). -/
def checkFeed (planned : Bool) (d : List Byte) : Option Nat :=
  if !(dOpcode d == 0xB0 && word0Ok d [(8, 8)] && addrOk d 64 1 && addrOk d 64 2 && resvOk d 3 [(47, 0)]
      && resvOk d 5 [(31, 24), (21, 20), (16, 0)] && dField d 6 47 0 % 8 == 0 && resvOk d 7 [(31, 0)]
      && dField d 5 31 24 != 0 && dField d 5 16 0 ≤ 65536) || planned then some stILLEGAL
  else if dField d 3 47 32 = 0 ∨ dField d 5 16 0 = 0 then some stEMPTY
  else none

/-- The check of a descriptor for fixed-function unit `u` before any WAIT. Tightrope takes no descriptors. -/
def checkFixed (u : Nat) (planned : Bool) (d : List Byte) : Option Nat :=
  if u = 104 then checkTrapeze d else if u = 106 then checkMidway d else if u = 107 then checkFusion d
  else if u = 108 then checkFeed planned d else some stILLEGAL

end Sys2Proof.Machine
end

