-- ==== Sys2Proof/Machine/Access.lean ====
section
/-! DEFINITION. How a write or read that a command names reaches its register: the hub register checker and the die
that holds the page come first (R43, R346, R348, R665), and the island-only rule (Table 18-10 ORIGIN). -/

namespace Sys2Proof.Machine

/-- The offset of an address in its page, and the page number. -/
def pageOf (a : Nat) : Nat := (a - 0xF000000000) / 0x10000
def offOf (a : Nat) : Nat := a % 0x10000

/-- The address of offset `off` of page `p`. -/
def pageAddr (p off : Nat) : Nat := 0xF000000000 + p * 0x10000 + off

/-- An access of `n` bytes of type `acc` to the registers at `a` reaches the block: `ok` runs when the checks pass;
otherwise the request is denied and recorded (R354) or fails with ADDR_FAULT (R43). It carries the ticket of its initiator's
source (R326). [DESIGN CHOICE: log entry 225] -/
def reaching (init tkt acc : Nat) (a : Nat) (n : Nat) (ok : Act) : Act := withS fun s =>
  let t := carried s init tkt
  let r := checkRequest s init t acc ⟨[], []⟩ a n
  if r.1 = 0 then ok
  else seq [if r.1 = stFW_DENY then violation init t acc r.2.1 r.2.2 else skip, respond init r.1 []]

/-- A register write by `init` to offset `off` of page `p` that only the island may make; a write from another
initiator that reaches the page is refused and reported (R715, Table 18-10 kind ORIGIN). -/
def islandWrite (init tkt p off data : Nat) (ok : Act) : Act :=
  reaching init tkt 1 (pageAddr p off) 8
    (if isIsland init then ok else errWindow p 3 init tkt off data true)

/-- A register write by any initiator that reaches the page. -/
def openWrite (init tkt p off n : Nat) (ok : Act) : Act := reaching init tkt 1 (pageAddr p off) n ok

end Sys2Proof.Machine
end

