-- ==== Sys2Proof/Machine/Tensor.lean ====
section
/-! DEFINITION. What the tensor engines compute: the array (R127, R128, R152), the epilogue (R142 to R144), row scales
and their policies (R188 to R205), ELTWISE and REDUCE (R148, R150), and the commands that run a job. -/

namespace Sys2Proof.Machine

/-! ### The array -/

/-- Products of a k-group summed exactly and rounded once (R127). [DEDUCED: log entry 35] -/
def groupSum (xs : List (Val × Val)) : Nat :=
  match xs.map (fun p => p.1.mul p.2) with
  | [] => 0
  | v :: vs => f32 (vs.foldl Val.add v)

/-- The accumulator of the float path after the k-groups in ascending order (R127). [DEDUCED: log entry 35] -/
def dotFloat (a b : List Val) : Nat :=
  match (chunks 32 a.length (a.zip b)).map groupSum with
  | [] => 0
  | g :: gs => gs.foldl fadd g

/-- An INT32 accumulator after the k-groups; once saturated it stays (R118, R128). -/
def dotInt (a b : List Int) : Int × Bool :=
  (chunks 32 a.length (a.zip b)).foldl (fun acc g =>
    if acc.2 then acc else
    let s := acc.1 + g.foldl (fun t p => t + p.1 * p.2) 0
    (satS 32 s, decide (satS 32 s ≠ s))) (0, false)

/-- Elements padded with zero codes to a multiple of 64 (R152). -/
def padK {α : Type} (zero : α) (xs : List α) : List α := xs ++ List.replicate (ceilDiv xs.length 64 * 64 - xs.length) zero

/-- The integers of a row on the integer and bell paths (R99, R103). -/
def rowInts (f n : Nat) (bs : List Byte) : List Int :=
  (unpackBits (fmtBits f) n bs).map fun c => if isBell f then bellSigned f c else toSigned (fmtBits f) c

/-- A reader of bytes at die offsets. -/
abbrev Reader := Nat → Nat → List Byte

/-- The values of row segments; a missing pixel is zero codes (R146). -/
def segVals (rd : Reader) (f seg : Nat) (r : List (Option Nat)) : List Val := r.flatMap fun
  | some o => rowVals f seg (rd o (rowBytes f seg))
  | none => List.replicate seg (.fin false 0 0)

def segInts (rd : Reader) (f seg : Nat) (r : List (Option Nat)) : List Int := r.flatMap fun
  | some o => rowInts f seg (rd o (rowBytes f seg))
  | none => List.replicate seg 0

/-- The accumulators of a matrix job row by row: words as stored, and whether each saturated. -/
def Mat.accs (a : Mat) (rd : Reader) : List (List (Nat × Bool)) :=
  match a.path with
  | .float =>
    let bs := a.bRows.map fun r => padK (.fin false 0 0) (rowVals a.bf a.k (rd r.1 r.2))
    a.aRows.map fun r =>
      let x := padK (.fin false 0 0) (segVals rd a.af a.seg r)
      bs.map fun y => (dotFloat x y, false)
  | _ =>
    let bs := a.bRows.map fun r => padK 0 (rowInts a.bf a.k (rd r.1 r.2))
    a.aRows.map fun r =>
      let x := padK 0 (segInts rd a.af a.seg r)
      bs.map fun y => let z := dotInt x y; (ofSigned 32 z.1, z.2)

/-! ### The epilogue -/

/-- An entry of the activation table: X_LO, SLOPE, INTERCEPT (R143). -/
def actTable (bs : List Byte) : List (Nat × Nat × Nat) :=
  tab 64 fun i => (le bs (16 * i) 4, le bs (16 * i + 4) 4, le bs (16 * i + 8) 4)

/-- act(x) (R143). -/
def actFn (t : List (Nat × Nat × Nat)) (x : Nat) : Nat :=
  if isNaN32 x then f32NaN else
  let e := (t.filter (fun e => fle e.1 x)).getLast?.getD (t.headD (0, 0, 0))
  fadd (fmul e.2.1 x) e.2.2

/-- X_LO does not ascend, or holds a NaN: the output is unpredictable (R143). -/
def actBad (t : List (Nat × Nat × Nat)) : Bool :=
  t.any (fun e => isNaN32 e.1) || (t.zip t.tail).any (fun p => !(fle p.1.1 p.2.1))

/-- The row-scale entries at `off` for operand format `f`, as FP32 (R141). -/
def scaleEntries (rd : Reader) (f off n : Nat) : List Nat :=
  let bs := rd off (n * scaleBytes f)
  tab n fun i =>
    if isMX f then (let c := le bs i 1; if c = 0xFF then f32NaN else f32 (.fin false 1 ((c : Int) - 127)))
    else f32 (decodeFloat (floatFmt 1) (le bs (2 * i) 2))

/-- Elements of a plain row as FP32. -/
def plainRow (rd : Reader) (f off n : Nat) : List Nat := (rowVals f n (rd off (rowBytes f n))).map f32

/-- Steps of R142 before the conversion, on row `i` of accumulators. -/
def epiRow (a : Mat) (e : Epi) (rd : Reader) (asc : List Nat) (wsc bias : List Nat) (t : List (Nat × Nat × Nat))
    (i : Nat) (accs : List Nat) : List Nat :=
  let res := if e.res then plainRow rd e.resFmt (a.resOff + i * a.resStride) a.n else []
  accs.zipIdx.map fun q =>
    let v := if a.path = .float then q.1 else f32Int (toSigned 32 q.1)
    let v := if a.path = .bell then fmul v 0x38800000 else v
    let v := if e.ascale then fmul v (asc.getD i 0) else v
    let v := if e.wscale then fmul v (wsc.getD q.2 0) else v
    let v := if e.bias then fadd v (bias.getD q.2 0) else v
    let v := if e.act then actFn t v else v
    if e.res then fadd v (res.getD q.2 0) else v

/-! ### Row scales (Chapter 5) -/

/-- The grid bound G_F in FP32 (Table 5-1). -/
def gridBound (f : Nat) : Nat :=
  if f = 13 then f32Int 127 else if f = 14 then f32Int 7 else if isBell f then f32 (.fin false 127 (-7))
  else if f = 8 then f32Int 448 else if f = 9 then f32Int 28 else if f = 10 then f32Int 6 else f32 (.fin false 127 (-6))

/-- The row scale formed from `p` (R189): stored code, and its FP32 value. -/
def rowScale (f p : Nat) : Nat × Nat :=
  let s := fdiv p (gridBound f)
  if isMX f then
    let c := match f32Val s with
      | .fin _ m e =>
        if m = 0 then 0 else
        let l := floorLog2 m 1 + e
        (clampI 0 254 ((if magLt 1 l m e then l + 1 else l) + 127)).toNat
      | _ => 254
    (c, f32 (.fin false 1 ((c : Int) - 127)))
  else
    let c := match f32Val s with
      | .fin _ m e =>
        let r := floatCode (floatFmt 1) none m 1 e
        let up := match decodeFloat (floatFmt 1) r with
          | .fin _ m2 e2 => if magLt m2 e2 m e then r + 1 else r
          | _ => r
        min (max up 0x0400) 0x7BFF
      | _ => 0x7BFF
    (c, f32 (decodeFloat (floatFmt 1) c))

/-- The row maximum of R193. -/
def rowMax (vs : List Nat) : Nat :=
  vs.foldl (fun m v => if isNaN32 v || isInf32 v then m else fmax m (fabs v)) 0

/-- The stochastic numbers of row `i` of `n` columns (R144). -/
def srRow (sr : Bool) (seed i n : Nat) (j : Nat) : Option Nat :=
  if sr then some (srBits seed ((i * n + j) % 2 ^ 32)) else none

/-- A written row: its bytes and counts, its scale code, whether it exceeds its prediction (R194). -/
structure RowOut where
  conv : RowConv
  scale : Nat
  exceeds : Bool
  deriving DecidableEq, Repr

/-- Row `i` requantised with the scale formed from `p` (R192, R194, R195). -/
def scaleRow (f : Nat) (sr : Bool) (seed n p i : Nat) (vs : List Nat) : RowOut :=
  let zero := rowMax vs == 0 && !(vs.any isInf32)
  let sc := if zero then (if isMX f then (0, f32 (.fin false 1 (-127))) else (0x0400, f32 (.fin false 1 (-14)))) else rowScale f p
  let q := (vs.map fun v => fdiv v sc.2).map f32Val
  let c := convertRow f (srRow sr seed i n) q
  let ex := if isMX f then
      (chunks 32 q.length q).any fun b => (mxEncode f (fun _ => none) b).clamped || b.any fun v => match v with | .inf _ => true | _ => false
    else c.oor != 0
  ⟨c, sc.1, ex && !zero⟩

/-- The outcome of a requantised job: rows, and the step it commits (R198 to R202). -/
structure ScaleOut where
  rows : List RowOut
  step : ScaleStep
  deriving DecidableEq, Repr

/-- One 128-row block under policy `q`: 1 clip, 2 catch, 3 redo while fewer than `lim` blocks are redone (R198 to
R202). -/
def scaleBlock (f : Nat) (sr : Bool) (seed n p q lim : Nat) (acc : ScaleOut) (blk : List (Nat × List Nat)) : ScaleOut :=
  let first := blk.map fun r => (r, scaleRow f sr seed n p r.1 r.2)
  let nOver := (first.filter fun r => r.2.exceeds).length
  let st := { acc.step with max := first.foldl (fun m r => fmax m (rowMax r.1.2)) acc.step.max }
  if nOver = 0 then ⟨acc.rows ++ first.map Prod.snd, st⟩
  else if q = 3 ∧ st.redone < lim then
    ⟨acc.rows ++ first.map (fun r => if r.2.exceeds then scaleRow f sr seed n (rowMax r.1.2) r.1.1 r.1.2 else r.2),
      { st with redone := st.redone + 1 }⟩
  else ⟨acc.rows ++ first.map Prod.snd,
    if q = 1 then { st with clipped := st.clipped + nOver } else if q = 2 then { st with caught := st.caught + nOver }
    else { st with denied := st.denied + nOver }⟩

/-- All rows requantised from prediction `p`, block by block. -/
def scaleAll (f : Nat) (sr : Bool) (seed n p q lim ctx : Nat) (vs : List (List Nat)) : ScaleOut :=
  (chunks 128 vs.length (vs.zipIdx.map fun r => (r.2, r.1))).foldl (scaleBlock f sr seed n p q lim)
    ⟨[], ⟨ctx, p, 0, 0, 0, 0, 0⟩⟩

/-! ### Running a job -/

/-- Reader of an engine's operands. -/
def dieReader (s : State) (u : Nat) : Reader := fun o n => readRange s (dieAddr (u / 9) o) n

/-- Counters and CTRL checks of a job: NaN lost, out of range, accumulators saturated, an infinite value converted
(R116, R205, R212). -/
def tensorCounts (u g : Nat) (oor lost sat : Nat) (inf : Bool) : Act := withS fun s =>
  let slot := match (s.unit u).running with
    | some j => match j.slot with
      | some id => match s.slot id with
        | some t => if t.typ = 1 then some id else none
        | none => none
      | none => none
    | none => none
  seq [countF (TE_CVT_CNT_OUT_OF_RANGE g) oor, countF (TE_CVT_CNT_NAN_LOST g) lost, countF (TE_ACC_CNT_ACC_SAT g) sat,
    match slot with
    | none => skip
    | some id => seq [whenA (lost != 0) (setF (TE_CTRL_CHK_NAN_SEEN g) 1), whenA (sat != 0) (setF (TE_CTRL_CHK_SAT_SEEN g) 1),
        whenA inf (setF (TE_CTRL_CHK_INF_SEEN g) 1),
        whenA (lost != 0 || sat != 0 || inf) (updSlot id fun r => { r with doubtful := r.doubtful ++ [u / 9] })]]

/-- The running job of `u` carries the step that it commits. -/
def setCommit (u : Nat) (p : ScaleStep) : Act := updUnit u fun t =>
  { t with running := t.running.map fun j => { j with commit := some p } }

/-- Add output ranges to the running job of `u`. -/
def addOuts (u : Nat) (rs : List (Nat × Nat)) : Act := updUnit u fun t =>
  { t with running := t.running.map fun j => { j with outs := j.outs ++ rs } }

/-- Rows are written at the output ranges, or, when output rows overlap one another or an operand (R135) or `bad`
holds, become unpredictable. -/
def putRows (u : Nat) (bad : Bool) (ins outs : List (Nat × Nat)) (rows : List (List Byte)) : Act :=
  let spoilt := bad || someMeet outs || outs.any (fun o => ins.any (rangesMeet o))
  if spoilt then forA outs fun o => loseRange (dieAddr (u / 9) o.1) o.2
  else forA (outs.zip rows) fun o => writeRange (dieAddr (u / 9) o.1.1) o.2

/-- Access every range for reading, then for writing; failure ends the job (R77, R84, R131). -/
def withRanges (u : Nat) (j : Job) (ecc : Ecc) (ins outs : List (Nat × Nat)) (ok : Act) : Act :=
  accessAll u j.ticket ecc
    (ins.map (fun r => (0, dieAddr (u / 9) r.1, r.2)) ++ outs.map (fun r => (1, dieAddr (u / 9) r.1, r.2))) ok (fun st => failJob u st j)

/-- Requantise and write rows of FP32 values, with the stream's record as it was fetched at dispatch (R183 to R207); the job ends DONE. -/
def finishScaled (u g f : Nat) (sr bad : Bool) (seed n qpol histN headroom catchF oscale ctx sat : Nat)
    (ins outs : List (Nat × Nat)) (vs : List (List Nat)) : Act := withS fun s0 => match (s0.unit u).running with
  | none => skip
  | some j => withCtx j.ticket ctx (
  let h := j.hist
  let p := predict h histN headroom catchF
  let o := scaleAll f sr seed n p qpol (hRedoLim h) ctx vs
  let sc := o.rows.flatMap fun r => leBytes (scaleBytes f) r.scale
  let oor := o.rows.foldl (fun t r => t + r.conv.oor) 0
  let lost := o.rows.foldl (fun t r => t + r.conv.lost) 0
  seq [putRows u (bad || !(hOk h)) ins (outs ++ [(oscale, sc.length)]) (o.rows.map (fun r => r.conv.bytes) ++ [sc]),
    tensorCounts u g oor lost sat (vs.any fun r => r.any isInf32),
    countF (TE_SCALE_CNT_CLIP_ROWS g) o.step.clipped, countF (TE_SCALE_CNT_CATCH_ROWS g) o.step.caught,
    countF (TE_REDO_CNT_REDO_BLOCKS g) o.step.redone, countF (TE_REDO_CNT_REDO_DENIED g) o.step.denied,
    setF (TE_SCALE_LAST_P g) p, setCommit u o.step, endRunning u stDONE]) (fun st => failJob u st j)

/-- Convert and write rows of FP32 values without row scales (R142, R191); the job ends DONE. -/
def finishPlain (u g f : Nat) (sr bad : Bool) (seed n sat : Nat) (ins outs : List (Nat × Nat)) (vs : List (List Nat)) : Act :=
  let rows := vs.zipIdx.map fun r => convertRow f (srRow sr seed r.2 n) (r.1.map f32Val)
  seq [putRows u bad ins outs (rows.map RowConv.bytes),
    tensorCounts u g (rows.foldl (fun t r => t + r.oor) 0) (rows.foldl (fun t r => t + r.lost) 0) sat (vs.any fun r => r.any isInf32),
    endRunning u stDONE]

/-- A matrix job once its descriptor is known to be right: RAW rows, or the epilogue block and all that it names. -/
def runMatrix (u g : Nat) (a : Mat) (j : Job) (ecc : Ecc) : Act :=
  let ins := a.aRanges ++ a.bRows
  let satOf (accs : List (List (Nat × Bool))) : Nat := accs.foldl (fun t r => t + (r.filter Prod.snd).length) 0
  if a.raw then withRanges u j ecc ins a.outRows (withS fun s =>
    let accs := a.accs (dieReader s u)
    seq [putRows u false ins a.outRows (accs.map fun r => r.flatMap fun x => leBytes 4 x.1),
      tensorCounts u g 0 0 (satOf accs) false, endRunning u stDONE])
  else withRanges u j ecc [(a.epi, 64)] [] (withS fun s =>
    let b := dieReader s u a.epi 64
    let e := epiOf b
    let x := e.ranges a
    if e.illegal b a.out then endRunning u stILLEGAL
    else if !((x.1 ++ x.2).all fun r => inWindows (u % 9) r.1 r.2) then endRunning u stPLACE
    else seq [addOuts u (x.2.map fun r => (dieAddr (u / 9) r.1, r.2)),
      withRanges u j ecc (ins ++ x.1) (a.outRows ++ x.2) (withS fun s =>
        let rd := dieReader s u
        let accs := a.accs rd
        let t := if e.act then actTable (rd e.actOff 1024) else []
        let asc := if e.ascale then scaleEntries rd a.af e.ascaleOff a.m else []
        let wsc := if e.wscale then scaleEntries rd a.bf e.wscaleOff a.n else []
        let bias := if e.bias then plainRow rd e.biasFmt e.biasOff a.n else []
        let vs := accs.zipIdx.map fun r => epiRow a e rd asc wsc bias t r.2 (r.1.map Prod.fst)
        let bad := e.act && actBad t
        let all := ins ++ x.1 ++ [(a.epi, 64)]
        if e.scales a.out then
          finishScaled u g a.out a.sr bad a.seed a.n e.qpol e.histN e.headroom e.catchF e.oscaleOff a.ctx (satOf accs) all a.outRows vs
        else finishPlain u g a.out a.sr bad a.seed a.n (satOf accs) all a.outRows vs)])

/-- The engine that runs position `u`'s job with opcode `op`, and the job; nothing when there is none. An uncorrectable error at a
location of 2⁴⁸ or above is one in an accumulator bank or the activation buffer: the engine fails (R171). [DESIGN CHOICE: log entries 23, 47, 224] -/
def onTensor (u op : Nat) (ecc : Ecc) (k : Nat → Job → Act) : Act := withS fun s => match workingJob s u op, serving s u with
  | some j, some g => if ecc.uncorr.any fun b => 2 ^ 48 ≤ b then failEngine g stENG_FAIL else k g j
  | _, _ => skip

/-- MATMUL (R136). -/
def execMatmul (u : Nat) (ecc : Ecc) (s : State) : Host.Outcome State Fault Refusal :=
  perform (Instr.wellFormed (.matmul u ecc)) (onTensor u 0x40 ecc fun g j => match pairPath (dAFmt j.desc) (dBFmt j.desc) with
    | some p => runMatrix u g (matOf j.desc p) j ecc
    | none => skip) s

/-- CONV (R145, R146). -/
def execConv (u : Nat) (ecc : Ecc) (s : State) : Host.Outcome State Fault Refusal :=
  perform (Instr.wellFormed (.conv u ecc)) (onTensor u 0x41 ecc fun g j => match pairPath (dAFmt j.desc) (dBFmt j.desc) with
    | some p => runMatrix u g (matOf j.desc p) j ecc
    | none => skip) s

/-- The operations of Table 4-10. -/
def elOp (op x y : Nat) : Nat :=
  if op = 0 then (if isNaN32 x then f32NaN else x)
  else if op = 1 then fadd x y else if op = 2 then fsub x y else if op = 3 then fmul x y
  else if op = 4 then fmax x y else if op = 5 then fmin x y else fabs x

/-- An element decoded to FP32 (R148); beyond FP32's range it takes the largest finite magnitude (R116). [DEDUCED: log entry 37] -/
def toF32 (v : Val) : Nat := (convFloat (floatFmt 0) none v).code

/-- A decoded row, times its scale entry where R197 applies one. [DEDUCED: log entry 32] -/
def elRow (rd : Reader) (f off n : Nat) (sc : Option Nat) : List Nat :=
  let r := (rowVals f n (rd off (rowBytes f n))).map toF32
  match sc with
  | some k => r.map fun v => fmul v k
  | none => r

/-- ELTWISE reads a scale entry for an operand in an INT, bell or MX format (R197). [DEDUCED: log entry 32] -/
def elScaled (f : Nat) : Bool := isInt f || isBell f || isMX f

/-- ELTWISE (R147, R148, R197, R204). [DEDUCED: log entry 32] -/
def execEltwise (u : Nat) (ecc : Ecc) (s : State) : Host.Outcome State Fault Refusal :=
  perform (Instr.wellFormed (.eltwise u ecc)) (onTensor u 0x42 ecc fun g j =>
    let d := j.desc
    let out := dOutFmt d
    let m := elRows d
    let n := elCols d
    let io := tensorRanges d
    let ys := if dField d 4 63 32 = 0 then 1 else m
    let compute (xsc ysc : List Nat) (rd : Reader) : List (List Nat) :=
      let t := if dAct d then actTable (rd (dField d 2 63 32) 1024) else []
      tab m fun i =>
        let x := elRow rd (dAFmt d) (dField d 1 31 0 + i * dField d 4 31 0) n (xsc[i]?)
        let k := if ys = 1 then 0 else i
        let y := if elBinary d then elRow rd (dBFmt d) (dField d 1 63 32 + k * dField d 4 63 32) n (ysc[k]?) else []
        x.zipIdx.map fun q =>
          let v := elOp (dOpx d) q.1 (y.getD q.2 0)
          if dAct d then actFn t v else v
    let bad (rd : Reader) : Bool := dAct d && actBad (actTable (rd (dField d 2 63 32) 1024))
    if !(isScaled out) then withRanges u j ecc io.1 io.2 (withS fun s =>
      let rd := dieReader s u
      finishPlain u g out (dSR d) (bad rd) (dField d 6 63 32) n 0 io.1 io.2 (compute [] [] rd))
    else withRanges u j ecc [(dField d 6 31 0, 64)] [] (withS fun s =>
      let b := dieReader s u (dField d 6 31 0) 64
      let e := epiOf b
      let ax := elScaled (dAFmt d)
      let ay := elBinary d && elScaled (dBFmt d)
      let rs := (if ax then [(e.ascaleOff, m * scaleBytes (dAFmt d))] else [])
        ++ (if ay then [(e.wscaleOff, ys * scaleBytes (dBFmt d))] else [])
      let ws := if e.scales out then [(e.oscaleOff, m * scaleBytes out)] else []
      if !(e.scaleOk b) || e.qpol == 3 || (ax && e.ascaleOff % 8 != 0) || (ay && e.wscaleOff % 8 != 0)
          || (e.scales out && e.oscaleOff % 8 != 0) then endRunning u stILLEGAL
      else if !((rs ++ ws).all fun r => inWindows (u % 9) r.1 r.2) then endRunning u stPLACE
      else seq [addOuts u (ws.map fun r => (dieAddr (u / 9) r.1, r.2)),
        withRanges u j ecc (io.1 ++ rs) (io.2 ++ ws) (withS fun s =>
          let rd := dieReader s u
          let vs := compute (if ax then scaleEntries rd (dAFmt d) e.ascaleOff m else [])
            (if ay then scaleEntries rd (dBFmt d) e.wscaleOff ys else []) rd
          if e.scales out then
            finishScaled u g out (dSR d) (bad rd) (dField d 6 63 32) n e.qpol e.histN e.headroom e.catchF e.oscaleOff
              (dField d 7 49 32) 0 (io.1 ++ rs) io.2 vs
          else finishPlain u g out (dSR d) (bad rd) (dField d 6 63 32) n 0 (io.1 ++ rs) io.2 vs)])) s

/-! ### REDUCE (R149, R150) -/

/-- What an element contributes: itself, its square, or its magnitude. -/
def rdElem (op x : Nat) : Nat := if op = 1 then fmul x x else if op = 6 then fabs x else x

/-- Two partial results of SUM, SUMSQ, MAX, MIN or MAXABS combined. [DEDUCED: log entry 36] -/
def rdJoin (op a b : Nat) : Nat :=
  if op = 0 ∨ op = 1 then fadd a b else if op = 3 then fmin a b else fmax a b

/-- Combine a list in order; none for an empty list. [DEDUCED: log entry 36] -/
def rdFold (op : Nat) : List Nat → Option Nat
  | [] => none
  | x :: xs => some (xs.foldl (rdJoin op) x)

/-- One pairwise level: entry 2i with entry 2i + 1. A lane that had no column contributes nothing. -/
def rdLevel (op : Nat) : List (Option Nat) → List (Option Nat)
  | a :: b :: r => (match a, b with
      | some x, some y => some (rdJoin op x y)
      | some x, none => some x
      | none, y => y) :: rdLevel op r
  | l => l

/-- A row over the 128 lanes and seven levels (R150). [DEDUCED: log entry 36] -/
def rdLanes (op : Nat) (xs : List Nat) : Nat :=
  let lanes := tab 128 fun l => rdFold op ((xs.zipIdx.filter fun q => q.2 % 128 = l).map Prod.fst)
  let r := (List.range 7).foldl (fun v _ => rdLevel op v) lanes
  (r.headD none).getD 0

/-- ARGMAX (4) or ARGMIN (5): the first NaN, else the lowest index of the extreme value. -/
def rdArg (op : Nat) (xs : List Nat) : Nat :=
  match xs.zipIdx.find? fun q => isNaN32 q.1 with
  | some q => q.2
  | none => (xs.zipIdx.foldl (fun (b : Nat × Nat) q =>
      if (if op = 4 then flt b.1 q.1 else flt q.1 b.1) then q else b) (xs.headD 0, 0)).2

/-- REDUCE (R149, R150). -/
def execReduce (u : Nat) (ecc : Ecc) (s : State) : Host.Outcome State Fault Refusal :=
  perform (Instr.wellFormed (.reduce u ecc)) (onTensor u 0x43 ecc fun _ j =>
    let d := j.desc
    let op := rdOp d
    let io := tensorRanges d
    withRanges u j ecc io.1 io.2 (withS fun s =>
      let rows := io.1.map fun r => (rowVals (dAFmt d) (elCols d) (dieReader s u r.1 r.2)).map toF32
      let lists := if rdAxis d then tab (elCols d) fun c => rows.map fun r => r.getD c 0 else rows
      let res := lists.map fun xs =>
        if op = 4 ∨ op = 5 then rdArg op xs
        else if rdAxis d then (rdFold op (xs.map (rdElem op))).getD 0
        else rdLanes op (xs.map (rdElem op))
      seq [putRows u false io.1 io.2 [res.flatMap (leBytes 4)], endRunning u stDONE])) s

end Sys2Proof.Machine
end

