-- ==== Sys2Proof/Machine/Golden.lean ====
section
/-! DEFINITION. The golden job (R164 to R171): operands, signature, comparison, comparator test, GOLDEN descriptor. -/

namespace Sys2Proof.Machine

/-- Operand formats of a golden step (Table 4-12). -/
def goldFmts (s : Nat) : Nat × Nat :=
  [(0, 0), (1, 1), (2, 2), (3, 3), (4, 4), (3, 4), (5, 5), (6, 5), (7, 7), (8, 8), (9, 9), (10, 10), (11, 11), (13, 13),
    (13, 14), (14, 14), (15, 15), (15, 16), (16, 15), (16, 16)].getD s (0, 0)

/-- The generator seed of step `s` and operand number `o` (R166). -/
def goldSeed (s o : Nat) : Nat := 0x60D00000 + 16 * s + o

/-- A code that is no NaN or infinity: such a code has bit w - 2 cleared (R166). -/
def goldClean (f c : Nat) : Nat :=
  let F := if isMX f then mxElem f else f
  if (isFloat f || (isMX f && f != 11)) && !(decodeFloat (floatFmt F) c).isFinite then clearBit c (fmtBits f - 2) else c

/-- Element code `idx` of operand `o` (R166). -/
def goldCode (f gs idx : Nat) : Nat :=
  if f = 0 then goldClean 0 (srBits gs (2 * idx) * 2 ^ 16 + srBits gs (2 * idx + 1))
  else goldClean f (srBits gs idx % 2 ^ fmtBits f)

/-- Row `r` of operand `o` (0 A, 1 B) on the float path. -/
def goldRowF (s o f r : Nat) : List Val := tab 256 fun k =>
  let c := goldCode f (goldSeed s o) (r * 256 + k)
  if isMX f then mxVal f (0x70 + srBits (goldSeed s (2 + o)) (r * 8 + k / 32) % 32) c else elemVal f c

/-- The signed level of a raw product-table index (R103, R129, R166). -/
def goldBell (f c : Nat) : Int :=
  let n : Nat := (bellLevels f).getD (if f = 15 then c % 8 else c % 4) 0
  if bit c 3 then -(n : Int) else n

/-- Row `r` of operand `o` on the integer and bell paths. -/
def goldRowI (s o f r : Nat) : List Int := tab 256 fun k =>
  if 16 ≤ s then goldBell f (if o = 0 then (k + r) % 16 else (k / 16 + r) % 16)
  else toSigned (fmtBits f) (goldCode f (goldSeed s o) (r * 256 + k))

/-- Saturating INT32 sum. -/
def addI32 (a b : Int) : Int := satS 32 (a + b)

/-- Elements 64q to 64q + 63. -/
def quarter {α : Type} (xs : List α) (q : Nat) : List α := (xs.drop (64 * q)).take 64

/-- Result word of two rows: ((P0 + P1) + (P2 + P3)) (R167). -/
def goldWord (s i j : Nat) : Nat :=
  let f := goldFmts s
  if s < 13 then
    let a := goldRowF s 0 f.1 i
    let b := goldRowF s 1 f.2 j
    let p (q : Nat) : Nat := dotFloat (quarter a q) (quarter b q)
    fadd (fadd (p 0) (p 1)) (fadd (p 2) (p 3))
  else
    let a := goldRowI s 0 f.1 i
    let b := goldRowI s 1 f.2 j
    let p (q : Nat) : Int := (dotInt (quarter a q) (quarter b q)).1
    ofSigned 32 (addI32 (addI32 (p 0) (p 1)) (addI32 (p 2) (p 3)))

/-- Row scale `r` of operand `o` (R166). -/
def goldScale (s o r : Nat) : Nat :=
  f32 (decodeFloat (floatFmt 1) (Nat.lor 0x3800 (srBits (goldSeed s (4 + o)) r % 0x400)))

/-- The scaled value of a result word (R168). -/
def goldScaled (s i j w : Nat) : Nat :=
  let v := if s < 13 then w else f32Int (toSigned 32 w)
  let v := if 16 ≤ s then fmul v 0x38800000 else v
  fmul (fmul v (goldScale s 0 i)) (goldScale s 1 j)

/-- One byte into the CRC-64 of R168, most significant bit first. -/
def crc64Byte (c : Nat) (b : Byte) : Nat :=
  (List.range 8).foldl (fun c _ => if bit c 63 then Nat.xor (c * 2 % 2 ^ 64) 0x42F0E1EBA9EA3693 else c * 2)
    (Nat.xor c (b.toNat * 2 ^ 56))

/-- The CRC-64 of a list of words, each fed as little-endian bytes (R168). -/
def crc64Words (ws : List Nat) : Nat := ws.foldl (fun c w => (leBytes 4 w).foldl crc64Byte c) 0

/-- The signature of golden step `s` (R166 to R168). -/
def goldenSig (s : Nat) : Nat :=
  let ij := (List.range 64).flatMap fun i => tab 64 fun j => (i, j)
  let ws := ij.map fun p => goldWord s p.1 p.2
  crc64Words (ws ++ (ij.zip ws).map fun q => goldScaled s q.1.1 q.1.2 q.2)

/-- The signature that a unit gives for a step: the right one, or what a fault makes of it. -/
def shownSig (right : Nat) (wrong : Option (Option Nat)) : Option Nat := match wrong with
  | none => some right
  | some x => x

/-- The SAFE slot of unit `u` in this frame. -/
def safeSlot (s : State) (u : Nat) : Option Slot := s.planSlots.find? fun t => t.typ == 0 && t.unit == u && slotOn s t

/-- The SAFE slot of unit `u` has its accepted comparison (R297, R299). [DEDUCED: log entry 55] -/
def safeDone (u : Nat) : Act := withS fun s => match safeSlot s u with
  | some t => seq [updSlot t.id fun r => { r with matched := true },
      whenA (t.start + t.wcet < s.inFrame && s.inFrame ≤ t.start + t.len) (countF RM_MISS_CNT_WCET_OVER 1)]
  | none => skip

/-- A golden comparator test of carousel entry `e` ends with the comparison of a step (R564, R566). -/
def carouselCompared (e step : Nat) (seen : Bool) : Act := withS fun s =>
  if !(s.isl.awaiting.contains e) then skip else
  seq [updIsl (fun i => { i with awaiting := i.awaiting.filter (fun x => x != e), testStep := mset i.testStep e step }), setF (EL_CAR_RUNNING e) 0,
    if seen then setF (EL_CAR_LAST_PASS e) s.timestamp else seq [setF (EL_CAR_FAIL e) 1, latchOwn 10]]

/-- A golden mismatch or missing signature is logged; a comparator test seen has its own code (Table 18-12). [DEDUCED: log entry 39] -/
def reportGolden (d unit step : Nat) (test missing doubt : Bool) : Act :=
  reportNow 5 d (if test then 0x141 else 0x140) (pageELd d) unit 0xFFF 0 doubt none (step + 32 * ofBool missing)

/-- The SAFE slot of unit `u` has started, is not exempt (R624) and is not checked. -/
def safeRunning (s : State) (u : Nat) : Bool := !(safeExempt s u) && match safeSlot s u with
  | some t => (s.slotRun t.id).started && !(s.slotRun t.id).checked
  | none => false

/-- Engine `g` has run a golden step in this frame that is still to be compared: an active engine in its SAFE slot, a spare in standby
from the SAFE slot time of TE0 of its die on (R164, R169). -/
def stepRun (s : State) (g : Nat) : Bool := !(s.plan.compared.contains g) &&
  (if s.get (TE_STATUS_STATE g) = 1 then safeRunning s (9 * (g / 9) + s.get (TE_STATUS_SERVES g))
   else s.get (TE_STATUS_STATE g) == 2 && !(diePark s (g / 9)) && !(s.plan.exempt.contains (g / 9)) && match safeSlot s (9 * (g / 9)) with
     | some t => decide (t.start ≤ s.inFrame)
     | none => false)

/-- The comparison of this frame has been made. -/
def compared (n : Nat) : Act := updPlan fun p => { p with compared := n :: p.compared }

/-- The error collector compares the signature of the golden step of this frame (R164, R169, R170). The comparison of a test leaves what
is on record of the engine's last golden step as it was. [DEDUCED: log entries 39, 235] -/
def execGoldenCompare (g step : Nat) (wrong : Option (Option Nat)) (s : State) : Host.Outcome State Fault Refusal :=
  perform (Instr.wellFormed (.goldenCompare g step wrong)) (withS fun s =>
    let st := s.get (TE_STATUS_STATE g)
    let e := s.get (TE_STATUS_SERVES g)
    let u := if st = 1 then 9 * (g / 9) + e else g
    let sig := shownSig (goldenSig step) wrong
    let want := s.get (TE_GOLD_SIG_SIG g step)
    let test := s.eng.sigTest.contains g
    let expect := if test then 2 ^ 64 - 1 - want else want
    let untest := updEng fun x => { x with sigTest := x.sigTest.filter (fun y => y != g) }
    if step != s.frameIdx || !(stepRun s g) then skip
    else seq [compared g, setF (TE_STATUS_GOLD_STEP g) step,
      match sig with
      | none => seq [setF (TE_GOLD_STAT_MISSING g) 1, countF (TE_GOLD_STAT_FAIL_CNT g) 1,
          reportGolden (g / 9) u step false true (st == 1), whenA (st == 1) (assertWire 0 (g / 9)), failEngine g stENG_FAIL]
      | some v => seq [setF (TE_GOLD_LAST_SIG g) v,
          if test then seq [untest,
            if v = expect then carouselCompared (55 + g) step false
            else seq [setF (TE_GOLD_STAT_TEST_SEEN g) 1, reportGolden (g / 9) u step true false false,
              carouselCompared (55 + g) step true, whenA (st == 1) (safeDone u)]]
          else if v = expect then seq [updEng (fun x => { x with passed := g :: x.passed.filter (fun y => y != g) }),
            whenA (st == 1) (safeDone u)]
          else seq [setF (TE_GOLD_STAT_MISMATCH g) 1, countF (TE_GOLD_STAT_FAIL_CNT g) 1,
            reportGolden (g / 9) u step false false (st == 1), whenA (st == 1) (assertWire 0 (g / 9)), failEngine g stENG_FAIL]]]) s

/-- The steps of a mask, in ascending order. -/
def stepsOf (mask : Nat) : List Nat := (List.range 20).filter (bit mask)

/-- What a GOLDEN job's faulty steps give (the first entry for a step). -/
def wrongAt (ws : List (Nat × Option Nat)) (st : Nat) : Option (Option Nat) := (ws.find? fun w => w.1 == st).map Prod.snd

/-- Engine `g` has run a step, with the signature that it gave. -/
def goldenRan (g : Nat) (x : Nat × Option Nat) : Act := seq [setF (TE_STATUS_GOLD_STEP g) x.1, match x.2 with
  | some v => setF (TE_GOLD_LAST_SIG g) v
  | none => setF (TE_GOLD_STAT_MISSING g) 1]

/-- `n` steps of engine `g` do not match (R151). -/
def goldenFailed (g n : Nat) : Act := seq [setF (TE_GOLD_STAT_MISMATCH g) 1, countF (TE_GOLD_STAT_FAIL_CNT g) n]

/-- A GOLDEN descriptor (R151, R171). -/
def execGolden (u : Nat) (wrong : List (Nat × Option Nat)) (s : State) : Host.Outcome State Fault Refusal :=
  perform (Instr.wellFormed (.golden u wrong)) (onTensor u 0x44 ⟨[], []⟩ fun g j => withS fun s =>
    let sts := stepsOf (stepMask j.desc)
    let sigOf (st : Nat) : Option Nat := shownSig (goldenSig st) (wrongAt wrong st)
    let bad := sts.filter fun st => sigOf st != some (s.get (TE_GOLD_SIG_SIG g st))
    seq [forA (sts.map fun st => (st, sigOf st)) (goldenRan g),
      if bad.isEmpty then seq [updEng (fun x => { x with passed := g :: x.passed.filter (fun y => y != g) }), endRunning u stDONE]
      else seq [goldenFailed g bad.length, failEngine g stGOLD_FAIL]]) s

/-- A write of 1 to SIG_TEST (R170). -/
def execTeSigTest (init tkt g : Nat) (s : State) : Host.Outcome State Fault Refusal :=
  perform (Instr.wellFormed (.teSigTest init tkt g)) (islandWrite init tkt (pageTE g) 0x010 2
    (updEng fun x => { x with sigTest := g :: x.sigTest.filter (fun y => y != g) })) s

end Sys2Proof.Machine
end

