-- ==== Sys2Proof/Machine/Elementary.lean ====
section
/-! DEFINITION. The correctly rounded FP32 exponential, logarithm and sine (R244, R255): series in fixed point with 240
fractional bits, rounded once. -/

namespace Sys2Proof.Machine

/-- Fractional bits of the series. -/
def fixBits : Nat := 240

/-- ln 2 and pi in units of 2^-240, rounded down. -/
def ln2Fix : Nat := 1224685061431752149387114016819916847747660333428801675508466606222838698
def piFix : Nat := 5550713758724461735233077129787137796835226094488409880962709825408003150

/-- Sum of x^n / n! from `term` on, in fixed point; at most `fuel` terms. -/
def expSeries : Nat → Nat → Nat → Nat → Nat
  | 0, _, _, _ => 0
  | k + 1, x, n, term => if term = 0 then 0 else term + expSeries k x (n + 1) (term * x / 2 ^ fixBits / (n + 1))

/-- e^x of an FP32 code, correctly rounded (R255). -/
def fexp (c : Nat) : Nat := match f32Val c with
  | .nan => f32NaN
  | .inf n => if n then 0 else f32Inf false
  | .fin n m e =>
    if m = 0 then 0x3F800000
    else if !(magLt m e 128 0) then (if n then 0 else f32Inf false)
    else
      let q := ratio m (e + fixBits)
      let x : Int := if n then -((q.1 / q.2 : Nat) : Int) else ((q.1 / q.2 : Nat) : Int)
      let k := x / (ln2Fix : Int)
      let r := (x - k * ln2Fix).toNat
      f32Ratio false (expSeries 100 r 0 (2 ^ fixBits)) 1 (k - fixBits)

/-- Sum of z^(2i+1) / (2i+1), in fixed point; `zz` is z squared. -/
def atanhSeries : Nat → Nat → Nat → Nat → Nat
  | 0, _, _, _ => 0
  | k + 1, zz, d, p => if p = 0 then 0 else p / d + atanhSeries k zz (d + 2) (p * zz / 2 ^ fixBits)

/-- ln x of an FP32 code, correctly rounded (R255): x = y × 2^k with 1 ≤ y < 2, ln y = 2 atanh((y - 1) / (y + 1)). -/
def flog (c : Nat) : Nat := match f32Val c with
  | .nan => f32NaN
  | .inf n => if n then f32NaN else f32Inf false
  | .fin n m e =>
    if m = 0 then f32Inf true
    else if n then f32NaN
    else
      let l := Nat.log2 m
      let z := (m - 2 ^ l) * 2 ^ fixBits / (m + 2 ^ l)
      let v : Int := 2 * (atanhSeries 140 (z * z / 2 ^ fixBits) 1 z : Nat) + ((l : Int) + e) * ln2Fix
      if v = 0 then 0 else f32Ratio (decide (v < 0)) v.natAbs 1 (-(fixBits : Int))

/-- Alternating series of the sine, in fixed point. -/
def sinSeries : Nat → Nat → Nat → Int → Int
  | 0, _, _, _ => 0
  | k + 1, xx, n, term =>
    if term = 0 then 0 else term + sinSeries k xx (n + 2) (-(Int.tdiv (Int.tdiv (term * xx) (2 ^ fixBits)) ((n + 1) * (n + 2))))

/-- sin(2 pi r / 4096) for r up to 1024, rounded to FP32. -/
def sinQuarter (r : Nat) : Nat :=
  if r = 1024 then 0x3F800000 else
  let x := piFix * r / 2048
  f32Ratio false (sinSeries 60 (x * x / 2 ^ fixBits) 1 x).toNat 1 (-(fixBits : Int))

/-- Entry T[j] of the sine table (R244). -/
def sinTable (j : Nat) : Nat :=
  let r := j % 1024
  match j / 1024 % 4 with
  | 0 => sinQuarter r
  | 1 => sinQuarter (1024 - r)
  | 2 => if r = 0 then 0 else fneg (sinQuarter r)
  | _ => fneg (sinQuarter (1024 - r))

end Sys2Proof.Machine
end

