-- ==== Sys2Proof/Machine/KvDesc.lean ====
section
/-! DEFINITION. KV descriptors (R229 to R237), batch lists (R231), pages and page-table entries (R214 to R222), and the
reading of memory by a unit with a status. -/

namespace Sys2Proof.Machine

/-! ### Fields (Table 6-4) -/

def kvQFmt (d : List Byte) : Nat := dField d 0 16 12
def kvCausal (d : List Byte) : Bool := bit (dWord d 0) 10
def kvRetrieve (d : List Byte) : Bool := bit (dWord d 0) 9
def kvRope (d : List Byte) : Bool := bit (dWord d 0) 8
def kvParity (d : List Byte) : Nat := dOpx d % 2
def kvGroup (d : List Byte) : Nat := dField d 4 63 60
def kvGroupEn (d : List Byte) : Bool := bit (dWord d 4) 59
def kvNseq (d : List Byte) : Nat := dField d 4 58 48
def kvList (d : List Byte) : Nat := dField d 4 47 0
def kvTopk (d : List Byte) : Nat := dField d 5 31 22
def kvGqa (d : List Byte) : Nat := dField d 5 21 18 + 1
def kvNh (d : List Byte) : Nat := dField d 5 17 12
def kvH0 (d : List Byte) : Nat := dField d 5 11 0
def kvIl (d : List Byte) : Bool := bit (dWord d 6) 40
def kvPairs (d : List Byte) : Nat := dField d 6 39 32
def kvRopeOff (d : List Byte) : Nat := dField d 6 31 0
def kvReserve (d : List Byte) : Nat := dField d 7 48 42
def kvSinks (d : List Byte) : Nat := dField d 7 41 39
def kvRecent (d : List Byte) : Nat := dField d 7 38 32
def kvScale (d : List Byte) : Nat := if dOpcode d = 0x61 then dField d 3 63 32 else dField d 7 63 32
def kvStat (d : List Byte) : Nat := if dOpcode d = 0x61 then dField d 3 31 0 else dField d 5 63 32
/-- The low and high halves of words 1 to 3. -/
def lo32 (d : List Byte) (i : Nat) : Nat := dField d i 31 0
def hi32 (d : List Byte) (i : Nat) : Nat := dField d i 63 32

/-- A die offset lies in an engine-local window or the scratch pool of the die. -/
def inDie (off n : Nat) : Bool := off + n ≤ 9 * 0x400000 || (0x4000000 ≤ off && off + n ≤ 0x7000000)

/-- The die offsets that APPEND, ATTN and ATTN_BWD name and use. [DEDUCED: log entry 45] -/
def kvOffsets (d : List Byte) : List (Nat × Nat) :=
  (if kvRope d ∧ kvPairs d ≠ 0 then [(kvRopeOff d, 4 * kvPairs d)] else []) ++
  (if dOpcode d = 0x60 then [(lo32 d 1, 1), (hi32 d 1, 1)]
   else if dOpcode d = 0x61 then [(lo32 d 1, 1), (hi32 d 1, 1), (kvStat d, 8)]
   else [(lo32 d 1, 1), (hi32 d 1, 1), (lo32 d 2, 1), (hi32 d 2, 1), (lo32 d 3, 1), (hi32 d 3, 1), (kvStat d, 8)])

/-- The ILLEGAL conditions that a KV descriptor shows (R229 to R234, R237); `planned`: it runs in a SAFE, CTRL or PERC
slot. [DEDUCED: log entries 33, 42, 45] -/
def kvIllegal (planned : Bool) (d : List Byte) : Bool :=
  let op := dOpcode d
  let list := !(kvGroupEn d) && (kvList d % 16 != 0 || 1024 < kvNseq d)
  let fin (c : Nat) : Bool := (f32Val c).isFinite
  let head := dField d 0 63 52 != 0 || dField d 0 21 17 != 0 || 1 < dOpx d || 2 < kvQFmt d || 128 < kvPairs d
    || dField d 6 63 41 != 0
  if op = 0x60 then
    head || list || dOutFmt d != 0 || kvCausal d || kvRetrieve d || dWord d 3 != 0 || dField d 5 63 18 != 0
      || dField d 7 63 32 != 0
  else if op = 0x61 then
    head || list || 2 < dOutFmt d || dField d 5 63 32 != 0 || dField d 7 63 49 != 0 || 512 < kvTopk d || 64 < kvRecent d
      || 4 < kvSinks d || 64 < kvReserve d || !(fin (kvScale d))
  else if op = 0x62 then
    head || list || kvRetrieve d || dField d 5 31 22 != 0 || !(fin (kvScale d))
  else if op = 0x63 then
    planned || dField d 0 63 52 != 0 || dField d 0 26 12 != 0 || dField d 0 10 8 != 0 || 7 < dOpx d || list
      || dField d 1 63 48 != 0 || dWord d 2 != 0 || dWord d 3 != 0 || dField d 5 63 18 != 0
      || (dOpx d != 7 && dField d 5 17 0 != 0) || dWord d 6 != 0 || dField d 7 63 32 != 0
  else if op = 0x64 then goldIllegal d
  else true

/-- The check of a KV descriptor before any WAIT (R133, R235). -/
def checkKv (planned : Bool) (d : List Byte) : Option Nat :=
  let op := dOpcode d
  let empty := if op = 0x64 then stepMask d == 0
    else (!(kvGroupEn d) && kvNseq d == 0) || ((op != 0x63 || dOpx d == 7) && kvNh d == 0)
  if kvIllegal planned d then some stILLEGAL
  else if empty then some stEMPTY
  else if op ≤ 0x62 && !((kvOffsets d).all fun r => inDie r.1 r.2) then some stPLACE
  else none

/-! ### Reading with a status -/

/-- Why a job stops: its status and, for a failed access, the access type and the check's result. -/
structure Stop where
  st : Nat
  acc : Nat
  res : Nat × Nat × Nat
  deriving DecidableEq, Repr

/-- A stop that is no failed access. -/
def Stop.plain (st : Nat) : Stop := ⟨st, 0, (0, 0, 0)⟩

/-- A range that a procedure reads (`write` false) or is to write. -/
structure Span where
  write : Bool
  addr : Nat
  len : Nat
  deriving DecidableEq, Repr

/-- A reading procedure: its result or the stop, and the ranges that it accesses on the way, in order. -/
abbrev Rd (α : Type) := ExceptT Stop (StateM (List Span)) α

/-- The result of a procedure. -/
def result {α : Type} (f : Rd α) : Except Stop α := (f.run.run []).1

/-- The ranges that a procedure accesses. -/
def spans {α : Type} (f : Rd α) : List Span := (f.run.run []).2

/-- The access to a range is made. -/
def spanR (q : Span) : Rd Unit := modify fun l => l ++ [q]

/-- The bytes of a range, if unit `u` may read it. -/
def readOk (s : State) (u tkt : Nat) (ecc : Ecc) (a n : Nat) : Except Stop (List Byte) :=
  let r := checkRange s u tkt 0 ecc a n
  if r.1 = 0 then .ok (readRange s a n) else .error ⟨r.1, 0, r⟩

/-- A range may be written by unit `u`. -/
def writeOk (s : State) (u tkt : Nat) (ecc : Ecc) (a n : Nat) : Except Stop Unit :=
  let r := checkRange s u tkt 1 ecc a n
  if r.1 = 0 then .ok () else .error ⟨r.1, 1, r⟩

/-- The bytes of a range, read by unit `u`, or the failed check. -/
def readE (s : State) (u tkt : Nat) (ecc : Ecc) (a n : Nat) : Rd (List Byte) := do
  let b ← readOk s u tkt ecc a n
  spanR ⟨false, a, n⟩
  return b

/-- A range that unit `u` is to write, or the failed check. -/
def writeE (s : State) (u tkt : Nat) (ecc : Ecc) (a n : Nat) : Rd Unit := do
  writeOk s u tkt ecc a n
  spanR ⟨true, a, n⟩

/-- Stop unless a condition holds. -/
def needE (c : Bool) (st : Nat) : Except Stop Unit := if c then .ok () else .error (Stop.plain st)

/-- What a stop records (R84, R354). -/
def noteStop (u tkt : Nat) (x : Stop) : Act := if x.res.1 = 0 then skip else accessFailed u tkt x.acc x.res

/-- Map over a list, stopping at the first error. -/
def mapE {m : Type → Type} [Monad m] {α β : Type} (f : α → m β) : List α → m (List β)
  | [] => pure []
  | a :: as => do
    let b ← f a
    let bs ← mapE f as
    return b :: bs

/-- The corrected errors that a reading procedure meets are handled: the blocks of `ecc.corr` at which it would stop if they could not
be corrected (R58, R60). [DESIGN CHOICE: log entry 47] -/
def readCorr {α : Type} (u tkt : Nat) (ecc : Ecc) (f : Ecc → Rd α) : Act :=
  forA (ecc.corr.filter fun b => match result (f ⟨[], b :: ecc.uncorr⟩) with
    | .error x => x.res.1 == stUNCORR && x.res.2.1 == b
    | .ok _ => false) (foundCorr u tkt)

/-- The data of ranges are charged at the ports that they cross (R332). -/
def chargeSpans (u tkt : Nat) (l : List Span) : Act := forA l fun q => charge u tkt q.write q.addr q.len

/-- What a procedure that unit `u` runs meets on the way: the corrected errors of its reads, and the charges of the data that it moves, to
its end or to the access that stops it (R58, R60, R332). [DESIGN CHOICE: log entries 47, 232] -/
def runsE {α : Type} (u tkt : Nat) (ecc : Ecc) (f : Ecc → Rd α) : Act := seq [readCorr u tkt ecc f, chargeSpans u tkt (spans (f ecc))]

/-! ### Batch lists (R231, R310) -/

/-- A batch entry. -/
structure Entry where
  ctx : Nat
  qrows : Nat
  qrow0 : Nat
  krow0 : Nat
  ok : Bool
  deriving DecidableEq, Repr

/-- The batch entry in 16 bytes; `ok`: its reserved bits are 0. -/
def entryOf (b : List Byte) : Entry :=
  let w := le b 0 8
  ⟨field w 17 0, field w 51 32, le b 8 4, le b 12 4, field w 31 18 == 0 && field w 63 52 == 0⟩

/-- The address of list buffer `p` of group `g` (R310). [DEDUCED: log entry 43] -/
def groupBuf (s : State) (g p : Nat) : Nat := s.get (RM_SG_CFG_BUF_BASE g) + p * 0x8000

/-- The entries of a descriptor's batch. A CTX descriptor, which has no PARITY, reads the list published last. -/
def batchE (s : State) (u tkt : Nat) (ecc : Ecc) (d : List Byte) : Rd (List Entry) := do
  let par := if dOpcode d = 0x63 then s.get (RM_SG_STAT_STEP (kvGroup d)) % 2 else kvParity d
  if kvGroupEn d then
    let buf := groupBuf s (kvGroup d) par
    let h ← readE s u tkt ecc buf 64
    let n := min 1024 (field (le h 0 8) 42 32)
    let b ← readE s u tkt ecc (buf + 64) (16 * n)
    return tab n fun i => entryOf ((b.drop (16 * i)).take 16)
  else
    let b ← readE s u tkt ecc (kvList d) (16 * kvNseq d)
    return tab (kvNseq d) fun i => entryOf ((b.drop (16 * i)).take 16)

/-! ### Pages (R216, R217, R222) -/

/-- A page of a context: logical page, page-list entry, page index, address, PTE address and PTE. -/
structure PageRef where
  lp : Nat
  present : Bool
  entry : Nat
  idx : Nat
  addr : Nat
  pteAddr : Nat
  pte : Nat
  deriving DecidableEq, Repr

def pteRetired (w : Nat) : Bool := bit w 63
def pteValid (w : Nat) : Bool := bit w 62
def pteOwner (w : Nat) : Nat := field w 57 40
def pteGen (w : Nat) : Nat := field w 39 16
def pteFill (w : Nat) : Nat := field w 8 0

/-- The PTE with GEN one higher (R219). -/
def pteBump (w : Nat) : Nat := w - pteGen w * 2 ^ 16 + (pteGen w + 1) % 2 ^ 24 * 2 ^ 16

/-- The PTE with another FILL. -/
def pteSetFill (w n : Nat) : Nat := w - pteFill w + n % 512

/-- The pages of die `n`'s pool (R216). -/
def poolPages (s : State) (n : Nat) : Nat := min 524288 (s.get (KV_POOL_PAGES_PAGES n))

/-- Logical page `lp` of a context, with its PTE as it stands (R216, R217, R222). A page index that is not usable stops the job with
ADDR_FAULT. [DEDUCED: log entry 239] -/
def pageE (s : State) (u tkt : Nat) (ecc : Ecc) (c : List Byte) (lp : Nat) : Rd PageRef := do
  needE (lp < cPlCap c) stPL_FULL
  let e ← readE s u tkt ecc (cPlHead c + 4 * lp) 4
  let w := ofLe e
  if !(bit w 31) then return ⟨lp, false, w, 0, 0, 0, 0⟩
  let p := w % 2 ^ 21
  let n := p / 2 ^ 19
  let i := p % 2 ^ 19
  needE (i < poolPages s n) stADDR_FAULT
  let pa := s.get (KV_PT_BASE_BASE n) * 4096 + 8 * i
  let pte ← readE s u tkt ecc pa 8
  return ⟨lp, true, w, p, s.get (KV_POOL_BASE_BASE n) * 32768 + i * 0x8000, pa, ofLe pte⟩

/-- The page is present, valid and owned by context `c`. -/
def PageRef.owned (p : PageRef) (c : Nat) : Bool := p.present && pteValid p.pte && pteOwner p.pte == c

/-- Page table entries that others changed while a job ran: page index, the entry as the unit's first read of it found it, and as the
second did (R249). [DESIGN CHOICE: log entry 243] -/
abbrev Races := List (Nat × Nat × Nat)

/-- What the two reads of a page's PTE show (R249). [DESIGN CHOICE: log entry 243] -/
def PageRef.seen (p : PageRef) (rs : Races) : Nat × Nat := match rs.find? fun r => r.1 == p.idx with
  | some r => r.2
  | none => (p.pte, p.pte)

/-- A read of a PTE passes the check of R249 for context `c` and selection generation `gen`. -/
def pteGood (w gen c : Nat) : Bool := pteValid w && !(pteRetired w) && pteOwner w == c && pteGen w == gen

/-- The first read of the page's PTE passes, so that its data are read (R249). -/
def PageRef.mayRead (p : PageRef) (rs : Races) (gen c : Nat) : Bool := p.present && pteGood (p.seen rs).1 gen c

/-- The page is accepted for context `c` and selection generation `gen` (R249). -/
def PageRef.accepted (p : PageRef) (rs : Races) (gen c : Nat) : Bool :=
  p.mayRead rs gen c && pteGood (p.seen rs).2 gen c

/-- The status of a page that fails (R250): RETIRED when the failing read showed it. -/
def PageRef.failure (p : PageRef) (rs : Races) (gen c : Nat) : Nat :=
  if p.present && pteRetired (if pteGood (p.seen rs).1 gen c then (p.seen rs).2 else (p.seen rs).1) then stRETIRED else stSTALE

/-- Token blocks of a context (R245). -/
def cBlocks (c : List Byte) : Nat := ceilDiv (cLength c) (cTpp c)

/-- Bytes of one token row of a page (R214). -/
def cRow (c : List Byte) : Nat := cDim c * fmtBits (cFmt c) / 8

/-! ### Rotary encoding (R243) -/

/-- lut(ph): the sine table with linear interpolation. -/
def ropeLut (ph : Nat) : Nat :=
  let j := ph % 2 ^ 32 / 2 ^ 20
  let f := f32 (.fin false (ph % 2 ^ 20) (-20))
  let t0 := sinTable j
  fadd t0 (fmul f (fsub (sinTable (j + 1)) t0))

/-- Rotate one head at position `pos`; `back` uses the negated sine (R257). -/
def rope (il : Bool) (pairs : Nat) (freq : List Nat) (pos : Nat) (back : Bool) (x : List Nat) : List Nat :=
  let ia (i : Nat) : Nat := if il then 2 * i else i
  let ib (i : Nat) : Nat := if il then 2 * i + 1 else i + pairs
  x.zipIdx.map fun q =>
    let i := if il then q.2 / 2 else if q.2 < pairs then q.2 else q.2 - pairs
    if pairs ≤ i ∨ (!il ∧ 2 * pairs ≤ q.2) then q.1 else
    let ph := pos * freq.getD i 0 % 2 ^ 32
    let sn0 := ropeLut ph
    let sn := if back then fneg sn0 else sn0
    let cs := ropeLut (ph + 0x40000000)
    let a := x.getD (ia i) 0
    let b := x.getD (ib i) 0
    if q.2 = ia i then fsub (fmul a cs) (fmul b sn) else fadd (fmul a sn) (fmul b cs)

/-- The frequency table at ROPE_OFF, and the head rotated when ROPE is 1. [DEDUCED: log entry 42] -/
def ropeIf (d : List Byte) (freq : List Nat) (pos : Nat) (back : Bool) (x : List Nat) : List Nat :=
  if kvRope d then rope (kvIl d) (kvPairs d) freq (pos % 2 ^ 32) back x else x

end Sys2Proof.Machine
end

