-- ==== Sys2Proof/Machine/Kv.lean ====
section
/-! DEFINITION. The KV unit: writing keys and values (R240 to R242), page retrieval and checks (R245 to R251), masks
(R252 to R254), attention forward and backward (R255 to R258), CTX (R237, R238), the KV check (R263 to R265). -/

namespace Sys2Proof.Machine

/-- The die of KV unit `u`. -/
def kvDie (u : Nat) : Nat := u - 36

/-- Layer-head indices of a descriptor. -/
def kvHeads (d : List Byte) : List Nat := tab (kvNh d) fun i => kvH0 d + i

/-- The `n` bytes at a die offset, if they lie in the die's windows (R229). -/
def offE (s : State) (u tkt : Nat) (ecc : Ecc) (off n : Nat) : Rd (List Byte) := do
  needE (inDie off n) stPLACE
  readE s u tkt ecc (dieAddr (kvDie u) off) n

/-- The `n` bytes at a die offset may be written. -/
def offW (s : State) (u tkt : Nat) (ecc : Ecc) (off n : Nat) : Rd Unit := do
  needE (inDie off n) stPLACE
  writeE s u tkt ecc (dieAddr (kvDie u) off) n

/-- The frequency table of a descriptor. -/
def freqE (s : State) (u tkt : Nat) (ecc : Ecc) (d : List Byte) : Rd (List Nat) :=
  if kvRope d ∧ kvPairs d ≠ 0 then do
    let b ← offE s u tkt ecc (kvRopeOff d) (4 * kvPairs d)
    return tab (kvPairs d) fun i => le b (4 * i) 4
  else return []

/-- The context of an entry as the job uses it: fields in range, ROPE_PAIRS and QROWS within it (R223, R232, R243). -/
def ctxE (s : State) (d : List Byte) (e : Entry) : Rd (List Byte) := do
  let c := ctxBytes s e.ctx
  needE (e.ok && ctxOk c && e.qrows ≤ cLength c && (!(kvRope d) || 2 * kvPairs d ≤ cDim c)) stILLEGAL
  return c

/-- `D` elements of head `i` in a row of elements of format `f`. -/
def headOf (f dim i : Nat) (row : List Byte) : List Nat :=
  (rowVals f dim ((row.drop (i * rowBytes f dim)).take (rowBytes f dim))).map f32

/-! ### APPEND (R240 to R242) -/

/-- Tokens that an entry writes in token block `b`: first position and count. -/
def appendSpan (c : List Byte) (qrows b : Nat) : Nat × Nat :=
  let lo := max (cLength c - qrows) (b * cTpp c)
  let hi := min (cLength c) ((b + 1) * cTpp c)
  (lo, hi - lo)

/-- Token blocks that an entry writes. -/
def appendBlocks (c : List Byte) (qrows : Nat) : List Nat :=
  if qrows = 0 then [] else
  let lo := (cLength c - qrows) / cTpp c
  tab ((cLength c - 1) / cTpp c - lo + 1) fun i => lo + i

/-- The K and V row ranges of `n` tokens from `t` on in page `p`. -/
def tokenRanges (c : List Byte) (p : PageRef) (t n : Nat) : List (Nat × Nat) :=
  let o := t % cTpp c * cRow c
  [(p.addr + o, n * cRow c), (p.addr + 16384 + o, n * cRow c)]

/-- The 32 BF16 values of a page's summary (R242). -/
def summary (c : List Byte) (fill : Nat) (krows : List Byte) : List Byte :=
  let g := cDim c / 32
  let k := tab fill fun t => (rowVals (cFmt c) (cDim c) ((krows.drop (t * cRow c)).take (cRow c))).map f32
  (List.range 32).flatMap fun j =>
    let sum := k.foldl (fun a r => fadd a (((r.drop (j * g)).take g).foldl fadd 0)) 0
    leBytes 2 (convFloat (floatFmt 2) none (f32Val (fdiv sum (f32Int fill)))).code

/-- The summary of page `p` is written to its coarse-index entry. -/
def putSummary (c : List Byte) (p : PageRef) (fill : Nat) : Act := withS fun s =>
  writeRange (cIdx c + 64 * p.lp) (summary c fill (readRange s p.addr (fill * cRow c)))

/-- FILL of page `p` after tokens `t` to `t + n - 1` (R240). -/
def filledTo (c : List Byte) (p : PageRef) (t n : Nat) : Nat := max (pteFill p.pte) ((t + n - 1) % cTpp c + 1)

/-- APPEND raises the page's FILL to TPP, and the context has a coarse index: the summary is written (R242). -/
def fillsPage (c : List Byte) (p : PageRef) (t n : Nat) : Bool := pteFill p.pte < cTpp c && filledTo c p t n == cTpp c && cIdx c != 0

/-- A token that was already written is overwritten: GEN changes (R219). [DEDUCED: log entry 46] -/
def overwrites (c : List Byte) (p : PageRef) (t : Nat) : Bool := t % cTpp c < pteFill p.pte

/-- One page of an APPEND entry: GEN before an overwritten token (R219), the rows, FILL, the summary of a full page. [DEDUCED: log entry 46] -/
def appendPage (c : List Byte) (p : PageRef) (t n : Nat) (k v : List RowConv) : Act :=
  let fill := filledTo c p t n
  let pte := if overwrites c p t then pteBump p.pte else p.pte
  let rs := tokenRanges c p t n
  seq [whenA (pte != p.pte) (writeRange p.pteAddr (leBytes 8 pte)),
    writeRange (rs.headD (0, 0)).1 (k.flatMap RowConv.bytes), writeRange ((rs.drop 1).headD (0, 0)).1 (v.flatMap RowConv.bytes),
    writeRange p.pteAddr (leBytes 8 (pteSetFill pte fill)),
    whenA (fillsPage c p t n) (putSummary c p fill)]

/-- APPEND on one entry; the summary of a page that it fills takes the rows stored before too (R242). -/
def appendEntry (s : State) (u tkt : Nat) (ecc : Ecc) (d : List Byte) (e : Entry) : Rd Act := do
  let c ← ctxE s d e
  let freq ← freqE s u tkt ecc d
  let n := kvNh d * rowBytes (kvQFmt d) (cDim c)
  let ins ← mapE (fun r => do
    let k ← offE s u tkt ecc (lo32 d 1 + (e.qrow0 + r) * lo32 d 2) n
    let v ← offE s u tkt ecc (hi32 d 1 + (e.qrow0 + r) * hi32 d 2) n
    return (k, v)) (List.range e.qrows)
  let acts ← mapE (fun b => mapE (fun h => do
    let p ← pageE s u tkt ecc c (b * cLh c + h)
    needE (p.owned e.ctx) stNO_PAGE
    let t := appendSpan c e.qrows b
    let _ ← mapE (fun r => writeE s u tkt ecc r.1 r.2) (tokenRanges c p t.1 t.2)
    let _ ← writeE s u tkt ecc p.pteAddr 8
    let _ ← if overwrites c p t.1 then writeE s u tkt ecc p.pteAddr 8 else pure ()
    let _ ← if fillsPage c p t.1 t.2 then readE s u tkt ecc p.addr (t.1 % cTpp c * cRow c) else pure []
    let _ ← if fillsPage c p t.1 t.2 then writeE s u tkt ecc (cIdx c + 64 * p.lp) 64 else pure ()
    let rows := tab t.2 fun i =>
      let r := t.1 + i - (cLength c - e.qrows)
      let x := ins.getD r ([], [])
      let k := ropeIf d freq (cPosBase c + t.1 + i) false (headOf (kvQFmt d) (cDim c) (h - kvH0 d) x.1)
      let v := headOf (kvQFmt d) (cDim c) (h - kvH0 d) x.2
      (convertRow (cFmt c) (fun _ => none) (k.map fun a => f32Val (fdiv a (cKScale c))),
        convertRow (cFmt c) (fun _ => none) (v.map fun a => f32Val (fdiv a (cVScale c))))
    return seq [appendPage c p t.1 t.2 (rows.map Prod.fst) (rows.map Prod.snd),
      countF (KV_MISC_CNT_OUT_OF_RANGE (kvDie u)) (rows.foldl (fun a r => a + r.1.oor + r.2.oor) 0)])
    (kvHeads d)) (appendBlocks c e.qrows)
  return seq (acts.map seq)

/-- What an APPEND entry may write, as far as its pages can be found: rows, FILL, GEN of a page with overwritten tokens, coarse-index
entries (R240, R242). [DEDUCED: log entry 46] -/
def appendOuts (s : State) (u tkt : Nat) (d : List Byte) (e : Entry) : List (Nat × Nat) :=
  let c := ctxBytes s e.ctx
  if !(ctxOk c) || cLength c < e.qrows then [] else
  (appendBlocks c e.qrows).flatMap fun b => (kvHeads d).flatMap fun h =>
    match result (pageE s u tkt ⟨[], []⟩ c (b * cLh c + h)) with
    | .ok p =>
      let t := appendSpan c e.qrows b
      if p.owned e.ctx then tokenRanges c p t.1 t.2 ++ [(p.pteAddr, if overwrites c p t.1 then 5 else 2)]
        ++ (if fillsPage c p t.1 t.2 then [(cIdx c + 64 * p.lp, 64)] else []) else []
    | .error _ => []

/-! ### Masks and blocks (R252 to R254) -/

/-- A context's mask: none, the bit rows of the query positions, or the segment marks. -/
inductive Mask
  | none
  | bitmap (rows : List (List Byte))
  | segment (marks : List Nat)
  deriving DecidableEq, Repr

/-- The mask of a context for `qrows` queries (R253). -/
def maskE (s : State) (u tkt : Nat) (ecc : Ecc) (c : List Byte) (qrows : Nat) : Rd Mask :=
  if cMask c = 0 then pure .none else do
    let h ← readE s u tkt ecc (cMask c) 64
    let kind := le h 0 1
    let data := field (le h 8 8) 47 0
    let stride := le h 16 4
    needE ((kind == 1 || kind == 2) && le h 1 7 == 0 && field (le h 8 8) 63 48 == 0 && le h 20 4 == 0
      && (h.drop 24).all (fun b => b == 0#8)) stILLEGAL
    if kind = 1 then
      let rows ← mapE (fun r => readE s u tkt ecc (data + (cLength c - qrows + r) * stride) (ceilDiv (cLength c) 8)) (List.range qrows)
      return .bitmap rows
    else
      let b ← readE s u tkt ecc data (2 * cLength c)
      return .segment (tab (cLength c) fun i => le b (2 * i) 2)

/-- Query row `r` (of the entry's QROWS) at position `q` may attend to token `t` (R252). -/
def allowed (causal : Bool) (m : Mask) (r q t : Nat) : Bool :=
  (!causal || t ≤ q) && match m with
    | .none => true
    | .bitmap rows => bit ((rows.getD r []).getD (t / 8) 0#8).toNat (t % 8)
    | .segment marks => marks.getD q 0 == marks.getD t 0 && marks.getD t 0 != 0

/-- The unit finds the block of key positions 128 kb onward empty for query rows `rs` (R254). Keys count up to LENGTH, whatever FILL
their page has. [DEDUCED: log entry 44] -/
def blockEmpty (causal : Bool) (m : Mask) (len q0 : Nat) (rs : List Nat) (kb : Nat) : Bool :=
  let ks := (List.range 128).map (fun i => 128 * kb + i) |>.filter (fun t => t < len)
  match m with
  | .segment marks =>
    let rm := rs.map fun r => marks.getD (q0 + r) 0
    let km := ks.map fun t => marks.getD t 0
    let mx (l : List Nat) : Nat := l.foldl max 0
    let mn (l : List Nat) : Nat := l.foldl min 0xFFFF
    ks.isEmpty || (causal && (rs.all fun r => q0 + r < 128 * kb)) || mx rm == 0 || mx km == 0 || mx rm < mn km || mx km < mn rm
  | _ => rs.all fun r => ks.all fun t => !(allowed causal m r (q0 + r) t)

/-- The query tiles of an entry: the entry rows (by QROWS) that each holds (R254, R256), the query heads of a row one after another. [DESIGN CHOICE: log entry 240] -/
def tiles (qrows gqa : Nat) : List (List Nat) :=
  (chunks 128 (qrows * gqa) (List.range (qrows * gqa))).map fun t => (t.map (· / gqa)).eraseDups

/-- The key blocks that a page of token block `b` lies in. -/
def keyBlocks (tpp b : Nat) : List Nat := tab ((b * tpp + tpp - 1) / 128 - b * tpp / 128 + 1) fun i => b * tpp / 128 + i

/-- A page whose every token lies in empty blocks is not read. -/
def pageWanted (causal : Bool) (m : Mask) (c : List Byte) (qrows gqa b : Nat) : Bool :=
  (tiles qrows gqa).any fun t => (keyBlocks (cTpp c) b).any fun kb =>
    !(blockEmpty causal m (cLength c) (cLength c - qrows) t kb)

/-- Empty blocks among those of token blocks `bs`, over all tiles. -/
def skippedBlocks (causal : Bool) (m : Mask) (c : List Byte) (qrows gqa : Nat) (bs : List Nat) : Nat :=
  let kbs := (bs.flatMap (keyBlocks (cTpp c))).eraseDups
  (tiles qrows gqa).foldl (fun n t =>
    n + (kbs.filter (blockEmpty causal m (cLength c) (cLength c - qrows) t)).length) 0

/-! ### Choosing and fetching pages (R245 to R251) -/

/-- A fetched page: its token block, and the K and V rows of the tokens that may be used (R251). -/
structure Page where
  block : Nat
  k : List (List Val)
  v : List (List Nat)
  deriving DecidableEq, Repr

/-- The usable rows of a page, whose PTE is read again after them (R249, R251). -/
def fetchE (s : State) (u tkt : Nat) (ecc : Ecc) (c : List Byte) (b : Nat) (p : PageRef) : Rd Page := do
  let n := min (pteFill p.pte) (min (cTpp c) (cLength c - b * cTpp c))
  let k ← readE s u tkt ecc p.addr (n * cRow c)
  let v ← readE s u tkt ecc (p.addr + 16384) (n * cRow c)
  let _ ← readE s u tkt ecc p.pteAddr 8
  let row (x : List Byte) (t : Nat) : List Val := rowVals (cFmt c) (cDim c) ((x.drop (t * cRow c)).take (cRow c))
  return ⟨b, tab n (row k), tab n fun t => (row v t).map f32⟩

/-- The page with its FILL as the first read showed it (R251). -/
def PageRef.asRead (p : PageRef) (rs : Races) : PageRef := { p with pte := (p.seen rs).1 }

/-- Every wanted block in ascending order, without retrieval: a page that fails stops the job (R250). -/
def allPagesE (s : State) (u tkt : Nat) (ecc : Ecc) (races : Races) (causal : Bool) (m : Mask) (c : List Byte) (ctx qrows gqa h : Nat) :
    Rd (List Page) :=
  mapE (fun b => do
    let p ← pageE s u tkt ecc c (b * cLh c + h)
    needE (p.mayRead races (pteGen p.pte) ctx) (p.failure races (pteGen p.pte) ctx)
    let x ← fetchE s u tkt ecc c b (p.asRead races)
    needE (p.accepted races (pteGen p.pte) ctx) (p.failure races (pteGen p.pte) ctx)
    return x) ((List.range (cBlocks c)).filter (pageWanted causal m c qrows gqa))

/-- The score of a block over rotated query rows (R246); a NaN row ranks below every number. -/
def blockScore (c : List Byte) (summ : List Nat) (qs : List (List Nat)) : Nat :=
  let g := cDim c / 32
  let row (q : List Nat) : Nat :=
    let qp := tab 32 fun j => match (q.drop (j * g)).take g with
      | [] => 0
      | x :: xs => xs.foldl fadd x
    match (List.zipWith fmul qp summ) with
    | [] => 0
    | x :: xs => xs.foldl fadd x
  match qs.map row with
  | [] => f32NaN
  | x :: xs => xs.foldl (fun a b => if isNaN32 b then a else if isNaN32 a then b else if flt a b then b else a) x

/-- Insert into a ranking: higher score first, then higher block; NaN last (R247). -/
def rankInsert (x : Nat × Nat) : List (Nat × Nat) → List (Nat × Nat)
  | [] => [x]
  | y :: r =>
    let before : Bool := if isNaN32 x.1 then isNaN32 y.1 && y.2 < x.2
      else isNaN32 y.1 || flt y.1 x.1 || (!(flt x.1 y.1) && y.2 < x.2)
    if before then x :: y :: r else y :: rankInsert x r

/-- A reserve block with its page, or with none when no tile has a use for the page, which is then neither fetched nor checked (R254);
and whether the page is accepted. -/
abbrev Spare := Nat × Option PageRef × Bool

/-- The first reserve block that can take a failed page's place, and the reserve that is left (R250). -/
def takeReserve : List Spare → Option Spare × List Spare
  | [] => (none, [])
  | x :: r => if x.2.1.isNone || x.2.2 then (some x, r) else takeReserve r

/-- Replacements for the failed selected pages, in order; pages replaced, and those left out (R250). A block that is not fetched counts
as neither. -/
def replaceAll : Nat → List Spare → List Spare × Nat × Nat
  | 0, _ => ([], 0, 0)
  | n + 1, rs => match takeReserve rs with
    | (some x, r) => let z := replaceAll n r; (x :: z.1, z.2.1 + ofBool x.2.1.isSome, z.2.2)
    | (none, _) => ([], 0, n + 1)

/-- Sink and recent blocks of a context of `nb` blocks (R245). -/
def fixedBlocks (d : List Byte) (nb : Nat) : List Nat :=
  let lo := max (kvSinks d) (nb - kvRecent d)
  List.range (min (kvSinks d) nb) ++ tab (nb - lo) fun i => lo + i

/-- The page of a block of head group `h`. -/
def blockPageE (s : State) (u tkt : Nat) (ecc : Ecc) (c : List Byte) (h b : Nat) : Rd (Nat × PageRef) := do
  let p ← pageE s u tkt ecc c (b * cLh c + h)
  return (b, p)

/-- The selection for head group `h`: blocks ranked by score, and the generation of every page that may be fetched (R245 to R248). -/
def selectE (s : State) (u tkt : Nat) (ecc : Ecc) (d : List Byte) (m : Mask) (c : List Byte) (e : Entry) (h : Nat)
    (qs : List (List Nat)) : Rd Selection := do
  let nb := cBlocks c
  let fixed := fixedBlocks d nb
  let scored ← mapE (fun b => do
    let x ← readE s u tkt ecc (cIdx c + 64 * (b * cLh c + h)) 64
    return (blockScore c (tab 32 fun j => f32 (decodeFloat (floatFmt 2) (le x (2 * j) 2))) qs, b)) ((List.range nb).filter fun b => !(fixed.contains b))
  let rank := (scored.foldl (fun l x => rankInsert x l) []).map Prod.snd
  let sel := rank.take (kvTopk d)
  let reserve := (rank.drop (kvTopk d)).take (kvReserve d)
  let pages ← mapE (blockPageE s u tkt ecc c h) ((fixed ++ sel ++ reserve).filter (pageWanted (kvCausal d) m c e.qrows (kvGqa d)))
  return ⟨sel, reserve, pages.foldl (fun g x => mset g x.1 (pteGen x.2.pte)) []⟩

/-- The pages chosen by retrieval for head group `h`, in processing order, with REPLACED and DROPPED, and the blocks whose empty parts
are counted (R245 to R250, R254). `kept`: the selection that a suspended job kept (R262). [DESIGN CHOICE: log entry 244] -/
def retrieveE (s : State) (u tkt : Nat) (ecc : Ecc) (races : Races) (kept : Option Selection) (d : List Byte) (m : Mask) (c : List Byte)
    (e : Entry) (h : Nat) (qs : List (List Nat)) : Rd (List Page × Nat × Nat × List Nat) := do
  let sn ← match kept with
    | some x => pure x
    | none => selectE s u tkt ecc d m c e h qs
  let chosen := (List.range (cBlocks c)).filter fun b => (fixedBlocks d (cBlocks c)).contains b || sn.sel.contains b
  let want (b : Nat) : Bool := pageWanted (kvCausal d) m c e.qrows (kvGqa d) b
  let gen (x : Nat × PageRef) : Nat := mgetD sn.gens x.1 (pteGen x.2.pte)
  let ok (x : Nat × PageRef) : Bool := x.2.accepted races (gen x) e.ctx
  let main ← mapE (blockPageE s u tkt ecc c h) (chosen.filter want)
  let extra ← mapE (fun b => if want b then (blockPageE s u tkt ecc c h b).map fun x => (b, some x.2, ok x) else pure (b, none, false)) sn.reserve
  let good := main.filter ok
  let bad := main.filter fun x => !(ok x)
  let _ ← mapE (fun x => fetchE s u tkt ecc c x.1 (x.2.asRead races)) (bad.filter fun x => x.2.mayRead races (gen x) e.ctx)
  let badSel := (bad.filter fun x => sn.sel.contains x.1).length
  let rep := replaceAll badSel extra
  let pages ← mapE (fun x => fetchE s u tkt ecc c x.1 (x.2.asRead races)) (good ++ rep.1.filterMap fun x => x.2.1.map fun p => (x.1, p))
  return (pages, rep.2.1, rep.2.2 + (bad.length - badSel), chosen.filter (fun b => !(want b)) ++ good.map (·.1) ++ rep.1.map (·.1))

/-! ### The forward pass (R255, R256) -/

/-- Running m, l and acc of one query row. -/
structure RowAcc where
  m : Nat
  l : Nat
  acc : List Nat
  deriving DecidableEq, Repr

/-- One page's allowed scores and values into the running row (R255). -/
def attnPage (a : RowAcc) (xs : List (Nat × List Nat)) : RowAcc :=
  if xs.isEmpty then a else
  let mp := xs.foldl (fun m x => fmax m x.1) (f32Inf true)
  let mn := fmax a.m mp
  let c := if a.m = f32Inf true then 0 else fexp (fsub a.m mn)
  xs.foldl (fun a x =>
    let p := fexp (fsub x.1 mn)
    ⟨mn, fadd a.l p, (a.acc.zip x.2).map fun y => fadd y.1 (fmul p y.2)⟩) ⟨mn, fmul a.l c, a.acc.map (fmul · c)⟩

/-- The score of a query row against a key (R255, R257). -/
def attnScore (sm ks : Nat) (q : List Nat) (k : List Val) : Nat := fmul (fmul (dotFloat (q.map f32Val) k) ks) sm

/-- The allowed tokens of a page for the query at position `q0 + r`, each with its score; a key whose score is -infinity
contributes nothing (R252). -/
def pageScores (d c : List Byte) (m : Mask) (q0 r : Nat) (q : List Nat) (p : Page) : List (Nat × Nat × List Val × List Nat) :=
  (p.k.zip p.v).zipIdx.filterMap fun y =>
    let t := p.block * cTpp c + y.2
    let sc := attnScore (kvScale d) (cKScale c) q y.1.1
    if allowed (kvCausal d) m r (q0 + r) t && sc != f32Inf true then some (t, sc, y.1.1, y.1.2) else none

/-- The outputs and statistics of one query row (R255, R256). -/
def attnRow (d c : List Byte) (m : Mask) (q0 r : Nat) (q : List Nat) (pages : List Page) : List Nat × Nat × Nat :=
  let a := pages.foldl (fun a p => attnPage a ((pageScores d c m q0 r q p).map fun x => (x.2.1, x.2.2.2)))
    ⟨f32Inf true, 0, List.replicate (cDim c) 0⟩
  if a.l = 0 then (List.replicate (cDim c) 0, f32Inf true, f32Inf true)
  else (a.acc.map fun x => fmul (fdiv x a.l) (cVScale c), a.m, fadd a.m (flog a.l))

/-- The query rows of an entry, as ATTN reads them (R230, R232). [DEDUCED: log entry 41] -/
def queriesE (s : State) (u tkt : Nat) (ecc : Ecc) (d c : List Byte) (e : Entry) : Rd (List (List Byte)) :=
  mapE (fun r => offE s u tkt ecc (lo32 d 1 + (e.qrow0 + r) * lo32 d 2) (kvNh d * kvGqa d * rowBytes (kvQFmt d) (cDim c))) (List.range e.qrows)

/-- Query head (i, g) of row `r`, rotated at its position (R232, R243). -/
def queryHead (d c : List Byte) (freq : List Nat) (e : Entry) (qrows : List (List Byte)) (i r g : Nat) : List Nat :=
  ropeIf d freq (cPosBase c + (cLength c - e.qrows) + r) false (headOf (kvQFmt d) (cDim c) (i * kvGqa d + g) (qrows.getD r []))

/-- The query heads of head group `i` in row order. -/
def groupHeads (d c : List Byte) (freq : List Nat) (e : Entry) (qrows : List (List Byte)) (i : Nat) : List (List Nat) :=
  (List.range e.qrows).flatMap fun r => tab (kvGqa d) (queryHead d c freq e qrows i r)

/-- The key under which a job keeps the selection of head group `h` of batch entry `i`. -/
def keptKey (i h : Nat) : Nat := 8192 * i + h

/-- ATTN on one entry. [DEDUCED: log entry 41] -/
def attnEntry (s : State) (u tkt : Nat) (ecc : Ecc) (races : Races) (kept : SMap Selection) (n : Nat) (d : List Byte) (e : Entry) :
    Rd Act := do
  let c ← ctxE s d e
  let gqa := kvGqa d
  let q0 := cLength c - e.qrows
  needE (!(kvRetrieve d) || (e.qrows * gqa ≤ 128 && cIdx c != 0)) stILLEGAL
  let freq ← freqE s u tkt ecc d
  let heads := kvNh d * gqa
  let qrows ← queriesE s u tkt ecc d c e
  let ob := rowBytes (dOutFmt d) (cDim c)
  let _ ← mapE (fun r => do
    offW s u tkt ecc (hi32 d 1 + (e.qrow0 + r) * hi32 d 2) (heads * ob)
    offW s u tkt ecc (kvStat d + 8 * (e.qrow0 + r) * heads) (8 * heads)) (List.range e.qrows)
  let m ← maskE s u tkt ecc c e.qrows
  let acts ← mapE (fun i => do
    let h := kvH0 d + i
    let got ← if kvRetrieve d then
        retrieveE s u tkt ecc races (mget kept (keptKey n h)) d m c e h (groupHeads d c freq e qrows i)
      else (fun ps => (ps, 0, 0, List.range (cBlocks c))) <$> allPagesE s u tkt ecc races (kvCausal d) m c e.ctx e.qrows gqa h
    return seq [
      forA (List.range e.qrows) (fun r => forA (List.range gqa) fun g =>
        let o := attnRow d c m q0 r (queryHead d c freq e qrows i r g) got.1
        let x := i * gqa + g
        seq [writeRange (dieAddr (kvDie u) (hi32 d 1 + (e.qrow0 + r) * hi32 d 2 + x * ob))
            (convertRow (dOutFmt d) (fun _ => none) (o.1.map f32Val)).bytes,
          writeRange (dieAddr (kvDie u) (kvStat d + 8 * ((e.qrow0 + r) * heads + x))) (leBytes 4 o.2.1 ++ leBytes 4 o.2.2)]),
      countF (KV_STALE_CNT_REPLACED (kvDie u)) got.2.1, countF (KV_STALE_CNT_DROPPED (kvDie u)) got.2.2.1,
      countF (KV_MISC_CNT_BLOCKS_SKIPPED (kvDie u)) (skippedBlocks (kvCausal d) m c e.qrows gqa got.2.2.2)])
    (List.range (kvNh d))
  return seq acts

/-- What an ATTN entry writes. -/
def attnOuts (s : State) (u : Nat) (d : List Byte) (e : Entry) : List (Nat × Nat) :=
  let heads := kvNh d * kvGqa d
  (List.range e.qrows).flatMap fun r =>
    [(dieAddr (kvDie u) (hi32 d 1 + (e.qrow0 + r) * hi32 d 2), heads * rowBytes (dOutFmt d) (cDim (ctxBytes s e.ctx))),
      (dieAddr (kvDie u) (kvStat d + 8 * (e.qrow0 + r) * heads), 8 * heads)]

/-! ### The backward pass (R257, R258) -/

/-- Gradients of one head group while the query rows are taken in order: dk and dv by token. -/
structure BwdAcc where
  dq : List (List Nat)
  dk : SMap (List Nat)
  dv : SMap (List Nat)
  deriving DecidableEq, Repr

/-- Add to a row of FP32 values, which starts at zero. -/
def addRow (m : SMap (List Nat)) (t : Nat) (xs : List Nat) : SMap (List Nat) :=
  mset m t (List.zipWith fadd ((mget m t).getD (List.replicate xs.length 0)) xs)

/-- One query row of one head (R257): `o`, `go` its output and gradient, `st` its saved m and LSE. -/
def bwdRow (d c : List Byte) (m : Mask) (q0 r : Nat) (q o go : List Nat) (st : Nat × Nat) (pages : List Page) (a : BwdAcc) :
    BwdAcc :=
  let ks := cKScale c
  let sm := kvScale d
  let zero := List.replicate (cDim c) 0
  if st.1 = f32Inf true then { a with dq := a.dq ++ [zero] } else
  let delta := match List.zipWith fmul go o with
    | [] => 0
    | x :: xs => xs.foldl fadd x
  let r := (pages.flatMap (pageScores d c m q0 r q)).foldl (fun (z : List Nat × BwdAcc) x =>
    let p := fexp (fsub x.2.1 st.2)
    let dp := fmul (dotFloat (go.map f32Val) (x.2.2.2.map f32Val)) (cVScale c)
    let ds := fmul p (fsub dp delta)
    (List.zipWith (fun y k => fadd y (fmul ds (fmul (f32 k) ks))) z.1 x.2.2.1,
      { z.2 with dk := addRow z.2.dk x.1 (q.map fun y => fmul (fmul ds sm) y), dv := addRow z.2.dv x.1 (go.map fun y => fmul p y) }))
    (zero, a)
  { r.2 with dq := r.2.dq ++ [r.1.map fun y => fmul y sm] }

/-- ATTN_BWD on one entry; `twice`: another entry of the job names the same context (R258). -/
def bwdEntry (twice : Bool) (s : State) (u tkt : Nat) (ecc : Ecc) (races : Races) (d : List Byte) (e : Entry) : Rd Act := do
  let c ← ctxE s d e
  let gqa := kvGqa d
  let q0 := cLength c - e.qrows
  let freq ← freqE s u tkt ecc d
  let heads := kvNh d * gqa
  let qn := heads * rowBytes (kvQFmt d) (cDim c)
  let rowsAt (off : Nat) : Rd (List (List Byte)) :=
    mapE (fun r => offE s u tkt ecc (off + (e.qrow0 + r) * qn) qn) (List.range e.qrows)
  let qs ← rowsAt (lo32 d 1)
  let os ← rowsAt (hi32 d 1)
  let gos ← rowsAt (lo32 d 2)
  let sts ← mapE (fun r => offE s u tkt ecc (kvStat d + 8 * (e.qrow0 + r) * heads) (8 * heads)) (List.range e.qrows)
  let dqn := heads * cDim c * 4
  let dkn := kvNh d * cDim c * 4
  let _ ← mapE (fun r => offW s u tkt ecc (hi32 d 2 + (e.qrow0 + r) * dqn) dqn) (List.range e.qrows)
  let _ ← offW s u tkt ecc (hi32 d 3 + e.krow0 * dkn) (cLength c * dkn)
  let _ ← offW s u tkt ecc (lo32 d 3 + e.krow0 * dkn) (cLength c * dkn)
  let m ← maskE s u tkt ecc c e.qrows
  let acts ← mapE (fun i => do
    let ps ← allPagesE s u tkt ecc races (kvCausal d) m c e.ctx e.qrows gqa (kvH0 d + i)
    let hd (b : List Byte) (g : Nat) : List Nat := headOf (kvQFmt d) (cDim c) (i * gqa + g) b
    let a := ((List.range e.qrows).flatMap fun r => tab gqa fun g => (r, g)).foldl (fun a rg =>
      let st := sts.getD rg.1 []
      let so := 8 * (i * gqa + rg.2)
      bwdRow d c m q0 rg.1 (ropeIf d freq (cPosBase c + q0 + rg.1) false (hd (qs.getD rg.1 []) rg.2))
        (hd (os.getD rg.1 []) rg.2) (hd (gos.getD rg.1 []) rg.2) (le st so 4, le st (so + 4) 4) ps a) ⟨[], [], []⟩
    let put (off : Nat) (xs : List Nat) : Act := writeRange (dieAddr (kvDie u) off) (xs.flatMap (leBytes 4))
    let zero := List.replicate (cDim c) 0
    return seq [
      forA (List.range e.qrows) (fun r => forA (List.range gqa) fun g =>
        put (hi32 d 2 + (e.qrow0 + r) * dqn + (i * gqa + g) * cDim c * 4)
          (ropeIf d freq (cPosBase c + q0 + r) true (a.dq.getD (r * gqa + g) zero))),
      forA (List.range (cLength c)) (fun t => seq [
        put (hi32 d 3 + (e.krow0 + t) * dkn + i * cDim c * 4) (ropeIf d freq (cPosBase c + t) true ((mget a.dk t).getD zero)),
        put (lo32 d 3 + (e.krow0 + t) * dkn + i * cDim c * 4) ((mget a.dv t).getD zero)]),
      countF (KV_MISC_CNT_BLOCKS_SKIPPED (kvDie u))
        (skippedBlocks (kvCausal d) m c e.qrows gqa (List.range (cBlocks c)))]) (List.range (kvNh d))
  return seq [seq acts, whenA twice (seq [
    loseRange (dieAddr (kvDie u) (hi32 d 3 + e.krow0 * dkn)) (cLength c * dkn),
    loseRange (dieAddr (kvDie u) (lo32 d 3 + e.krow0 * dkn)) (cLength c * dkn)])]

/-- What an ATTN_BWD entry writes. -/
def bwdOuts (s : State) (u : Nat) (d : List Byte) (e : Entry) : List (Nat × Nat) :=
  let c := ctxBytes s e.ctx
  let dqn := kvNh d * kvGqa d * cDim c * 4
  let dkn := kvNh d * cDim c * 4
  [(dieAddr (kvDie u) (hi32 d 2 + e.qrow0 * dqn), e.qrows * dqn),
    (dieAddr (kvDie u) (hi32 d 3 + e.krow0 * dkn), cLength c * dkn),
    (dieAddr (kvDie u) (lo32 d 3 + e.krow0 * dkn), cLength c * dkn)]

/-! ### Running a batch (R235, R236) -/

/-- The coarse-index entries that CTX SUMMARY writes for an entry (R242). -/
def summaryOuts (s : State) (u tkt : Nat) (d : List Byte) (e : Entry) : List (Nat × Nat) :=
  let c := ctxBytes s e.ctx
  if !(ctxOk c) || cIdx c = 0 then [] else
  (List.range (cBlocks c)).flatMap fun b => (kvHeads d).flatMap fun h => match result (pageE s u tkt ⟨[], []⟩ c (b * cLh c + h)) with
    | .ok p => if p.owned e.ctx && pteFill p.pte != 0 then [(cIdx c + 64 * p.lp, 64)] else []
    | .error _ => []

/-- What entry `e`, number `i`, of a job may write. -/
def entryOuts (s : State) (u tkt : Nat) (d : List Byte) (i : Nat) (e : Entry) : List (Nat × Nat) :=
  if dOpcode d = 0x60 then appendOuts s u tkt d e
  else if dOpcode d = 0x61 then attnOuts s u d e
  else if dOpcode d = 0x62 then bwdOuts s u d e
  else if dOpx d = 1 then [(dField d 1 47 0 + 128 * i, 128)]
  else if dOpx d = 7 then summaryOuts s u tkt d e
  else []

/-- The output ranges of a KV job, as far as its list can be read. -/
def kvOuts (s : State) (u tkt : Nat) (d : List Byte) : List (Nat × Nat) :=
  if 0x64 ≤ dOpcode d then [] else
  match result (batchE s u tkt ⟨[], []⟩ d) with
  | .ok es => es.zipIdx.flatMap fun x => entryOuts s u tkt d x.2 x.1
  | .error _ => []

/-- The entries from `i` on, in order; the first that stops ends the job, its outputs and those of later entries being
unpredictable (R236), unless it fails a check, which writes nothing (R717). An entry with nothing to do is still checked. -/
def runEntries (u : Nat) (j : Job) (ecc : Ecc) (idle : Entry → Bool) (body : Ecc → Nat → State → Entry → Rd Act) :
    Nat → List Entry → Act
  | _, [] => endRunning u stDONE
  | i, e :: es => if !e.ok then endRunningAt u stILLEGAL i else if idle e then runEntries u j ecc idle body (i + 1) es else
    let stopAt (st : Nat) : Act := withS fun s => seq [
      whenA (st != stILLEGAL && st != stPLACE) (forA ((e :: es).zipIdx.flatMap fun x => entryOuts s u j.ticket j.desc (i + x.2) x.1) fun r =>
        loseOuts u { j with outs := [r] }), endRunningAt u st i]
    withCtx j.ticket e.ctx (withS fun s => seq [runsE u j.ticket ecc (fun c => body c i s e), match result (body ecc i s e) with
      | .ok a => seq [a, runEntries u j ecc idle body (i + 1) es]
      | .error x => seq [noteStop u j.ticket x, stopAt x.st]]) stopAt

/-- Run a batch job: the list is read, an empty one gives EMPTY, then every entry is taken in order. -/
def runBatch (u : Nat) (j : Job) (ecc : Ecc) (idle : Entry → Bool) (body : List Entry → Ecc → Nat → State → Entry → Rd Act) :
    Act := withS fun s => seq [runsE u j.ticket ecc (fun c => batchE s u j.ticket c j.desc), match result (batchE s u j.ticket ecc j.desc) with
  | .error x => seq [noteStop u j.ticket x, endRunning u x.st]
  | .ok [] => endRunning u stEMPTY
  | .ok es => runEntries u j ecc idle (body es) 0 es]

/-- The running KV job of unit `u` with opcode `op`. [DESIGN CHOICE: log entries 23, 224] -/
def onKv (u op : Nat) (k : Job → Act) : Act := withS fun s => match workingJob s u op with
  | some j => if s.eng.failedKv.contains (kvDie u) then endRunning u stENG_FAIL else k j
  | none => skip

def noQueries (e : Entry) : Bool := e.qrows == 0

/-- APPEND (R240). -/
def execAppend (u : Nat) (ecc : Ecc) (s : State) : Host.Outcome State Fault Refusal :=
  perform (Instr.wellFormed (.append u ecc)) (onKv u 0x60 fun j =>
    runBatch u j ecc noQueries fun _ ecc _ s e => appendEntry s u j.ticket ecc j.desc e) s

/-- ATTN (R255). -/
def execAttn (u : Nat) (r : KvReads) (s : State) : Host.Outcome State Fault Refusal :=
  perform (Instr.wellFormed (.attn u r)) (onKv u 0x61 fun j =>
    runBatch u j r.ecc noQueries fun _ ecc i s e => attnEntry s u j.ticket ecc r.races j.kept i j.desc e) s

/-- What a retrieval that is suspended keeps (R262): it has reached the end of the selection for the first head group of its first entry
with queries. [DESIGN CHOICE: log entry 244] -/
def keptSelection (s : State) (u : Nat) (j : Job) : SMap Selection :=
  let d := j.desc
  if !(isKvUnit u) || dOpcode d != 0x61 || !(kvRetrieve d) || !j.kept.isEmpty then j.kept else
  match result (batchE s u j.ticket ⟨[], []⟩ d) with
  | .error _ => []
  | .ok es => match es.zipIdx.find? fun x => !(noQueries x.1) with
    | none => []
    | some (e, i) =>
      let sn : Rd Selection := do
        let c ← ctxE s d e
        let freq ← freqE s u j.ticket ⟨[], []⟩ d
        let qrows ← queriesE s u j.ticket ⟨[], []⟩ d c e
        let m ← maskE s u j.ticket ⟨[], []⟩ c e.qrows
        selectE s u j.ticket ⟨[], []⟩ d m c e (kvH0 d) (groupHeads d c freq e qrows 0)
      match result sn with
      | .ok x => [(keptKey i (kvH0 d), x)]
      | .error _ => []

/-- ATTN_BWD (R257). -/
def execAttnBwd (u : Nat) (r : KvReads) (s : State) : Host.Outcome State Fault Refusal :=
  perform (Instr.wellFormed (.attnBwd u r)) (onKv u 0x62 fun j =>
    runBatch u j r.ecc noQueries fun es ecc _ s e =>
      bwdEntry (2 ≤ (es.filter fun x => x.ctx == e.ctx && x.qrows != 0).length) s u j.ticket ecc r.races j.desc e) s

/-! ### CTX (R237, R238) -/

/-- Run a CTX job of operation `op`. Its operations apply to an entry with QROWS 0 as to any other. [DEDUCED: log entry 241] -/
def onCtx (u op : Nat) (ecc : Ecc) (body : Job → Ecc → Nat → State → Entry → Rd Act) : Act := onKv u 0x63 fun j =>
  if dOpx j.desc = op then runBatch u j ecc (fun _ => false) (fun _ c i s e => body j c i s e) else skip

/-- The memory of entry `i` of a WRITE or READ. [DEDUCED: log entry 43] -/
def ctxMem (j : Job) (i : Nat) : Nat := dField j.desc 1 47 0 + 128 * i

/-- CTX WRITE: the context takes the 128 bytes, IN_BATCH and GROUP excepted. -/
def execCtxWrite (u : Nat) (ecc : Ecc) (s : State) : Host.Outcome State Fault Refusal :=
  perform (Instr.wellFormed (.ctxWrite u ecc)) (onCtx u 0 ecc fun j ecc i s e => do
    let b ← readE s u j.ticket ecc (ctxMem j i) 128
    let c := ctxBytes s e.ctx
    return putCtx e.ctx (cSetBatch b (cInBatch c) (cGroup c))) s

/-- CTX READ. -/
def execCtxRead (u : Nat) (ecc : Ecc) (s : State) : Host.Outcome State Fault Refusal :=
  perform (Instr.wellFormed (.ctxRead u ecc)) (onCtx u 1 ecc fun j ecc i s e => do
    needE (ctxOk (ctxBytes s e.ctx)) stILLEGAL
    writeE s u j.ticket ecc (ctxMem j i) 128
    return writeRange (ctxMem j i) (ctxBytes s e.ctx)) s

/-- CTX ADVANCE. -/
def execCtxAdvance (u : Nat) (ecc : Ecc) (s : State) : Host.Outcome State Fault Refusal :=
  perform (Instr.wellFormed (.ctxAdvance u ecc)) (onCtx u 2 ecc fun _ _ _ s e => do
    let c := ctxBytes s e.ctx
    needE (ctxOk c) stILLEGAL
    needE (cLength c + e.qrows ≤ 1048576) stTOO_LONG
    return putCtx e.ctx (cSetLength c (cLength c + e.qrows))) s

/-- Change the PTEs of the present pages of blocks `bs` of a context; the page list has no entry at or above PL_CAP. -/
def eachPage (u : Nat) (j : Job) (ecc : Ecc) (s : State) (c : List Byte) (bs : List Nat) (f : Nat → PageRef → Act) :
    Rd Act := do
  let acts ← mapE (fun b => mapE (fun h => if cPlCap c ≤ b * cLh c + h then pure skip else do
    let p ← pageE s u j.ticket ecc c (b * cLh c + h)
    if p.present then
      let _ ← writeE s u j.ticket ecc p.pteAddr 8
      return f b p
    else return skip) (List.range (cLh c))) bs
  return seq (acts.map seq)

/-- CTX TRUNCATE (R238). -/
def execCtxTruncate (u : Nat) (ecc : Ecc) (s : State) : Host.Outcome State Fault Refusal :=
  perform (Instr.wellFormed (.ctxTruncate u ecc)) (onCtx u 3 ecc fun j ecc _ s e => do
    let c := ctxBytes s e.ctx
    needE (ctxOk c && e.qrows ≤ cLength c) stILLEGAL
    let b0 := e.qrows / cTpp c
    let a ← eachPage u j ecc s c (tab (cBlocks c - b0) fun i => b0 + i) fun b p =>
      writeRange p.pteAddr (leBytes 8 (pteSetFill (pteBump p.pte) (if b = b0 then e.qrows % cTpp c else 0)))
    return seq [a, putCtx e.ctx (cSetLength c e.qrows)]) s

/-- The number of pinned entries after pinning `c`. -/
def wouldPin (s : State) (c : Nat) : Nat :=
  match mget s.hot.entries c with
  | some e => if e.pinSw || e.pinPlan then pinnedCount s else pinnedCount s + 1
  | none => pinnedCount s + 1

/-- Set the software pin of a held context. -/
def pinSw (c : Nat) (on : Bool) : Act := updHot fun h => match mget h.entries c with
  | some e => { h with entries := mset h.entries c { e with pinSw := on } }
  | none => h

/-- CTX PIN (R226). -/
def execCtxPin (u : Nat) (ecc : Ecc) (s : State) : Host.Outcome State Fault Refusal :=
  perform (Instr.wellFormed (.ctxPin u ecc)) (onCtx u 4 ecc fun _ _ _ s e => do
    needE (ctxOk (ctxBytes s e.ctx)) stILLEGAL
    needE (wouldPin s e.ctx ≤ 3584) stPIN_FULL
    return pinSw e.ctx true) s

/-- CTX UNPIN. -/
def execCtxUnpin (u : Nat) (ecc : Ecc) (s : State) : Host.Outcome State Fault Refusal :=
  perform (Instr.wellFormed (.ctxUnpin u ecc)) (onCtx u 5 ecc fun _ _ _ s e => do
    needE (ctxOk (ctxBytes s e.ctx)) stILLEGAL
    return pinSw e.ctx false) s

/-- CTX RELEASE: every present page is freed, and LENGTH becomes 0. -/
def execCtxRelease (u : Nat) (ecc : Ecc) (s : State) : Host.Outcome State Fault Refusal :=
  perform (Instr.wellFormed (.ctxRelease u ecc)) (onCtx u 6 ecc fun j ecc _ s e => do
    let c := ctxBytes s e.ctx
    needE (ctxOk c) stILLEGAL
    let _ ← writeOk s u j.ticket ecc (cPlHead c) (4 * min (cPlCap c) (cBlocks c * cLh c))
    let a ← eachPage u j ecc s c (List.range (cBlocks c)) fun _ p => seq [
      writeRange p.pteAddr (leBytes 8 (clearBit (pteBump p.pte) 62)),
      charge u j.ticket true (cPlHead c + 4 * p.lp) 4, writeRange (cPlHead c + 4 * p.lp) (leBytes 4 (clearBit p.entry 31))]
    return seq [a, putCtx e.ctx (cSetLength c 0)]) s

/-- CTX SUMMARY (R242). A context without a coarse index has none to write: the entry ends normally. [DEDUCED: log entry 242] -/
def execCtxSummary (u : Nat) (ecc : Ecc) (s : State) : Host.Outcome State Fault Refusal :=
  perform (Instr.wellFormed (.ctxSummary u ecc)) (onCtx u 7 ecc fun j ecc _ s e => do
    let c := ctxBytes s e.ctx
    needE (ctxOk c) stILLEGAL
    let acts ← mapE (fun b => mapE (fun h => do
      let p ← pageE s u j.ticket ecc c (b * cLh c + h)
      needE (p.owned e.ctx) stNO_PAGE
      let _ ← readE s u j.ticket ecc p.addr (pteFill p.pte * cRow c)
      let _ ← if pteFill p.pte = 0 then pure () else writeE s u j.ticket ecc (cIdx c + 64 * p.lp) 64
      return whenA (pteFill p.pte != 0) (putSummary c p (pteFill p.pte))) (kvHeads j.desc))
      (if cIdx c = 0 then [] else List.range (cBlocks c))
    return seq (acts.map seq)) s

/-! ### The KV check (R263 to R265) -/

/-- Operand `i` of the KV check that the manual does not give. [DESIGN CHOICE: log entry 40] -/
def kvCheckFree (i : Nat) : Nat := (Config.kvCheck i).toNat

/-- The KV format of step `st` (R263). -/
def kvCheckFmt (st : Nat) : Nat := [2, 1, 3, 4].getD (st % 4) 2

/-- The context that the check of step `st` stands for: 256 tokens, D = 64 (R263). [DESIGN CHOICE: log entry 40] -/
def kvCheckCtx (st : Nat) : List Byte :=
  leBytes 8 (256 + kvCheckFmt st * 2 ^ 35) ++ leBytes 8 0 ++ leBytes 8 (kvCheckFree 4) ++ leBytes 16 0
    ++ leBytes 4 (kvCheckFree 2) ++ leBytes 4 (kvCheckFree 3) ++ leBytes 16 0

/-- The ATTN descriptor that it stands for: CAUSAL by s mod 2, ROPE from step 4 on, ROPE_IL from step 12 on (R263). [DESIGN CHOICE: log entry 40] -/
def kvCheckDesc (st : Nat) : List Byte :=
  leBytes 8 (0x61 + (if 4 ≤ st then 2 ^ 8 else 0) + st % 2 * 2 ^ 10 + kvCheckFree 0 % 3 * 2 ^ 12) ++ leBytes 16 0
    ++ leBytes 8 (kvCheckFree 1 * 2 ^ 32) ++ leBytes 16 0 ++ leBytes 8 (kvCheckFree 5 % 33 * 2 ^ 32 + (if 12 ≤ st then 2 ^ 40 else 0)) ++ leBytes 8 0

/-- Row `r` of operand `o` (0 Q, 1 K, 2 V) in format `f`: 64 codes generated as in R166 (R263). -/
def kvCheckRow (st o f r : Nat) : List Val := tab 64 fun k => elemVal f (goldCode f (0x60D10000 + 16 * st + o) (r * 64 + k))

/-- Outputs and statistics of query row `r` of step `st`, the last 64 positions of the context being the queries (R232, R263). [DEDUCED: log entry 41] -/
def kvCheckOut (st : Nat) (pages : List Page) (r : Nat) : List Nat × Nat × Nat :=
  let d := kvCheckDesc st
  let c := kvCheckCtx st
  let q := ropeIf d (tab 32 fun i => kvCheckFree (6 + i)) (cPosBase c + 192 + r) false ((kvCheckRow st 0 (kvQFmt d) r).map f32)
  attnRow d c .none 192 r q pages

/-- The signature of KV check step `st` on a unit without a fault: the CRC-64 of R168 over the outputs, then the statistics (R263). [DESIGN CHOICE: log entry 40] -/
def kvSig (st : Nat) : Nat :=
  let f := kvCheckFmt st
  let n := cTpp (kvCheckCtx st)
  let pages := tab (256 / n) fun b => ⟨b, tab n fun t => kvCheckRow st 1 f (b * n + t), tab n fun t => (kvCheckRow st 2 f (b * n + t)).map f32⟩
  let outs := tab 64 (kvCheckOut st pages)
  crc64Words (outs.flatMap (·.1) ++ outs.flatMap fun o => [o.2.1, o.2.2])

/-- The error collector compares the signature of the KV check of this frame (R263 to R265). [DEDUCED: log entry 39] -/
def execKvCheckCompare (d step : Nat) (wrong : Option (Option Nat)) (s : State) : Host.Outcome State Fault Refusal :=
  perform (Instr.wellFormed (.kvCheckCompare d step wrong)) (withS fun s =>
    let u := 36 + d
    let want := s.get (KV_GOLD_SIG_SIG d step)
    let test := s.eng.kvSigTest.contains d
    let expect := if test then 2 ^ 64 - 1 - want else want
    if step != s.frameIdx || s.get (KV_STATUS_STATE d) != 1 || !(safeRunning s u) || s.plan.compared.contains u then skip
    else seq [compared u, match shownSig (kvSig step) wrong with
      | none => seq [setF (KV_GOLD_STAT_MISSING d) 1, countF (KV_GOLD_STAT_FAIL_CNT d) 1,
          reportGolden d u step false true true, assertWire 0 d, failKv d stENG_FAIL]
      | some v =>
        if test then seq [updEng (fun x => { x with kvSigTest := x.kvSigTest.filter (fun y => y != d) }),
          if v = expect then carouselCompared (98 + d) step false
          else seq [setF (KV_GOLD_STAT_TEST_SEEN d) 1, reportGolden d u step true false false,
            carouselCompared (98 + d) step true, safeDone u]]
        else if v = expect then safeDone u
        else seq [setF (KV_GOLD_STAT_MISMATCH d) 1, countF (KV_GOLD_STAT_FAIL_CNT d) 1,
          reportGolden d u step false false true, assertWire 0 d, failKv d stENG_FAIL]]) s

/-- `n` of the steps that KV unit `d` has run do not match (R264). -/
def kvGoldFailed (d : Nat) (ran : List (Nat × Option Nat)) (n : Nat) : Act := seq [
  whenA (ran.any fun x => x.2.isNone) (setF (KV_GOLD_STAT_MISSING d) 1),
  setF (KV_GOLD_STAT_MISMATCH d) 1, countF (KV_GOLD_STAT_FAIL_CNT d) n]

/-- A KV_GOLD descriptor (R264). -/
def execKvGold (u : Nat) (wrong : List (Nat × Option Nat)) (s : State) : Host.Outcome State Fault Refusal :=
  perform (Instr.wellFormed (.kvGold u wrong)) (onKv u 0x64 fun j => withS fun s =>
    let d := kvDie u
    let sigOf (st : Nat) : Option Nat := shownSig (kvSig st) (wrongAt wrong st)
    let sts := stepsOf (stepMask j.desc)
    let bad := sts.filter fun st => sigOf st != some (s.get (KV_GOLD_SIG_SIG d st))
    if bad.isEmpty then endRunning u stDONE
    else seq [kvGoldFailed d (sts.map fun st => (st, sigOf st)) bad.length, failKv d stGOLD_FAIL]) s

/-- A write of 1 to SIG_TEST of KV_CTRL (R265). -/
def execKvSigTest (init tkt d : Nat) (s : State) : Host.Outcome State Fault Refusal :=
  perform (Instr.wellFormed (.kvSigTest init tkt d)) (islandWrite init tkt (pageKV d) 0x010 2
    (updEng fun x => { x with kvSigTest := d :: x.kvSigTest.filter (fun y => y != d) })) s

end Sys2Proof.Machine
end

