-- ==== Sys2Proof/Machine/Crc.lean ====
section
/-! DEFINITION. The CRC32C of R518. -/

namespace Sys2Proof.Machine

/-- One byte into the reflected CRC32C. -/
def crc32cByte (c : Nat) (b : Byte) : Nat :=
  (List.range 8).foldl (fun c _ => if bit c 0 then Nat.xor (c / 2) 0x82F63B78 else c / 2) (Nat.xor c b.toNat)

/-- The CRC32C of a byte string (R518): initial value and final XOR all ones, reflected. -/
def crc32c (bs : List Byte) : Nat := Nat.xor (bs.foldl crc32cByte 0xFFFFFFFF) 0xFFFFFFFF

end Sys2Proof.Machine
end

