-- ==== Sys2Proof/Machine/Cache.lean ====
section
/-! DEFINITION. The caches L2 and L3 of the application cores (R23, R54, R329, R346, Table 2-3): the 64-byte lines that harts have
written and that are not written back yet. -/

namespace Sys2Proof.Machine

/-- The line of block `b`, an address of a stack window or the alias divided by 64, when it is dirty. -/
def State.line (s : State) (b : Nat) : Option Line := mget s.bus.lines b

def updLines (f : SMap Line → SMap Line) : Act := updBus fun b => { b with lines := f b.lines }

/-- The application cores cache this address (Table 2-3). -/
def cacheable (a : Nat) : Bool := match region a with
  | .stack _ _ => true
  | _ => false

/-- The 64 bytes of block `b`: of its dirty line, or as stored. -/
def blockBytes (s : State) (b : Nat) : List Byte := match s.line b with
  | some l => l.data
  | none => readRange s (64 * b) 64

/-- The blocks that `n` bytes from `a` touch. -/
def blocksOf (a n : Nat) : List Nat := if n = 0 then [] else tab ((a + n - 1) / 64 - a / 64 + 1) fun i => a / 64 + i

/-- The `n` bytes from `a` as a hart reads them. -/
def hartBytes (s : State) (a n : Nat) : List Byte := tab n fun i => (blockBytes s ((a + i) / 64)).getD ((a + i) % 64) 0#8

/-- A line is written back under the hart ID and ticket of its last write, and no firewall checks it again (R329). It leaves the
cache. What cannot be stored is lost. [DESIGN CHOICE: log entry 226] -/
def writeBackLine (b : Nat) : Act := withS fun s => match s.line b with
  | none => skip
  | some l => seq [updLines (fun m => mdel m b),
      whenA (usable s l.hart (64 * b) && !(pathDown s l.hart (64 * b)) && !(isRetired s (64 * b)))
        (seq [charge l.hart l.ticket true (64 * b) 64, writeRange (64 * b) l.data])]

/-- Every dirty line is written back. [DESIGN CHOICE: log entry 233] -/
def writeBackLines : Act := withS fun s => forA (s.bus.lines.map (·.1)) writeBackLine

/-- Other lines that hold the same bytes under the other name. -/
def aliasLines (s : State) (b : Nat) : List Nat :=
  (s.bus.lines.map (·.1)).filter fun c => c != b && phys s (64 * c) == phys s (64 * b)

/-- Hart `init` writes `bs`, bytes of block `b` from offset `o` on, under ticket `t`: the line takes them and records hart and ticket
(R329). With the block held under its other name too, its content is unpredictable (R54). -/
def writeLine (init t b o : Nat) (bs : List Byte) : Act := withS fun s =>
  let old := blockBytes s b
  match aliasLines s b with
  | [] => updLines fun m => mset m b ⟨tab 64 fun i => if o ≤ i ∧ i < o + bs.length then bs.getD (i - o) 0#8 else old.getD i 0#8, init, t⟩
  | cs => seq [updLines (fun m => mdel (mdelIf m fun k => cs.contains k) b), loseRange (64 * b) 64]

/-- Hart `init` writes `bs` from `a` on, line by line. -/
def writeLines (init t : Nat) : Nat → List Nat → List Byte → Act
  | _, [], _ => skip
  | a, b :: r, bs =>
    let n := 64 * (b + 1) - a
    seq [writeLine init t b (a % 64) (bs.take n), writeLines init t (64 * (b + 1)) r (bs.drop n)]

/-- The blocks of a range that are not in the caches are fetched; the first that fails decides. A block that a write covers whole
need not be read (R86). [DESIGN CHOICE: log entry 233] -/
def fetchLines (s : State) (init t : Nat) (write : Bool) (ecc : Ecc) (a n : Nat) : Nat × Nat × Nat :=
  (((blocksOf a n).filter fun b => (s.line b).isNone).map fun b =>
    let full : Bool := write && a ≤ 64 * b && 64 * (b + 1) ≤ a + n
    checkRange s init t (if write then 1 else 0) (if full then ⟨[], []⟩ else ecc) (max a (64 * b)) (min (a + n) (64 * (b + 1)) - max a (64 * b))).find?
    (fun r => r.1 != 0) |>.getD (0, a, 0)

/-- The lines that an access to `n` bytes from `a` finds held with an error at one of the locations `bs`, but those that it writes whole
(Table 19-14). [DESIGN CHOICE: log entry 251] -/
def heldErrors (s : State) (write : Bool) (bs : List Nat) (a n : Nat) : List Nat := (blocksOf a n).filter fun b =>
  (s.line b).isSome && bs.any (fun e => phys s (64 * b) ≤ e && e < phys s (64 * b) + 64) && !(write && a ≤ 64 * b && 64 * (b + 1) ≤ a + n)

/-- Errors that hart `init`'s L2 corrects, or cannot correct, count at its cluster (Table 19-14). [DESIGN CHOICE: log entry 251] -/
def countL2 (init : Nat) (corrected : Bool) (n : Nat) : Act :=
  let c := (init - 0x080) / 4
  countF (if corrected then CL_ECC_CNT_CORR c else CL_ECC_CNT_UNCORR c) n

end Sys2Proof.Machine
end

