-- ==== Sys2Proof/Machine/Gates.lean ====
section
/-! DEFINITION. The gate control lists of the ring ports (R523, R524). -/

namespace Sys2Proof.Machine

/-- Grid cycles from one grid point to the next (R497). -/
def pointCycles : Nat := 137500

/-- The entries of ring `r`'s gate control list as spans of the cycle: start, end, gates (R523). -/
def gateSpans (s : State) (r : Nat) : List (Nat × Nat × Nat) :=
  let es := ((List.range 16).map fun e => (s.get (TT_GCL_INTERVAL (16 * r + e)), s.get (TT_GCL_GATES (16 * r + e)))).filter fun e => e.1 != 0
  let go := es.foldl (fun (p : Nat × List (Nat × Nat × Nat)) e => (p.1 + e.1, p.2 ++ [(p.1, p.1 + e.1, e.2)])) (0, [])
  go.2.zipIdx.map fun q => (q.1.1, if q.2 + 1 = go.2.length ∧ q.1.2.1 < pointCycles then pointCycles else min q.1.2.1 pointCycles, q.1.2.2)

/-- The longest time for which the gate of class `c` stays open in a cycle. [DEDUCED: log entry 121] -/
def gateRoom (s : State) (r c : Nat) : Nat :=
  ((gateSpans s r).foldl (fun (p : Nat × Nat) g => if g.1 < g.2.1 ∧ bit g.2.2 c then (p.1 + (g.2.1 - g.1), max p.2 (p.1 + (g.2.1 - g.1))) else (0, p.2)) (0, 0)).2

/-- A frame of `n` bytes on the wire, each 3.2 ns, finds the gate of class `c` open long enough in some span (R523). [DEDUCED: log entry 121] -/
def gatePasses (s : State) (r c n : Nat) : Bool := ceilDiv (352 * n) 100 ≤ gateRoom s r c

end Sys2Proof.Machine
end

