-- ==== Sys2Proof/Machine/Time.lean ====
section
/-! DEFINITION. The time unit (R357 to R381): the device time counter, the servo, holdover, captures and pulses. -/

namespace Sys2Proof.Machine

/-- Page number of TM_. -/
def pageTM : Nat := 8

/-- The INC of a rate adjustment (R365). -/
def incOf (adj : Int) : Nat := ((incNom : Int) + Int.tdiv ((incNom : Int) * adj) (1000000000 * 65536)).toNat

/-- The servo's limit in 2⁻¹⁶ ppb; a LIM_PPB above 250,000 is read as 250,000 (R373). -/
def servoLim (s : State) : Int := (min (s.get TM_LIM_LIM_PPB) 250000 : Nat) * 65536

/-- The frequency term i, clamped to the limit (R365, R376). -/
def clampedI (s : State) : Int := clampI (-servoLim s) (servoLim s) (toSigned 48 (s.get TM_FREQ_I))

/-- The INC used from the next grid cycle on (R364, R365). -/
def refreshInc : Act := fun s =>
  [.setTime { s.time with inc := if s.is TM_CTRL_SERVO_EN then incOf s.time.adj else s.get TM_INC_INC }]

/-- adj follows i until the next accepted Sync (R365). -/
def adjFollowsI : Act := seq [fun s => [.setTime { s.time with adj := clampedI s }], refreshInc]

/-- The counter after `n` grid cycles of INC `inc` (R364). -/
def TimeSt.advance (t : TimeSt) (n : Nat) : TimeSt :=
  let acc := (2 ^ 32 * t.ns + t.sub) + n * t.inc
  let ns := acc / 2 ^ 32
  { t with sec := (t.sec + ns / 1000000000) % 2 ^ 48, ns := ns % 1000000000, sub := acc % 2 ^ 32, frac := acc % 2 ^ 32 / 2 ^ 16 }

/-- A ticket's bucket and the cover time of its oldest request after `n` grid cycles from `now` (R334, R344). -/
def TsEntry.refill (e : TsEntry) (rate burst now n : Nat) : TsEntry :=
  if rate = 0 then e else
  let cover (w : Waiting) : Waiting := match w.covered with
    | .some _ => w
    | .none =>
      if 11 * w.bytes ≤ e.level then { w with covered := some now }
      else if 11 * w.bytes ≤ 11 * burst ∧ 11 * w.bytes ≤ e.level + n * rate then
        { w with covered := some (now + ceilDiv (11 * w.bytes - e.level) rate) }
      else w
  { e with level := min (e.level + n * rate) (11 * burst), waiting := match e.waiting with
    | [] => []
    | w :: ws => cover w :: ws }

/-- The entries with every level at most 11 × BURST where software has written RATE or BURST since the last grid cycle (R341). -/
def settled (s : State) : SMap TsEntry := s.ts.entries.map fun q =>
  (q.1, if (mget s.ts.before q.1).isSome then { q.2 with level := min q.2.level (11 * tsBurst s (q.1 / 64) (q.1 % 64)) } else q.2)

/-- Every bucket after `n` grid cycles. -/
def refillAll (s : State) (n : Nat) : SMap TsEntry :=
  (settled s).map fun q => (q.1, q.2.refill (tsRate s (q.1 / 64) (q.1 % 64)) (tsBurst s (q.1 / 64) (q.1 % 64)) s.grid.now n)

/-- `n` cycles of the frame grid: device time, buckets, MTIME (R334, R364, R678); the dirty lines of the application cores are written
back. Before the core PLL locks the clocks stand (R359). [DESIGN CHOICE: log entries 18, 227, 233] -/
def execGridCycle (n : Nat) (s : State) : Host.Outcome State Fault Refusal :=
  perform (Instr.wellFormed (.gridCycle n)) (withS fun s => if s.boot.step = 1 ∨ n = 0 then skip else seq [
    writeBackLines,
    fun s => [.setTs { s.ts with entries := refillAll s n, before := [] }],
    updTime (fun t => { t.advance n with mtime := (t.mtime + ((s.grid.now + n) / 11 - s.grid.now / 11)) % 2 ^ 64 }),
    refreshInc,
    updGrid (fun g => { g with now := g.now + n })]) s

/-! ### Pulse outputs (R380, R381) -/

/-- A pulse output that is idle. -/
def Pulse.idle : Pulse := ⟨false, false, 0, 0, 0, none, 0⟩

/-- Output `j`. -/
def pulse (s : State) (j : Nat) : Pulse := (mget s.time.pulses j).getD Pulse.idle

def setPulse (j : Nat) (p : Pulse) : Act := updTime fun t => { t with pulses := mset t.pulses j p }

/-- The pin of TPULSE[j] takes a level. -/
def drivePulse (j : Nat) (lv : Bool) : Act := send 2 j [BitVec.ofNat 8 (ofBool lv)]

/-- What output `j` does: 0 OFF, 1 ONCE, 2 PERIODIC, 3 GRID; PERIODIC with a period of 0 acts as ONCE (Tables 9-4 and 9-8). -/
def pulseMode (s : State) (j : Nat) : Nat :=
  if s.get (TM_PULSE_CFG_MODE j) = 2 ∧ s.get (TM_PULSE_PERIOD_PERIOD_NS j) = 0 then 1 else s.get (TM_PULSE_CFG_MODE j)

/-- The first START + n × PERIOD_NS at or after time `t`. -/
def nextPeriod (start period t : Nat) : Nat :=
  if t ≤ start ∨ period = 0 then start else start + ceilDiv (t - start) period * period

/-- The time of the next periodic rise of output `j`. -/
def nextRise (s : State) (j : Nat) : Nat := nextPeriod (s.get (TM_PULSE_START_START j)) (s.get (TM_PULSE_PERIOD_PERIOD_NS j)) s.timestamp

/-- The high time in ns: a periodic pulse is shorter than its period (R380). [DEDUCED: log entry 27] -/
def highTime (s : State) (j : Nat) : Nat :=
  let h := s.get (TM_PULSE_CFG_HIGH_NS j)
  let p := s.get (TM_PULSE_PERIOD_PERIOD_NS j)
  if pulseMode s j = 2 ∧ p ≤ h then p - 1 else h

/-- A high output is due to fall: HIGH_NS after its rise, a HIGH_NS of 0 one grid cycle after it. [DEDUCED: log entry 27] -/
def fallDue (s : State) (j : Nat) : Bool :=
  if s.get (TM_PULSE_CFG_HIGH_NS j) = 0 then (pulse s j).riseCycle < s.grid.now else (pulse s j).riseAt + highTime s j ≤ s.timestamp

/-- The control frame boundary at hand is one of every DIV-th, counted from frame index 0 of major frame 0. [DEDUCED: log entry 27] -/
def gridBoundary (s : State) (j : Nat) : Bool :=
  s.grid.running && (20 * s.major + s.frameIdx) % max 1 (s.get (TM_PULSE_CFG_DIV j)) == 0

/-- The programmed time of the rise of output `j` that is due now, if one is. [DEDUCED: log entry 27] -/
def riseDue (s : State) (j : Nat) : Option Nat :=
  let p := pulse s j
  let start := s.get (TM_PULSE_START_START j)
  if pulseMode s j = 1 then (if !p.fired && start ≤ s.timestamp then some start else none)
  else if pulseMode s j = 2 then (if p.next ≤ s.timestamp then some p.next else none)
  else if pulseMode s j = 3 ∧ gridBoundary s j ∧ p.gridAt ≠ some s.grid.boundaryAt ∧ s.get (TM_PULSE_CFG_OFFSET j) ≤ s.grid.now - s.grid.boundaryAt then some s.timestamp
  else none

/-- Output `j` rises, its programmed time being `t`. -/
def rise (j t : Nat) : Act := withS fun s => seq [
  setPulse j { pulse s j with level := true, fired := true, riseAt := t, riseCycle := s.grid.now, next := t + s.get (TM_PULSE_PERIOD_PERIOD_NS j), gridAt := some s.grid.boundaryAt },
  drivePulse j true]

/-- After a load or step of device time from `t0`, a ONCE pulse whose START was passed fires at once, and a periodic output next fires
at the first of its times at or after the new time (R381). [DEDUCED: log entry 214] -/
def pulsesAfterStep (t0 : Nat) : Act := forA (List.range 8) fun j => withS fun s =>
  if pulseMode s j = 1 ∧ !(pulse s j).fired ∧ t0 < s.get (TM_PULSE_START_START j) ∧ s.get (TM_PULSE_START_START j) ≤ s.timestamp then rise j s.timestamp
  else if pulseMode s j = 2 then setPulse j { pulse s j with next := nextRise s j }
  else skip

/-- An edge of TPULSE[j] falls when it is due: the end of the pulse when the pin is high, a rise when it is low (R380). [DEDUCED: log entry 27] -/
def execTpulseEdge (j : Nat) (s : State) : Host.Outcome State Fault Refusal :=
  perform (Instr.wellFormed (.tpulseEdge j)) (withS fun s =>
    let p := pulse s j
    if pulseMode s j = 0 ∨ s.grid.now ≤ p.setAt then skip
    else if p.level then
      (if fallDue s j then seq [setPulse j { p with level := false }, drivePulse j false, whenA (pulseMode s j == 1) (setF (TM_PULSE_CFG_MODE j) 0)] else skip)
    else match riseDue s j with
      | some t => rise j t
      | none => skip) s

/-- A write to word 0 (CFG), 1 (START) or 2 (PERIOD) of pulse output `j`: a pulse in progress is cut short, and edges follow the new
configuration from the next grid cycle on (R381). -/
def execPulseCfgWrite (init j word data : Nat) (s : State) : Host.Outcome State Fault Refusal :=
  perform (Instr.wellFormed (.pulseCfgWrite init j word data))
    (openWrite init (ticketOf s init) pageTM (0x400 + 32 * j + 8 * word) 8 (seq [
      if word = 0 then seq [setF (TM_PULSE_CFG_OFFSET j) (field data 63 44), setF (TM_PULSE_CFG_DIV j) (field data 43 32),
        setF (TM_PULSE_CFG_HIGH_NS j) (field data 31 2), setF (TM_PULSE_CFG_MODE j) (field data 1 0)]
      else if word = 1 then setF (TM_PULSE_START_START j) data
      else setF (TM_PULSE_PERIOD_PERIOD_NS j) (field data 31 0),
      whenA (pulse s j).level (drivePulse j false),
      withS fun s => setPulse j { Pulse.idle with next := nextRise s j, gridAt := (pulse s j).gridAt, setAt := s.grid.now }])) s

/-! ### Loads and steps -/

/-- Device time is stepped by `-o`, `o` in 2⁻¹⁶ ns (R374). [DEDUCED: log entry 214] -/
def stepTime (o : Int) : Act := withS fun s =>
  let t0 := s.timestamp
  let v := ((65536 * (1000000000 * s.time.sec + s.time.ns) + s.time.frac : Nat) - o).toNat
  seq [updTime (fun t => { t with sec := v / 65536 / 1000000000 % 2 ^ 48, ns := v / 65536 % 1000000000, frac := v % 65536, sub := 65536 * (v % 65536) + t.sub % 65536 }),
    raiseInt pageTM 2, pulsesAfterStep t0]

/-- A write to TM_TIME_NS loads device time and sets STEPPED, or is refused while a plan is in force (R367, R369, Table 9-6). [DEDUCED: log entry 214] -/
def execTimeLoad (init tkt data : Nat) (s : State) : Host.Outcome State Fault Refusal :=
  perform (Instr.wellFormed (.timeLoad init tkt data)) (openWrite init tkt pageTM 0x108 8 (withS fun s =>
    if s.planOn then seq [raiseInt pageTM 3, errWindow pageTM 2 init tkt 0x108 data true]
    else seq [updTime (fun t => { t with sec := s.get TM_TIME_SEC_SEC, ns := field data 47 16, frac := field data 15 0, sub := 65536 * field data 15 0, latched := none }),
      raiseInt pageTM 2, pulsesAfterStep s.timestamp])) s

/-- A read of TM_TIME_SEC latches NS and FRAC (R369). -/
def execTimeSecRead (init : Nat) (s : State) : Host.Outcome State Fault Refusal :=
  perform (Instr.wellFormed (.timeSecRead init)) (reaching init (ticketOf s init) 0 (pageAddr pageTM 0x100) 8 (seq [
    updTime (fun t => { t with latched := some (65536 * t.ns + t.frac) }),
    respond init 0 (leBytes 8 s.time.sec)])) s

/-- The time unit enters holdover, unless it is in it (R375, R376). -/
def enterHoldover : Act := withS fun s =>
  if s.is TM_STATUS_HOLDOVER then skip else
  seq [setF TM_STATUS_HOLDOVER 1, setF TM_STATUS_LOCKED 0, adjFollowsI,
    updTime (fun t => { t with syncs := 0 }), raiseInt pageTM 0]

/-- An integer as signed 64-bit arithmetic holds it (R373). [PRESUMED: log entry 25] -/
def wrap64 (i : Int) : Int := toSigned 64 (ofSigned 64 i)

/-- One servo update with offset `o` (R373). -/
def servoUpdate (o : Int) : Act := withS fun s =>
  let e := wrap64 (-o)
  let lim := servoLim s
  let p := wrap64 (e * (s.get TM_SERVO_KP : Nat)) / 16
  let i := clampI (-lim) lim (wrap64 (toSigned 48 (s.get TM_FREQ_I) + wrap64 (e * (s.get TM_SERVO_KI : Nat)) / 16))
  seq [setF TM_FREQ_I (ofSigned 48 i), updTime (fun t => { t with adj := clampI (-lim) lim (wrap64 (i + p)) }),
    setF TM_STATUS_LOCKED 1, refreshInc]

/-- Ingress and egress times of raw timestamps at a port, in 2⁻¹⁶ ns (R371). [PRESUMED: log entry 16] -/
def ingress (s : State) (port : Nat) (raw : Int) : Int := raw - toSigned 32 (s.get (TM_PORT_LAT_LAT_IN port))
def egress (s : State) (port : Nat) (raw : Int) : Int := raw + toSigned 32 (s.get (TM_PORT_LAT_LAT_OUT port))

/-- delayAsymmetry of a port, and its mean path delay (R372). -/
def asymOf (s : State) (port : Nat) : Int := toSigned 32 (s.get (TM_PORT_ASYM_ASYM port))
def delayOf (s : State) (port : Nat) : Int := (mget s.time.pathDelay port).getD 0

/-- The engine takes messages of domain `d`: with PTP_EN 1, domain 0 under 802.1AS, else DOMAIN (Table 9-3). -/
def takesDomain (s : State) (d : Nat) : Bool :=
  s.is TM_CTRL_PTP_EN && d == (if s.is TM_CTRL_PROFILE then s.get TM_PTP_CFG_DOMAIN else 0)

/-- A message is discarded and counted (Table 9-3). -/
def discardMsg : Act := updTime fun t => { t with discarded := t.discarded + 1 }

/-- o of a Sync: local time of receipt less the master's origin time, corrected by the correctionField, the port's asymmetry and the
mean path delay (R372). [PRESUMED: log entry 25] -/
def masterOffset (s : State) (port : Nat) (m : SyncMsg) : Int :=
  wrap64 (ingress s port m.raw - m.origin - m.corr - asymOf s port - delayOf s port)

/-- What an accepted Sync with offset `o` from grandmaster `gm` does (R373, R374, R377). [PRESUMED: log entry 25] -/
def acceptSync (o : Int) (gm : Nat) : Act := withS fun s =>
  let big := (s.get TM_SERVO_STEP_THR : Int) < o.natAbs
  let mayStep := !s.planOn && s.is TM_CTRL_STEP_EN
  seq [setF TM_LAST_OFS_O (ofSigned 64 o),
    if s.is TM_STATUS_HOLDOVER then
      if gm != s.time.bestGm then skip
      else if big then seq [whenA mayStep (stepTime o), updTime fun t => { t with syncs := 0 }]
      else if s.time.syncs + 1 < max 1 (s.get TM_HOLD_HOLD_SYNCS) then updTime fun t => { t with syncs := t.syncs + 1 }
      else seq [setF TM_GM_ID_ID gm, whenA (gm != s.get TM_GM_ID_ID) (raiseInt pageTM 1), setF TM_STATUS_HOLDOVER 0,
        updTime (fun t => { t with syncs := 0 }), setF TM_STATUS_LOCKED (ofBool (s.is TM_CTRL_SERVO_EN))]
    else if !(s.is TM_CTRL_SERVO_EN) then skip
    else if big && mayStep then
      seq [stepTime o, fun s => [.setTime { s.time with adj := clampedI s }], refreshInc]
    else servoUpdate o]

/-- A received Sync of grandmaster `gm`: accepted on the port in the time receiver state, in the instance's domain; else discarded and counted (R370 to R377). -/
def execPtpSync (port : Nat) (m : SyncMsg) (gm : Nat) (s : State) : Host.Outcome State Fault Refusal :=
  perform (Instr.wellFormed (.ptpSync port m gm)) (withS fun s =>
    if !(takesDomain s m.domain) || s.time.rxPort != some port then discardMsg else acceptSync (masterOffset s port m) gm) s

/-- A received Announce; the best master choice of the standard now selects `selected`, and the port on which the
grandmaster it selects is heard is the one in the time receiver state (R370, R375). [DESIGN CHOICE: log entry 26] -/
def execPtpAnnounce (port : Nat) (m : AnnounceMsg) (selected : Nat) (s : State) : Host.Outcome State Fault Refusal :=
  perform (Instr.wellFormed (.ptpAnnounce port m selected)) (withS fun s =>
    if !(takesDomain s m.domain) then discardMsg
    else seq [updTime (fun t => { t with bestGm := selected, syncs := if selected == t.bestGm then t.syncs else 0, rxPort := if selected == m.gm then some port else t.rxPort }),
      whenA (selected != s.get TM_GM_ID_ID) enterHoldover]) s

/-- A PTP message with content `b` leaves on `port`; at the ports of the rings, 2 to 5, once the gate of class 6 lets it (R523, R524). [PRESUMED: log entry 215] -/
def sendPtp (port : Nat) (b : List Byte) : Act :=
  whenS (fun s => port < 2 || 6 ≤ port || gatePasses s (port - 2) 6 84) (send 3 port b)

/-- A delay or peer-delay message (R370 to R372): kind 0 Delay_Resp and 1 Pdelay_Resp_Follow_Up give the mean path delay from the four
times; kind 2 Delay_Req and 3 Pdelay_Req are answered with the time of receipt; 4 and 5 are the port's own Delay_Req and Pdelay_Req,
sent with their time; a message of any other kind is discarded and counted, and under 802.1AS one of the delay request-response
mechanism too. Times are raw, in 2⁻¹⁶ ns. ASYM enters a received Sync or Pdelay_Resp and leaves a sent request, so that it cancels in
the mean. [PRESUMED: log entry 215] -/
def execPtpDelayMessage (port : Nat) (h : DelayHeader) (t1 t2 t3 t4 : Int) (s : State) : Host.Outcome State Fault Refusal :=
  perform (Instr.wellFormed (.ptpDelayMessage port h t1 t2 t3 t4)) (withS fun s =>
    let asym := asymOf s port
    let put (d : Int) : Act := updTime fun t => { t with pathDelay := mset t.pathDelay port d }
    if !(takesDomain s h.domain) || 6 ≤ h.kind || (h.kind % 2 == 0 && !(s.is TM_CTRL_PROFILE)) then discardMsg
    else if h.kind = 0 then put (((ingress s port t2 - t1 - asym) + (t4 - egress s port t3 + asym)) / 2)
    else if h.kind = 1 then put (((ingress s port t4 - egress s port t1) - (t3 - t2)) / 2)
    else if h.kind = 2 || h.kind = 3 then sendPtp port (BitVec.ofNat 8 h.kind :: leBytes 8 (ofSigned 64 (ingress s port t2)))
    else sendPtp port (BitVec.ofNat 8 h.kind :: leBytes 8 (ofSigned 64 (egress s port t1)))) s

/-- At a sync interval of 2 to the power `x.logInterval` seconds, -7 to 2, a port that is not the time receiver sends Sync and Follow_Up with
its egress time (R370, R371, Table 9-3). [PRESUMED: log entry 215] -/
def execPtpSyncInterval (x : SyncSend) (s : State) : Host.Outcome State Fault Refusal :=
  perform (Instr.wellFormed (.ptpSyncInterval x)) (withS fun s =>
    let n := (mget s.time.ptpSeq x.port).getD 0
    if !(s.is TM_CTRL_PTP_EN) || s.time.rxPort == some x.port || decide (x.logInterval < -7) || decide (2 < x.logInterval) then skip
    else seq [
      sendPtp x.port (0x00#8 :: beBytes 2 n),
      sendPtp x.port (0x08#8 :: (beBytes 2 n ++ leBytes 8 (ofSigned 64 (egress s x.port ((65536 * s.timestamp : Nat) : Int))))),
      updTime fun t => { t with ptpSeq := mset t.ptpSeq x.port ((n + 1) % 65536) }]) s

/-- Missing Announce (kind 0) or Sync (kind 1) intervals (R375). -/
def execHoldoverTimeout (kind : Nat) (s : State) : Host.Outcome State Fault Refusal :=
  perform (Instr.wellFormed (.holdoverTimeout kind)) (withS fun s => whenA (s.is TM_CTRL_PTP_EN) enterHoldover) s

/-- The clock monitor declares the reference, or the PLL, lost (R360, R361, Table 14-4 CLOCK). -/
def execReferenceLost (pll : Bool) (s : State) : Host.Outcome State Fault Refusal :=
  perform (Instr.wellFormed (.referenceLost pll)) (seq [
    setF TM_STATUS_REF_LOST 1, whenA pll (setF TM_STATUS_PLL_LOCK 0), latchOwn 11]) s

/-- An edge (kind 0 rising, 1 falling) on TCAP[i] (R378, R379). -/
def execTcapEdge (i kind : Nat) (s : State) : Host.Outcome State Fault Refusal :=
  perform (Instr.wellFormed (.tcapEdge i kind)) (withS fun s =>
    let fifo := (mget s.time.fifo i).getD []
    let near : Bool := match mget s.time.lastEdge i with | some c => decide (s.grid.now < c + 8) | none => false
    if !(bit (s.get (TM_CAP_CFG_EDGE i)) kind) then skip
    else seq [updTime (fun t => { t with lastEdge := mset t.lastEdge i s.grid.now }),
      if near then skip
      else if 16 ≤ fifo.length then
        seq [setF (TM_CAP_STAT_OVF i) 1, countF (TM_CAP_STAT_LOST i) 1, raiseInt pageTM 4]
      else updTime fun t => { t with fifo := mset t.fifo i (fifo ++ [s.timestamp]) }]) s

/-- A read of TM_CAP_TS[i] removes the oldest entry; an empty FIFO reads 0 (R379). -/
def execCapTsRead (init i : Nat) (s : State) : Host.Outcome State Fault Refusal :=
  perform (Instr.wellFormed (.capTsRead init i)) (reaching init (ticketOf s init) 0 (pageAddr pageTM (0x308 + 16 * i)) 8
    (withS fun s => match (mget s.time.fifo i).getD [] with
      | [] => respond init 0 (leBytes 8 0)
      | t :: r => seq [updTime (fun x => { x with fifo := mset x.fifo i r }), respond init 0 (leBytes 8 t)])) s

end Sys2Proof.Machine
end

