-- ==== Sys2Proof/Machine/Turnstile.lean ====
section
/-! DEFINITION. Turnstiles and the guarantee monitor (R331 to R345), firewall windows and hart tickets (R327, R350 to
R352). -/

namespace Sys2Proof.Machine

/-- Planning bandwidth of a port in 0.1 GB/s, and its BURST limit (Table 8-4). -/
def portPB (p : Nat) : Nat := if p < 4 then 7372 else if p < 24 then 9000 else if p < 32 then 4608 else 2304
def portBurstLimit (p : Nat) : Nat := if p < 4 then 61440 else if p < 24 then 28672 else if p < 32 then 12288 else 6144

/-- Change the entry of port `p` and ticket `t`. -/
def updTsEntry (p t : Nat) (f : TsEntry → TsEntry) : Act := fun s =>
  [.setTs { s.ts with entries := mset s.ts.entries (64 * p + t) (f (tsEntry s p t)) }]

/-- Admitting `n` more bytes keeps ticket `t` within its budget (R335). -/
def within (s : State) (p t n : Nat) : Bool := effBudget s p t == 0 || (tsEntry s p t).used + n ≤ effBudget s p t

/-- A request arrives at port `p`: queued by ticket and counted as demand (R335, R343). [DEDUCED: log entry 213] -/
def arrive (p : Nat) (a : Arrived) : Act := fun s =>
  let e := tsEntry s p a.ticket
  let cov := if (rateNow s p a.ticket).1 != 0 && 11 * a.bytes ≤ e.level && e.waiting.isEmpty then some s.grid.now else none
  [.setTs { s.ts with entries := mset s.ts.entries (64 * p + a.ticket) { e with waiting := e.waiting ++ [⟨s.ts.arrivals, a.bytes, cov, false⟩], demand := e.demand + a.bytes } }]

/-- The class A candidate (R335): of guaranteed tickets whose bucket covers their oldest request within budget, the one
with the oldest arrival, lower tickets first on ties. [DEDUCED: log entry 213] -/
def classA (s : State) (p : Nat) : Option Nat :=
  (List.range 64).foldl (fun best t => match (tsEntry s p t).waiting with
    | [] => best
    | w :: _ =>
      if (rateNow s p t).1 != 0 && 11 * w.bytes ≤ (tsEntry s p t).level && within s p t w.bytes then
        match best with
        | none => some t
        | some b => match (tsEntry s p b).waiting with
          | [] => some t
          | v :: _ => if w.order < v.order then some t else best
      else best) none

/-- Class B admissions at the port may go on: the memory or link cap of the window is not used up (R610). -/
def classBOpen (s : State) (p : Nat) : Bool := match mget s.pw.caps p with
  | some cap => (mget s.ts.classB p).getD 0 < cap
  | none => true

/-- The class B candidate: round robin after the ticket admitted last (R335). -/
def classB (s : State) (p : Nat) : Option Nat :=
  if !(classBOpen s p) then none else
  ((List.range 64).map fun i => ((mget s.ts.lastB p).getD 0 + i + 1) % 64).find? fun t =>
    match (tsEntry s p t).waiting with
    | [] => false
    | w :: _ => within s p t w.bytes

/-- The cap of the port stops a request that class B would let in: its power class is throttled in this window (R606). -/
def capStops (p : Nat) : Act := whenS (fun s => !(classBOpen s p) && (List.range 64).any fun t => match (tsEntry s p t).waiting with
    | [] => false
    | w :: _ => within s p t w.bytes)
  (updTs fun x => { x with capped := p :: x.capped.filter fun y => y != p })

/-- Ticket `t`'s oldest request at port `p` is admitted; class A pays from the bucket (R334, R335). -/
def grant (p t : Nat) (pay : Bool) : Act := withS fun s => match (tsEntry s p t).waiting with
  | [] => skip
  | w :: r => updTsEntry p t fun e =>
    let lv := if pay then e.level - 11 * w.bytes else e.level
    { e with level := lv, used := e.used + w.bytes, admitted := e.admitted + w.bytes, waiting := match r with
      | [] => []
      | v :: vs => { v with covered := if (rateNow s p t).1 != 0 && 11 * v.bytes ≤ lv then some s.grid.now else v.covered } :: vs }

/-- Tickets whose oldest request waits because its budget is used up are marked for HOLDS (R336). -/
def markHeld (p : Nat) : Act := forA (List.range 64) fun t => withS fun s => match (tsEntry s p t).waiting with
  | [] => skip
  | w :: _ => whenA (!(within s p t w.bytes)) (updTsEntry p t fun e => { e with held := true })

/-- Requests arrive at a port, all of one command in one cycle, and the turnstile admits one that waits (R332, R335). [DEDUCED: log entry 213] -/
def execTurnstileAdmit (port : Nat) (arrivals : List Arrived) (s : State) : Host.Outcome State Fault Refusal :=
  perform (Instr.wellFormed (.turnstileAdmit port arrivals)) (seq [
    forA arrivals (arrive port),
    updTs (fun t => { t with arrivals := t.arrivals + 1 }),
    markHeld port,
    withS fun s => match classA s port with
      | some t => grant port t true
      | none => match classB s port with
        | some t => seq [
            updTs (fun x => { x with lastB := mset x.lastB port t, classB := mset x.classB port ((mget x.classB port).getD 0 + (match (tsEntry s port t).waiting with | [] => 0 | w :: _ => w.bytes)) }),
            grant port t false]
        | none => capStops port]) s

/-- A guarantee miss of ticket `t` at port `p`; `kind` 0 bandwidth, 1 latency (R345). -/
def guaranteeMiss (p t kind : Nat) : Act :=
  let n := (portPage p).1
  let l := (portPage p).2
  seq [(fun s => [.reg (FW_GM_MISS_TKT n l) (setBit (s.get (FW_GM_MISS_TKT n l)) t)]),
    countF (if kind = 0 then FW_GM_CNT_BW_MISS n l else FW_GM_CNT_LAT_MISS n l) 1,
    raiseInt (pageFW n) 1,
    reportNow 3 n 0x120 (pageFW n) 0xFF 0xFFF t (t < 8) none (p + t * 256 + kind * 65536),
    whenA (t < 8) (assertWire 3 n)]

/-- The ports of Table 8-4. -/
def ports : List Nat := (List.range 33).filter isPort

/-- A budget window ends at port `p`: bandwidth misses, HOLDS, and the counts of the next window (R336, R343, R565). -/
def closeWindow (p : Nat) : Act := withS fun s =>
  seq [forA (List.range 64) (fun t =>
      let e := tsEntry s p t
      let r := tsRate s p t
      whenA (r != 0 && !(s.ts.exempt.contains p) && e.admitted + 256 < min e.demand (1000 * r)) (guaranteeMiss p t 0)),
    whenA ((List.range 64).any fun t => (tsEntry s p t).held || (match (tsEntry s p t).waiting with
      | [] => false
      | w :: _ => !(within s p t w.bytes))) (countF (FW_TS_HOLD_HOLDS (portPage p).1 (portPage p).2) 1),
    forA (List.range 64) (fun t => whenA ((mget s.ts.entries (64 * p + t)).isSome) (updTsEntry p t fun e =>
      { e with used := 0, admitted := 0, held := false, demand := e.waiting.foldl (fun a w => a + w.bytes) 0 }))]

/-- A request of ticket `t` waits past LAT_LIM since its bucket covered its cost: reported once for each request (R344, R345). -/
def execLatencyMiss (port t : Nat) (s : State) : Host.Outcome State Fault Refusal :=
  perform (Instr.wellFormed (.latencyMiss port t)) (withS fun s =>
    let lim := s.get (FW_GM_LAT_LAT_LIM (portPage port).1 (portPage port).2)
    match (tsEntry s port t).waiting with
    | [] => skip
    | w :: r => match w.covered with
      | some c => whenA ((rateNow s port t).1 != 0 && c + lim < s.grid.now && !w.missed)
          (seq [updTsEntry port t fun e => { e with waiting := { w with missed := true } :: r }, guaranteeMiss port t 1])
      | none => skip) s

/-- The sum over the tickets of a port with one entry replaced. -/
def sumWith (f : Nat → Nat) (t v : Nat) : Nat := (List.range 64).foldl (fun a k => a + if k = t then v else f k) 0

/-- BURST of a guaranteed ticket (R337). [DEDUCED: log entry 63] -/
def sureBurst (rate burst : Nat) : Nat := if rate = 0 then 0 else burst

/-- The port of page instance `n` and local index `l` (Table 8-4). -/
def portOf (n l : Nat) : Nat :=
  if n = 4 then 28 + l
  else if l = 0 then n else if l = 4 then 24 + n
  else 8 + 4 * n + (if l - 1 < n then l - 1 else l)

/-- A software write to RATE and BURST of a turnstile entry: refused when it takes a sum above its limit; it comes into force at the
next grid cycle, and a plan's value set in this one stands (R339 to R341, SC_LOCK). [DEDUCED: log entry 63] [DESIGN CHOICE: log entry 249] -/
def execFwTsRateWrite (init tkt page l t data : Nat) (s : State) : Host.Outcome State Fault Refusal :=
  perform (Instr.wellFormed (.fwTsRateWrite init tkt page l t data))
    (openWrite init tkt (pageFW page) (0x1000 + 16 * (64 * l + t)) 8 (withS fun s =>
      let p := portOf page l
      let off := 0x1000 + 16 * (64 * l + t)
      let r := field data 47 32
      let b := field data 31 0
      let sr := sumWith (tsRate s p) t r
      let sb := sumWith (fun k => sureBurst (tsRate s p k) (tsBurst s p k)) t (sureBurst r b)
      let lowers := r ≤ tsRate s p t ∧ b ≤ tsBurst s p t
      if t < 8 ∧ s.is (FW_CTRL_SC_LOCK page) then errWindow (pageFW page) 1 init tkt off data true
      else if (portPB p < sr ∨ portBurstLimit p < sb) ∧ ¬ lowers then
        seq [raiseInt (pageFW page) 3, errWindow (pageFW page) 4 init tkt off data true]
      else if s.ts.planAt = some s.grid.now then skip
      else seq [updTs (fun x => { x with before := if (mget x.before (64 * p + t)).isSome then x.before else mset x.before (64 * p + t) (rateNow s p t), entries := mset x.entries (64 * p + t) (tsEntry s p t) }),
        setF (FW_TS_RATE_RATE page (64 * l + t)) r, setF (FW_TS_RATE_BURST page (64 * l + t)) b])) s

/-- Every rate entry takes the plan's value, or 0, over what software wrote in this cycle; buckets are full (R340). -/
def planRates (rs : List Rate) : Act := seq [updTs fun x => { x with before := [], planAt := none }, forA ports fun p => forA (List.range 64) fun t => withS fun s =>
  let n := (portPage p).1
  let i := 64 * (portPage p).2 + t
  match rs.find? (fun r => r.port == p && r.ticket == t) with
  | some r => seq [setF (FW_TS_RATE_RATE n i) r.rate, setF (FW_TS_RATE_BURST n i) r.burst,
      updTsEntry p t (fun e => { e with level := 11 * r.burst })]
  | none =>
    if tsRate s p t = 0 ∧ tsBurst s p t = 0 ∧ (tsEntry s p t).level = 0 then skip
    else seq [setF (FW_TS_RATE_RATE n i) 0, setF (FW_TS_RATE_BURST n i) 0, updTsEntry p t (fun e => { e with level := 0 })],
  fun s => [.setTs { s.ts with planAt := some s.grid.now }]]

/-- A hart writes its ticket CSR (R327). -/
def execHartTicketWrite (hart value : Nat) (s : State) : Host.Outcome State Fault Refusal :=
  perform (Instr.wellFormed (.hartTicketWrite hart value)) (withS fun s =>
    let t := value % 64
    let allow := if hart < 8 then s.get FW_TKT_ALLOW_HARTS_0_7 else s.get FW_TKT_ALLOW_HARTS_8_15
    if t < 8 ∧ bit allow (8 * (hart % 8) + t) = false then
      seq [raiseInt (pageFW 4) 2, reportNow 10 4 0x211 (pageFW 4) 0xFF (0x080 + hart) t false none hart]
    else updBus fun b => { b with hartTkt := mset b.hartTkt hart t }) s

/-- Every window closed. -/
def Win.zero : Win := ⟨0, 0, 0, 0⟩

/-- Window `w` as written. -/
def State.window (s : State) (w : Nat) : Win := (mget s.fw.table w).getD Win.zero

/-- The window with word `k` written with `data`: only bits of Table 8-13; LOCK by the island alone; TKT_MASK bits 7 to 0
stay 0 from window 256 on (R10, R351). -/
def Win.put (x : Win) (w k data : Nat) (island : Bool) : Win :=
  if k = 0 then
    let keep := Nat.land data (2 ^ 63 + (2 ^ 48 - 2 ^ 12) + 15)
    let lock := bit x.w0 62 || (island && bit data 62)
    { x with w0 := keep + (if lock then 2 ^ 62 else 0) }
  else if k = 1 then { x with w1 := Nat.land data (2 ^ 48 - 2 ^ 12) }
  else if k = 2 then { x with w2 := Nat.land data (0xFFF * 2 ^ 16 + 0xFFF) }
  else { x with w3 := if w < 256 then data else data / 256 * 256 }

/-- The error-window kind of a refused window write, if it is refused (R351, R352): 1 locked, 3 not an initiator that
windows 0 to 255 accept, or, in word 0, a LOCK bit of 1 that is not the island's to write. -/
def winRefusal (x : Win) (init w k data : Nat) : Option Nat :=
  if bit x.w0 62 then some 1
  else if w < 256 ∧ !(isIsland init) then some 3
  else if k = 0 ∧ bit data 62 ∧ !(isIsland init) then some 3
  else none

/-- The window write that reaches the table: `true` when the table changes. -/
def winAccepts (s : State) (init tkt w k data : Nat) : Bool :=
  (checkRequest s init (carried s init tkt) 1 ⟨[], []⟩ (pageAddr 10 (0x4000 + 32 * w + 8 * k)) 8).1 == 0
    && (match winRefusal (s.window w) init w k data with
      | none => true
      | some e => e == 3 && !(w < 256) && k == 0)

/-- A write of word `k` of firewall window `w` (R350 to R352): accepted, it waits for the synchronisation. -/
def execFwWindowWrite (init tkt w word data : Nat) (s : State) : Host.Outcome State Fault Refusal :=
  if Instr.wellFormed (.fwWindowWrite init tkt w word data) then
    let off := 0x4000 + 32 * w + 8 * word
    let s1 := s.run (openWrite init tkt 10 off 8 (match winRefusal (s.window w) init w word data with
      | some e => errWindow 10 e init tkt off data true
      | none => skip) s)
    if winAccepts s init tkt w word data then
      .next { s1 with fw := { s1.fw with table := mset s1.fw.table w ((s.window w).put w word data (isIsland init)) }, regs := putFld s1.regs FW_STATUS_SYNC_PEND 1 }
    else .next s1
  else .next s

/-- The window change takes effect at every checker in one cycle (R350). -/
def execFwWindowSync (s : State) : Host.Outcome State Fault Refusal :=
  if Instr.wellFormed .fwWindowSync then
    .next { s with fw := { s.fw with inForce := s.fw.table }, regs := putFld s.regs FW_STATUS_SYNC_PEND 0 }
  else .next s

end Sys2Proof.Machine
end

