-- ==== Sys2Proof/Machine/PlanImage.lean ====
section
/-! DEFINITION. The frame plan image (R280 to R283) and the plan checks of Table 7-7. -/

namespace Sys2Proof.Machine

/-! ### Reading the image -/

/-- A slot record (Table 7-5). `reserved`: a reserved bit is set. -/
def slotOf (bs : List Byte) : Slot :=
  let w (i : Nat) : Nat := le bs (8 * i) 8
  { typ := field (w 0) 63 62, contingent := bit (w 0) 61, start := field (w 0) 60 41, len := field (w 0) 40 21,
    frames := field (w 0) 20 1, wcet := field (w 1) 63 44, queue := field (w 1) 43 28, count := field (w 1) 27 20,
    client := field (w 1) 19 10, unit := field (w 1) 6 0, bUnit := field (w 2) 63 56, bStart := field (w 2) 55 36,
    bQueue := field (w 2) 35 20, link := field (w 3) 63 32, id := field (w 3) 31 0,
    reserved := bit (w 0) 0 || field (w 1) 9 7 != 0 || field (w 2) 19 0 != 0 }

/-- A rate entry (R282). -/
def rateOf (bs : List Byte) : Rate :=
  let w0 := le bs 0 8
  let w1 := le bs 8 8
  { port := field w0 7 0, ticket := field w0 13 8, rate := field w0 47 32, burst := field w1 31 0,
    reserved := field w0 31 14 != 0 || field w0 63 48 != 0 || field w1 63 32 != 0 }

/-- Word `i` of the header (Table 7-4). -/
def planWord (bs : List Byte) (i : Nat) : Nat := le bs (8 * i) 8

def planBytes (bs : List Byte) : Nat := field (planWord bs 1) 31 0
def planNSlots (bs : List Byte) : Nat := field (planWord bs 3) 15 0
def planNRates (bs : List Byte) : Nat := field (planWord bs 3) 27 16
def planNPins (bs : List Byte) : Nat := field (planWord bs 3) 39 28
def planSlotOff (bs : List Byte) : Nat := field (planWord bs 4) 31 0
def planRateOff (bs : List Byte) : Nat := field (planWord bs 4) 63 32
def planPinOff (bs : List Byte) : Nat := field (planWord bs 5) 31 0

/-- `n` records of `k` bytes from offset `o`. -/
def planRecords (bs : List Byte) (o n k : Nat) : List (List Byte) := tab n fun i => (bs.drop (o + k * i)).take k

/-- The plan that an image holds. -/
def planOf (bs : List Byte) : PlanImg :=
  { planId := planWord bs 2, slots := (planRecords bs (planSlotOff bs) (planNSlots bs) 32).map slotOf,
    rates := (planRecords bs (planRateOff bs) (planNRates bs) 16).map rateOf,
    pins := (planRecords bs (planPinOff bs) (planNPins bs) 4).map ofLe,
    percShare := field (planWord bs 6) 47 32, percClient := field (planWord bs 6) 25 16,
    actMin := field (planWord bs 6) 15 0 }

/-! ### Checks of STAGE -/

/-- The records are sorted by UNIT, START, SLOT_ID (R281). -/
def slotsSorted : List Slot → Bool
  | a :: b :: r => (a.unit < b.unit || (a.unit == b.unit && (a.start < b.start || (a.start == b.start && a.id < b.id))))
      && slotsSorted (b :: r)
  | _ => true

/-- No SLOT_ID occurs twice. -/
def idsUnique : List Slot → Bool
  | [] => true
  | a :: r => !(r.any fun b => b.id == a.id) && idsUnique r

/-- ACT_MIN's four thresholds are 0 to 8. -/
def actMinOk (v : Nat) : Bool := (List.range 4).all fun d => field v (4 * d + 3) (4 * d) ≤ 8

/-- The header of an image and its CRC (Table 7-4). -/
def headerOk (bs : List Byte) : Bool :=
  let n := planBytes bs
  field (planWord bs 0) 31 0 == 0x4C504E58 && field (planWord bs 0) 47 40 == 1 && field (planWord bs 0) 63 48 == 0
    && 128 ≤ n && n ≤ 0x100000 && bs.length == n
    && crc32c (bs.take 12 ++ [0#8, 0#8, 0#8, 0#8] ++ bs.drop 16) == field (planWord bs 1) 63 32
    && field (planWord bs 3) 63 40 == 0 && field (planWord bs 5) 63 32 == 0
    && field (planWord bs 6) 63 48 == 0 && field (planWord bs 6) 31 26 == 0
    && (List.range 9).all (fun i => planWord bs (7 + i) == 0)
    && 1 ≤ planNSlots bs && planNSlots bs ≤ 16384 && planNPins bs ≤ 3584
    && planSlotOff bs % 32 == 0 && planRateOff bs % 32 == 0 && planPinOff bs % 4 == 0
    && planSlotOff bs + 32 * planNSlots bs ≤ n && planRateOff bs + 16 * planNRates bs ≤ n
    && planPinOff bs + 4 * planNPins bs ≤ n
    && field (planWord bs 6) 47 32 != 0 && actMinOk (field (planWord bs 6) 15 0)

/-- Field ranges, reserved bits, order and uniqueness of the tables (check 0x01). -/
def tablesOk (p : PlanImg) : Bool :=
  p.slots.all (fun t => !t.reserved && t.start ≤ 549999 && t.start + t.len ≤ 550000
      && (t.count == 0 || t.typ == 1 || t.typ == 2))
    && slotsSorted p.slots && idsUnique p.slots && p.rates.all (fun r => !r.reserved) && p.pins.all (fun c => c < 2 ^ 18)

/-- UNIT names a unit of Table 7-6 that can carry a slot (check 0x03). [DEDUCED: log entry 51] -/
def slotUnitOk (u : Nat) : Bool := u < 109 && !(u < 36 && u % 9 == 8)

/-- The slots in force in frame index `f`. [DEDUCED: log entry 51] -/
def slotsIn (p : PlanImg) (f : Nat) : List Slot := p.slots.filter fun t => bit t.frames f

/-- Spans [a, b) and [c, d) share a cycle. -/
def spansMeet (a b c d : Nat) : Bool := a < b && c < d && a < d && c < b

/-- No two neighbours of a list sorted by UNIT and START overlap on a unit. -/
def noOverlap : List Slot → Bool
  | a :: b :: r => !(a.unit == b.unit && b.start < a.start + a.len) && noOverlap (b :: r)
  | _ => true

/-- Check 0x04. -/
def overlapOk (p : PlanImg) : Bool := (List.range 20).all fun f =>
  let ts := slotsIn p f
  noOverlap ts && ts.all (fun t => t.wcet ≤ t.len) && (List.range 109).all fun u => (ts.filter fun t => t.unit == u).length ≤ 64

/-- Engine positions and KV units. -/
def isPosOrKv (u : Nat) : Bool := (u < 36 && u % 9 != 8) || isKvUnit u

/-- Check 0x05. -/
def safeOk (p : PlanImg) : Bool :=
  p.slots.all (fun t => t.typ != 0 || (isPosOrKv t.unit && 2200 ≤ t.len))
    && (List.range 20).all fun f => ((List.range 40).filter isPosOrKv).all fun u =>
      ((slotsIn p f).filter fun t => t.typ == 0 && t.unit == u).length == 1

/-- The kind and die of an engine position or KV unit. -/
def kindDie (u : Nat) : Nat × Nat := if u < 36 then (0, u / 9) else (1, u - 36)

/-- A slot names a backup. -/
def Slot.hasBackup (t : Slot) : Bool := t.bUnit != 0xFF

/-- Backup units and windows (check 0x06); a CONTINGENT CTRL slot names none. SAFE and OPEN slots, of whose BACKUP_UNIT the check says nothing, are held to
the rule of the window alone. [DEDUCED: log entry 51] -/
def backupOk (p : PlanImg) : Bool :=
  p.slots.all (fun t =>
    ((if t.typ == 1 && isPosOrKv t.unit && !t.contingent then t.hasBackup else t.typ != 1 || !t.hasBackup)
      && (!t.hasBackup || !(t.typ == 1 || t.typ == 2)
        || (isPosOrKv t.unit && isPosOrKv t.bUnit && (kindDie t.unit).1 == (kindDie t.bUnit).1
          && (kindDie t.unit).2 != (kindDie t.bUnit).2))
      && (!t.hasBackup || t.bStart + t.len ≤ 550000)))
    && (List.range 20).all fun f =>
      let ts := slotsIn p f
      let ws := ts.filter Slot.hasBackup
      ws.all fun t => ts.all fun o =>
        !((o.typ == 0 || o.typ == 1) && o.unit == t.bUnit && spansMeet o.start (o.start + o.len) t.bStart (t.bStart + t.len))
          && !(o.hasBackup && o.id != t.id && o.bUnit == t.bUnit
            && spansMeet o.bStart (o.bStart + o.len) t.bStart (t.bStart + t.len))

/-- Check 0x07. -/
def linkOk (p : PlanImg) : Bool := p.slots.all fun t => !t.contingent ||
  (!t.hasBackup && p.slots.any fun o => o.id == t.link && o.hasBackup)

/-- Check 0x08. -/
def rateOk (p : PlanImg) : Bool :=
  p.rates.all (fun r => isPort r.port) && ports.all fun n =>
    let rs := p.rates.filter fun r => r.port == n
    rs.foldl (fun a r => a + r.rate) 0 ≤ portPB n && rs.foldl (fun a r => a + r.burst) 0 ≤ portBurstLimit n

/-- The lowest code among the checks that fail, 0 with none. -/
def lowest : List (Nat × Bool) → Nat
  | [] => 0
  | (c, ok) :: r => if ok then lowest r else c

/-- The checks marked S on the slots and rates of a plan. -/
def stageChecks (p : PlanImg) : List (Nat × Bool) :=
  [(3, p.slots.all fun t => slotUnitOk t.unit && (!t.hasBackup || slotUnitOk t.bUnit)), (4, overlapOk p), (5, safeOk p),
    (6, backupOk p), (7, linkOk p), (8, rateOk p)]

/-- The code of STAGE's checks on an image that was read; 0 accepts (R285). -/
def stageCode (bs : List Byte) : Nat :=
  if !(headerOk bs) then 1
  else lowest ((1, tablesOk (planOf bs)) :: (2, field (planWord bs 0) 39 32 == 0xB0) :: stageChecks (planOf bs))

/-! ### Checks of ACTIVATE -/

/-- Queue `q` is enabled for slots of unit `u` with `count` descriptors (check 0x09). -/
def slotQueueOk (s : State) (q u count : Nat) : Bool :=
  let x := s.queue q
  x.enable && x.cls == 1 && x.unit == u && (x.mode == 0 || (count ≤ 2 ^ x.ringLog2 && count ≤ 2 ^ x.compLog2))

/-- The contexts that software or the plan in force has pinned. -/
def pinnedNow (s : State) : List Nat := (s.hot.entries.filter fun e => e.2.pinSw || e.2.pinPlan).map Prod.fst

/-- The code of ACTIVATE's checks; 0 accepts (R285). [DEDUCED: log entry 52] -/
def activateCode (s : State) (p : PlanImg) : Nat := lowest (stageChecks p ++ [
  (9, p.slots.all fun t => !(t.typ == 1 || t.typ == 2) || slotQueueOk s t.queue t.unit t.count),
  (9, p.slots.all fun t => !t.hasBackup || slotQueueOk s t.bQueue t.bUnit t.count),
  (10, p.slots.all fun t => (t.typ == 0 || !(retired s t.unit)) && !(t.hasBackup && retired s t.bUnit)),
  (11, (pinnedNow s ++ p.pins).eraseDups.length ≤ 3584)])

end Sys2Proof.Machine
end

