-- ==== Sys2Proof/Machine/Ringmaster.lean ====
section
/-! DEFINITION. Ringmaster's queues, dispatch by plan and by shares, completion records and accounts (R266 to R279, R291
to R309, R157, R158, R719). -/

namespace Sys2Proof.Machine

/-- Page number of RM_. -/
def pageRM : Nat := 3

/-! ### Queues -/

/-- UNIT value `v` serves unit `u` (Table 7-6): the unit itself, or a pool that contains it. -/
def serves (v u : Nat) : Bool :=
  if v < 128 then v == u
  else if v < 132 then u < 36 && u % 9 != 8 && u / 9 == v - 128
  else v < 136 && isCopyUnit u && (u - 40) / 16 == v - 132

/-- The number after `v` of a free-running 32-bit count. -/
def next32 (v : Nat) : Nat := (v + 1) % 2 ^ 32

/-- The free-running 32-bit count `a` less `b`. -/
def diff32 (a b : Nat) : Nat := (a + 2 ^ 32 - b % 2 ^ 32) % 2 ^ 32

/-- The jobs of a unit. -/
def UnitSt.jobs (t : UnitSt) : List Job := t.running.toList ++ t.suspended.toList ++ t.held

/-- Every job taken and not completed, with its unit. -/
def State.jobs (s : State) : List (Nat × Job) := s.rm.units.flatMap fun x => x.2.jobs.map fun j => (x.1, j)

/-- The jobs of queue `q` that hold a place for their completion record: started or ended, and not completed. -/
def startedOf (s : State) (q : Nat) : Nat := (s.jobs.filter fun x => x.2.queue == q && !x.2.waits && (x.2.started || x.2.status.isSome)).length

/-- The completion ring of queue `q` has room for one more job (R276, R277). -/
def compRoom (s : State) (q : Nat) : Bool :=
  (s.queue q).mode == 1 || diff32 (s.queue q).ctail (s.queue q).chead + startedOf s q < 2 ^ (s.queue q).compLog2

/-- Address of ring entry `i` (R267). -/
def ringEntry (x : Queue) (i : Nat) : Nat := x.ringBase + 64 * (i % 2 ^ x.ringLog2)

/-- A ring read or completion write of queue `q` fails: the queue stops (R273). `acc` is the access type, `r` the result
of the check. [DEDUCED: log entry 48] -/
def queueFault (q acc : Nat) (r : Nat × Nat × Nat) : Act := withS fun s =>
  let x := s.queue q
  seq [updQueue q (fun x => { x with fault := true, stopped := true }),
    whenA (r.1 == stFW_DENY || r.1 == stUNCORR) (accessFailed x.owner x.ticket acc r),
    reportNow 8 4 0x170 pageRM 0xFF x.owner x.ticket false (some r.2.1) q,
    raiseInt pageRM 5]

/-! ### Taking descriptors -/

/-- The check of a descriptor for unit `u` before any WAIT (R75, R133, R716). -/
def checkDesc (u : Nat) (planned : Bool) (d : List Byte) : Option Nat :=
  if u < 36 then checkTensor u d else if u < 40 then checkKv planned d else if u < 104 then checkCopy d else checkFixed u planned d

/-- The ranges that a descriptor may write on unit `u`. -/
def descOuts (s : State) (u tkt : Nat) (d : List Byte) : List (Nat × Nat) :=
  if u < 36 then tensorOuts u d else if u < 40 then kvOuts s u tkt d else if u < 104 then copyOuts d else []

/-- Unit `u` completes every job that reaches it with ENG_FAIL (R264, R719). -/
def failsAll (s : State) (u : Nat) : Bool := if u < 40 then isKvUnit u && s.eng.failedKv.contains (u - 36) else (s.unit u).failed

/-- The job of a descriptor that unit `u` is handed. -/
def jobOf (s : State) (q u index client : Nat) (slot : Option Nat) (d : List Byte) : Job :=
  let st := if failsAll s u then some stENG_FAIL else checkDesc u slot.isSome d
  { queue := q, index := index, client := client, slot := slot, desc := d, ticket := (s.queue q).ticket, started := false,
    status := st, entry := 0, post := st != some stILLEGAL && st != some stPLACE, stopWith := none,
    outs := if st.isSome then [] else descOuts s u (s.queue q).ticket d, commit := none, spoiled := false, began := 0, beganTk := 0, beganFrame := 0,
    hist := [], kept := [], clash := [] }

/-- Ringmaster reads ring entry `i` of queue `q` once and hands it to unit `u` as number `index` (R271, R272); HEAD advances (R293), and
`note` is what a slot counts. [DEDUCED: log entries 48, 236] -/
def takeEntry (q u i index client : Nat) (slot : Option Nat) (note : Act) (ecc : Ecc) : Act := withS fun s =>
  let x := s.queue q
  let a := ringEntry x i
  let r := checkRange s x.owner x.ticket 0 ecc a 64
  if r.1 != 0 then queueFault q 0 r
  else seq [noteCorr x.owner x.ticket ecc a 64, charge 0x0A0 x.ticket false a 64,
    updQueue q fun x => { x with head := next32 x.head },
    updUnit u fun t => { t with held := t.held ++ [jobOf s q u index client slot (readRange s a 64)] },
    note]

/-- Ringmaster takes descriptors for unit `u`: not for units 0 to 103 from P1 entry until the return to A0 (R623). -/
def takesFor (s : State) (u : Nat) : Bool := 104 ≤ u || stacksUsable s

/-- Queue `q` is served: enabled and not stopped. -/
def served (s : State) (q : Nat) : Bool := (s.queue q).enable && !(s.queue q).stopped

/-- Descriptors posted and not taken: of a STREAM queue, since a REPLAY queue takes its entries without posting (R293). -/
def postedCount (x : Queue) : Nat := if x.mode = 1 then 0 else diff32 x.tail x.head

/-- A descriptor is posted and not taken. -/
def posted (s : State) (q : Nat) : Bool := postedCount (s.queue q) != 0

/-! ### Starting jobs -/

/-- An earlier descriptor of the job's queue has not completed. -/
def earlierJob (s : State) (j : Job) : Bool := s.jobs.any fun x =>
  x.2.queue == j.queue && x.2.index != j.index && diff32 j.index x.2.index < 2 ^ 31

/-- ORDER and WAIT of the descriptor allow its start (R78, R294, R303). -/
def mayStart (s : State) (j : Job) : Bool :=
  !(dOrder j.desc && earlierJob s j) && (!(dWaitEn j.desc) || 1 ≤ s.get (CE_CTR_VALUE (dCtrDie j.desc) (dWaitCtr j.desc)))

/-- Unit `u` can take up a job now: none works on it, no switch is under way, and a position has an engine (R172). -/
def unitFree (s : State) (u : Nat) : Bool :=
  !(s.unit u).switching && !(u < 36 && unitDead s u) && (match (s.unit u).running with
    | some j => j.status.isSome
    | none => true)

/-- The jobs of a list but the first equal to `j`. -/
def without (j : Job) (l : List Job) : List Job := l.erase j

/-- The input ranges that a descriptor alone gives: of copies and engine jobs. -/
def descIns (u : Nat) (d : List Byte) : List (Nat × Nat) :=
  if u < 36 then (tensorRanges d).1.map fun r => (dieAddr (u / 9) r.1, r.2)
  else if 40 ≤ u && u < 104 && !(cpListed d) && dOpcode d != 0x24 then (copyRows d []).map fun r => (r.1, cpSrcBytes d)
  else []

/-- Some range of `a` meets one of `b`. -/
def anyMeet (a b : List (Nat × Nat)) : Bool := a.any fun r => b.any (rangesMeet r)

/-- What job `j` of unit `u` writes that conflicts with job `k` of unit `v`, when both are in progress: the ranges that `k` writes too,
or, when `k` writes what `j` reads, all of them (R322). [DESIGN CHOICE: log entry 237] -/
def clashes (s : State) (u : Nat) (j : Job) (v : Nat) (k : Job) : List (Nat × Nat) :=
  let theirs := storageOf s k.outs
  if anyMeet (storageOf s (descIns u j.desc)) theirs then storageOf s j.outs
  else (storageOf s j.outs).filter fun r => theirs.any (rangesMeet r) || (storageOf s (descIns v k.desc)).any (rangesMeet r)

/-- The jobs in progress beside those of unit `u`. -/
def inProgress (s : State) (u : Nat) : List (Nat × Job) := s.jobs.filter fun x => x.1 != u && x.2.started

/-- The scale-history record that an engine job fetches when it is dispatched (R186): that of the context it names, for an output
format that may take row scales. -/
def fetchHist (s : State) (u : Nat) (d : List Byte) : List Byte :=
  if u < 36 && (dOpcode d == 0x40 || dOpcode d == 0x41 || dOpcode d == 0x42) then ctxHist (ctxBytes s (dField d 7 49 32)) else []

/-- Held job `j` starts on unit `u`; it takes its credit (R78). A job that has ended and waits for its record steps aside.
On a failed unit the job ends at once with ENG_FAIL (R264, R719). Conflicts with jobs in progress are noted on both sides (R322). [DESIGN CHOICE: log entry 237] -/
def startJob (u : Nat) (j : Job) : Act := withS fun s =>
  if failsAll s u then updUnit u fun t => { t with held := { j with status := some stENG_FAIL } :: without j t.held }
  else
    let others := inProgress s u
    let mark (v : Nat) (k : Job) : Job := if v != u && k.started then { k with clash := k.clash ++ clashes s v k u j } else k
    seq [
    whenA (dWaitEn j.desc) (takeCredit (dCtrDie j.desc) (dWaitCtr j.desc)),
    whenA (others.any fun x => !(clashes s x.1 x.2 u j).isEmpty) (updRm fun r =>
      { r with units := r.units.map fun p => (p.1, { p.2 with running := p.2.running.map (mark p.1), suspended := p.2.suspended.map (mark p.1), held := p.2.held.map (mark p.1) }) }),
    updUnit u fun t => { t with
      running := some { j with started := true, began := s.inFrame, beganTk := s.grid.tk, beganFrame := 20 * s.major + s.frameIdx, hist := fetchHist s u j.desc, clash := j.clash ++ others.flatMap fun x => clashes s u j x.1 x.2 }
      held := t.running.toList ++ without j t.held }]

/-- The slot of this frame that runs on unit `u` now: started, and before its deadline. -/
def currentSlot (s : State) (u : Nat) : Option Slot := s.planSlots.find? fun t =>
  slotRuns s t && slotUnit s t == u && (s.slotRun t.id).started && !(s.slotRun t.id).checked && s.inFrame < slotEndAt s t

/-- The next job of the unit's slot, in ring order (R294). -/
def nextPlanned (s : State) (u : Nat) : Option Job := match currentSlot s u with
  | some t => (s.unit u).held.find? fun j => j.slot == some t.id && j.waits
  | none => none

/-! ### The next control frame -/

/-- Grid cycles until the next control frame boundary that is in sight (R29, R287). -/
def toBoundary (s : State) : Nat :=
  (if s.grid.running then s.grid.boundaryAt + 550000 else (s.plan.next.map Prod.snd).getD (s.grid.now + 550000)) - s.grid.now

/-- The frame index of the next control frame. -/
def idxAhead (s : State) : Nat := if s.grid.running then (s.frameIdx + 1) % 20 else 0

/-- A plan takes over at the next boundary (R286, R287). -/
def takeoverAhead (s : State) : Option PlanImg := match s.plan.next with
  | some p => if idxAhead s = 0 ∧ p.2 ≤ s.grid.now + toBoundary s then some p.1 else none
  | none => none

/-- The slots in force in the next control frame: of the plan that takes over, or of the plan in force unless it ends. -/
def nextSlots (s : State) : List Slot := match takeoverAhead s with
  | some p => p.slots.filter fun t => bit t.frames 0
  | none => if s.plan.stopping && idxAhead s == 0 then [] else s.planSlots.filter fun t => bit t.frames (idxAhead s)

/-- Unit `u` is in backup mode in the next frame (R317). -/
def backupAhead (s : State) (u : Nat) : Bool := (takeoverAhead s).isNone && s.plan.backupMode.contains u

/-- The slot has a backup that can run it. -/
def usableBackup (s : State) (t : Slot) : Bool := t.hasBackup && !(unitDead s t.bUnit)

/-- The backup of slot `t` is active in the next frame (R317). -/
def onBackupAhead (s : State) (t : Slot) : Bool :=
  !t.contingent && (t.typ == 1 || t.typ == 2) && backupAhead s t.unit && usableBackup s t

/-- Queue, unit and START of slot `t` in the next frame, as far as this frame shows them (R315, R317). [DEDUCED: log entries 49, 50] -/
def placeAhead (s : State) (t : Slot) : Option (Nat × Nat × Nat) :=
  let ts := nextSlots s
  if t.contingent then (if ts.any fun o => o.id == t.link && onBackupAhead s o then some (t.queue, t.unit, t.start) else none)
  else if backupAhead s t.unit then (if onBackupAhead s t then some (t.bQueue, t.bUnit, t.bStart) else none)
  else if t.typ == 2 && ts.any (fun o => onBackupAhead s o && o.bUnit == t.unit && t.start < o.bStart + o.len && o.bStart < t.start + t.len) then none
  else some (t.queue, t.unit, t.start)

/-! ### Dispatch by shares -/

/-- A SAFE, CTRL or PERC slot or an active backup window of unit `u` runs, or starts less than `m` cycles from now. [DEDUCED: log entry 50] -/
def planNear (s : State) (u m : Nat) : Bool :=
  s.planSlots.any (fun t => t.typ != 3 && slotRuns s t && slotUnit s t == u && !(retired s u)
      && slotStartAt s t < s.inFrame + m && s.inFrame < slotEndAt s t)
    || (nextSlots s).any fun t => t.typ != 3 && toBoundary s + t.start < m + 550000 && match placeAhead s t with
      | some p => p.2.1 == u && toBoundary s + p.2.2 < m
      | none => false

/-- Unit `u` may start OPEN work (R295): no SAFE, CTRL or PERC slot and no active backup window of the unit runs, or starts in less
than 3,300 cycles. [DEDUCED: log entry 50] -/
def mayOpen (s : State) (u : Nat) : Bool := !(planNear s u 3300)

/-- The CLIENT of the OPEN slot that runs on unit `u` (R301). -/
def openSlotClient (s : State) (u : Nat) : Option Nat :=
  (s.planSlots.find? fun t => t.typ == 3 && slotOn s t && t.unit == u && t.start ≤ s.inFrame && s.inFrame < t.start + t.len).map (·.client % 1024)

/-- A source of OPEN work: queue, client, UNIT value, and for displaced PERC work its slot (R318). -/
structure Source where
  queue : Nat
  client : Nat
  unit : Nat
  slot : Option Slot

/-- The sources of OPEN work. A client number has 10 bits (Table 7-1). -/
def sources (s : State) : List Source :=
  (s.rm.queues.filter fun x => x.2.cls == 0).map (fun x => ⟨x.1, x.2.client % 1024, x.2.unit, none⟩)
    ++ (s.planSlots.filter fun t => (s.slotRun t.id).asOpen).map fun t =>
      ⟨t.queue, (s.plan.inForce.map (·.percClient)).getD 0 % 1024, 128 + (kindDie t.unit).2, some t⟩

/-- A REPLAY queue's displaced slot still has entries to run in this frame. -/
def replayLeft (s : State) (t : Slot) : Bool := (s.queue t.queue).mode == 1 && (s.slotRun t.id).taken < t.count

/-- A job of source `x` that was taken and has not started. -/
def Source.owns (x : Source) (j : Job) : Bool := j.queue == x.queue && j.slot.isNone && j.waits

/-- The descriptor at the head of a source, as unit `u` would start it: held by the unit, handed to a position of the pool that has no
engine any more (R319), or the next of the ring (R303). `none` inside: the ring cannot be read, and the take will report it. -/
def sourceHead (s : State) (x : Source) (u : Nat) : Option (Option Job) :=
  let q := s.queue x.queue
  match s.jobs.find? fun j => x.owns j.2 with
  | some j => if j.1 = u then some (some j.2) else if 128 ≤ x.unit && retired s j.1 then some (some { jobOf s x.queue u j.2.index j.2.client none j.2.desc with ticket := j.2.ticket }) else none
  | none =>
    let i := match x.slot with
      | some t => if q.mode = 1 then (s.slotRun t.id).taken else q.head
      | none => q.head
    let more := match x.slot with
      | some t => if q.mode = 1 then replayLeft s t else posted s x.queue
      | none => posted s x.queue
    if !more then none
    else if (checkRange s q.owner q.ticket 0 ⟨[], []⟩ (ringEntry q i) 64).1 != 0 then some none
    else some (some (jobOf s x.queue u i x.client none (readRange s (ringEntry q i) 64)))

/-- The source can start on unit `u` (R303, R319). -/
def sourceReady (s : State) (u : Nat) (x : Source) : Bool :=
  served s x.queue && serves x.unit u && takesFor s u && !(u < 36 && unitDead s u) && compRoom s x.queue
    && (match sourceHead s x u with
      | none => false
      | some none => true
      | some (some j) => mayStart s j)

/-- The sources ready on unit `u`. -/
def readyOn (s : State) (u : Nat) : List Source := (sources s).filter (sourceReady s u)

/-- The smallest element, the first on ties. -/
def minBy (f : Nat → Nat) : List Nat → Option Nat
  | [] => none
  | c :: r => match minBy f r with
    | none => some c
    | some d => if f c < f d ∨ (f c = f d ∧ c ≤ d) then some c else some d

/-- The client that unit `u` serves next (R301, R302, R304). -/
def bestClient (s : State) (u : Nat) : Option Nat :=
  let cs := (readyOn s u).map (·.client)
  match openSlotClient s u with
  | some c => if cs.contains c then some c else minBy (fun c => s.get (RM_CLIENT_ACCT_VT c)) (cs.filter fun c => s.is (RM_CLIENT_SHARE_SHARE c))
  | none => minBy (fun c => s.get (RM_CLIENT_ACCT_VT c)) (cs.filter fun c => s.is (RM_CLIENT_SHARE_SHARE c))

/-- The next source of client `c` on unit `u`: the lowest ready queue above the last served, wrapping (R304). -/
def nextSource (s : State) (u c : Nat) : Option Source :=
  let xs := (readyOn s u).filter fun x => x.client == c
  let above := match mget s.rm.lastQ (c * 128 + u) with
    | some q => xs.filter fun x => q < x.queue
    | none => xs
  let pick := if above.isEmpty then xs else above
  (minBy id (pick.map (·.queue))).bind fun q => pick.find? fun x => x.queue == q

/-- The source that unit `u` would start now (R304). -/
def openChoice (s : State) (u : Nat) : Option Source := (bestClient s u).bind (nextSource s u)

/-- Every unit. -/
def units : List Nat := List.range 109

/-- The units whose next planned job waits on counter `c` of die `d`, with the job's queue. -/
def plannedWaiters (s : State) (d c : Nat) : List (Nat × Nat) := units.filterMap fun u => match nextPlanned s u with
  | some j => if unitFree s u && dWaitEn j.desc && dCtrDie j.desc == d && dWaitCtr j.desc == c && mayStart s j && compRoom s j.queue
      then some (j.queue, u) else none
  | none => none

/-- The units that would start OPEN work that waits on counter `c` of die `d`. -/
def openWaiters (s : State) (d c : Nat) : List (Nat × Nat) := units.filterMap fun u =>
  if unitFree s u && mayOpen s u && (s.unit u).suspended.isNone then match openChoice s u with
    | some x => match sourceHead s x u with
      | some (some j) => if dWaitEn j.desc && dCtrDie j.desc == d && dWaitCtr j.desc == c then some (x.queue, u) else none
      | _ => none
    | none => none
  else none

/-- The counter that job `j` waits on holds a credit for it beside those of the waiters on lower-numbered queues (R80). -/
def creditTurn (s : State) (j : Job) : Bool := !(dWaitEn j.desc) ||
  ((plannedWaiters s (dCtrDie j.desc) (dWaitCtr j.desc) ++ openWaiters s (dCtrDie j.desc) (dWaitCtr j.desc)).filter fun x => x.1 < j.queue).length
    < s.get (CE_CTR_VALUE (dCtrDie j.desc) (dWaitCtr j.desc))

/-- A free unit starts the next job of its slot when ORDER, WAIT and the completion ring allow it (R80, R294). -/
def advanceUnit (u : Nat) : Act := withS fun s => match nextPlanned s u with
  | some j => whenA (unitFree s u && mayStart s j && compRoom s j.queue && creditTurn s j) (startJob u j)
  | none => skip

/-- Clients ready on some unit (R303). -/
def readyClients (s : State) : List Nat :=
  ((sources s).filter fun x => (units.filter (serves x.unit)).any fun u => sourceReady s u x).map (·.client) |>.eraseDups

/-- The clients that became ready take at least SVT, and SVT follows the smallest VT of ready clients (R306). -/
def refreshReady : Act := withS fun s =>
  let now := readyClients s
  let vt (c : Nat) : Nat := s.get (RM_CLIENT_ACCT_VT c)
  let svt := match minBy vt (now.filter s.rm.ready.contains) with
    | some c => vt c
    | none => s.get RM_SVT_SVT
  seq [forA (now.filter fun c => !(s.rm.ready.contains c)) (fun c => setF (RM_CLIENT_ACCT_VT c) (max (vt c) svt)),
    withS (fun s => setF RM_SVT_SVT (match minBy (fun c => s.get (RM_CLIENT_ACCT_VT c)) now with
      | some c => s.get (RM_CLIENT_ACCT_VT c)
      | none => svt)),
    updRm (fun r => { r with ready := now })]

/-- One credit is posted to counter `c` of die `d` by hardware, and clients may become ready (R79, R306). -/
def postReady (d c : Nat) : Act := seq [postCredit d c, refreshReady]

/-- The source's head is taken, unless it is held already, and starts on unit `u`; a job that completes at once is not
started. -/
def startSource (u : Nat) (x : Source) (ecc : Ecc) : Act := seq [
  updRm (fun r => { r with lastQ := mset r.lastQ (x.client * 128 + u) x.queue }),
  withS fun s =>
    let n := match x.slot with
      | some t => if (s.queue x.queue).mode = 1 then (s.slotRun t.id).taken else (s.queue x.queue).head
      | none => (s.queue x.queue).head
    let note : Act := match x.slot with
      | some t => updSlot t.id fun r => { r with taken := r.taken + 1 }
      | none => skip
    match s.jobs.find? fun j => x.owns j.2, sourceHead s x u with
    | some (v, j), some (some k) => if v = u then skip
      else seq [updUnit v fun t => { t with held := without j t.held }, updUnit u fun t => { t with held := t.held ++ [k] }]
    | some _, _ => skip
    | none, _ => takeEntry x.queue u n n x.client none note ecc,
  withS fun s => match (s.unit u).held.find? x.owns with
    | some j => startJob u j
    | none => skip]

/-- A unit that may start OPEN work resumes its suspended job, or starts the chosen source (R304). -/
def openDispatch (u : Nat) (ecc : Ecc) : Act := withS fun s =>
  if !(unitFree s u) || !(mayOpen s u) || (u < 36 && unitDead s u) then skip
  else match (s.unit u).suspended with
    | some j => if j.status.isSome then skip else
        updUnit u fun t => { t with running := some j, suspended := none, held := t.running.toList ++ t.held }
    | none => match openChoice s u with
      | some x => match sourceHead s x u with
        | some (some j) => whenA (creditTurn s j) (startSource u x ecc)
        | _ => startSource u x ecc
      | none => skip

/-- OPEN work starts or resumes on unit `u` (R304). -/
def execOpenDispatch (u : Nat) (ecc : Ecc) (s : State) : Host.Outcome State Fault Refusal :=
  perform (Instr.wellFormed (.openDispatch u ecc)) (seq [refreshReady, openDispatch u ecc, refreshReady]) s

/-! ### Planned descriptors -/

/-- Descriptors taken ahead on unit `u` for slot `id` of the next frame. -/
def aheadCount (s : State) (id u : Nat) : Nat := match mget s.plan.ahead id with
  | some x => if x.1 = u then x.2 else 0
  | none => 0

/-- A unit can be handed planned descriptors. -/
def takesPlanned (s : State) (u : Nat) : Bool := takesFor s u && !(u < 36 && unitDead s u)

/-- The slot whose descriptors queue `q` may hand over now on unit `u`, and whether it is one of the next frame: from START - 3,300 to
its deadline, with fewer than COUNT taken (R293). [DEDUCED: log entry 49] -/
def takingSlot (s : State) (q u : Nat) : Option (Slot × Bool) :=
  match s.planSlots.find? fun t => (t.typ == 1 || t.typ == 2) && slotRuns s t && slotQueue s t == q && slotUnit s t == u
    && slotStartAt s t ≤ s.inFrame + 3300 && s.inFrame < slotEndAt s t && (s.slotRun t.id).taken < t.count && !(s.slotRun t.id).checked with
  | some t => if takesPlanned s u then some (t, false) else none
  | none => if !(takesPlanned s u) then none else
    ((nextSlots s).find? fun t => (t.typ == 1 || t.typ == 2) && (match placeAhead s t with
      | some p => p.1 == q && p.2.1 == u && toBoundary s + p.2.2 ≤ 3300
      | none => false) && aheadCount s t.id u < t.count).map fun t => (t, true)

/-- Queue `q` hands unit `u` the next descriptor of slot `id`, while the completion ring has room: a REPLAY entry by its position, or the
next one posted (R276, R293). A job taken ahead belongs to the slot's number in the next frame. -/
def takeForSlot (q u id : Nat) (ecc : Ecc) : Act := withS fun s => match takingSlot s q u with
  | none => skip
  | some (t, ahead) =>
    let n := if ahead then aheadCount s id u else (s.slotRun id).taken
    let key := if ahead then id + 2 ^ 33 else id
    let note : Act := if ahead then updPlan fun p => { p with ahead := mset p.ahead id (u, n + 1) }
      else updSlot id fun r => { r with taken := r.taken + 1 }
    if t.id != id || !(served s q) || !(compRoom s q) then skip
    else if (s.queue q).mode = 1 then takeEntry q u n n (s.queue q).client (some key) note ecc
    else if posted s q then takeEntry q u (s.queue q).head (s.queue q).head (s.queue q).client (some key) note ecc
    else skip

/-- The queues and units from and on which slot `t` may take descriptors: of this frame, and of the next. -/
def takingPlaces (s : State) (t : Slot) : List (Nat × Nat) :=
  (slotQueue s t, slotUnit s t) :: (placeAhead s t).toList.map fun p => (p.1, p.2.1)

/-- A slot takes all the descriptors it can. -/
def takeSlot (t : Slot) (ecc : Ecc) : Act := withS fun s => forA (takingPlaces s t).eraseDups fun p =>
  forA (List.range t.count) fun _ => takeForSlot p.1 p.2 t.id ecc

/-- The slot with SLOT_ID `id`: of the plan in force, or of the next frame. -/
def slotInSight (s : State) (id : Nat) : Option Slot := match s.slot id with
  | some t => some t
  | none => (nextSlots s).find? fun t => t.id == id

/-- Ringmaster takes a slot's descriptors (R293). -/
def execPlanSlotTake (slot : Nat) (ecc : Ecc) (s : State) : Host.Outcome State Fault Refusal :=
  perform (Instr.wellFormed (.planSlotTake slot ecc)) (withS fun s => match slotInSight s slot with
    | some t => seq [takeSlot t ecc, advanceUnit (slotUnit s t)]
    | none => skip) s

/-- Ringmaster takes one descriptor of queue `q` for unit `u`: for the slot that may take it, or as OPEN work (R272). -/
def execDescriptorTake (q u : Nat) (ecc : Ecc) (s : State) : Host.Outcome State Fault Refusal :=
  perform (Instr.wellFormed (.descriptorTake q u ecc)) (withS fun s =>
    if !(served s q) then skip
    else if (s.queue q).cls = 1 then match takingSlot s q u with
      | some (t, _) => seq [takeForSlot q u t.id ecc, advanceUnit u]
      | none => skip
    else if serves (s.queue q).unit u && takesFor s u && posted s q && compRoom s q && !(u < 36 && unitDead s u)
        && !(s.jobs.any fun j => j.2.queue == q && j.2.waits) then
      seq [takeEntry q u (s.queue q).head (s.queue q).head (s.queue q).client none skip ecc, refreshReady]
    else skip) s

/-- A counter is at least 1: the waiter on the lowest-numbered queue starts and takes one credit (R78, R80). -/
def execCreditWaitStart (die ctr : Nat) (s : State) : Host.Outcome State Fault Refusal :=
  perform (Instr.wellFormed (.creditWaitStart die ctr)) (withS fun s =>
    let ps := plannedWaiters s die ctr
    let os := openWaiters s die ctr
    seq [match minBy id ((ps ++ os).map Prod.fst) with
      | none => skip
      | some q => match ps.find? (fun x => x.1 == q), os.find? (fun x => x.1 == q) with
        | some x, _ => advanceUnit x.2
        | none, some x => openDispatch x.2 ⟨[], []⟩
        | none, none => skip,
      refreshReady]) s

/-! ### Doorbells -/

/-- A doorbell write (R268, R270, R293). -/
def execDoorbellWrite (init q data : Nat) (s : State) : Host.Outcome State Fault Refusal :=
  perform (Instr.wellFormed (.doorbellWrite init q data))
    (reaching init (ticketOf s init) 1 (0xF800000000 + 8 * q) 8 (withS fun s =>
      let x := s.queue q
      let tail := data % 2 ^ 32
      let chead := data / 2 ^ 32 % 2 ^ 32
      let okT := diff32 tail x.head ≤ 2 ^ x.ringLog2
      let okC := diff32 x.ctail chead ≤ 2 ^ x.compLog2
      if init != x.owner then
        seq [updQueue q (fun x => { x with dbDeny := true }),
          reportNow 8 4 0x171 pageRM 0xFF init (ticketOf s init) false none q]
      else if !x.enable then skip
      else seq [updQueue q (fun x => { x with tail := if okT then tail else x.tail, chead := if okC then chead else x.chead, dbErr := x.dbErr || !(decide okT && decide okC) }),
        withS (fun s => whenA (x.cls == 1) (forA ((s.planSlots ++ nextSlots s).filter fun t => (takingPlaces s t).any fun p => p.1 == q)
          fun t => seq [takeSlot t ⟨[], []⟩, advanceUnit (slotUnit s t)])),
        refreshReady])) s

/-! ### Enabling and disabling a queue -/

/-- UNIT names a unit or a pool that a queue may have (Table 7-1, Table 7-6). -/
def queueUnitOk (v cls : Nat) : Bool := slotUnitOk v || (128 ≤ v && v < 136 && cls == 0)

/-- A write of 1 to ENABLE is taken (Table 7-1). -/
def enableOk (x : Queue) : Bool :=
  x.ringBase % 64 == 0 && x.compBase % 16 == 0 && 1 ≤ x.ringLog2 && x.ringLog2 ≤ 16 && 1 ≤ x.compLog2 && x.compLog2 ≤ 16
    && !(x.mode == 1 && x.cls == 0) && queueUnitOk x.unit x.cls

/-- Queue `q` takes ENABLE 1 with its present fields, or is refused (R266). [DEDUCED: log entry 180] -/
def enableQueue (init tkt q data : Nat) : Act := withS fun s =>
  let x := s.queue q
  if x.enable then skip
  else if enableOk x then
    seq [updQueue q (fun x => { x with enable := true, stopped := false, head := 0, tail := 0, ctail := 0, chead := 0 }), refreshReady]
  else errWindow pageRM 4 init tkt 0x148 data true

/-- The unit without the jobs of queue `q` that have not started. -/
def UnitSt.drop (t : UnitSt) (q : Nat) : UnitSt := { t with held := t.held.filter fun j => !(j.queue == q && j.waits) }

/-- Queue `q` takes ENABLE 0: what is posted or taken and not started is dropped (R274). [DEDUCED: log entry 180] -/
def disableQueue (q : Nat) : Act := withS fun s =>
  let x := s.queue q
  if !x.enable then skip else
  let taken := (s.jobs.filter fun j => j.2.queue == q && j.2.waits).length
  seq [updQueue q (fun x => { x with enable := false, head := x.tail, dropped := satU 16 (x.dropped + postedCount x + taken) }),
    updRm (fun r => { r with units := r.units.map fun p => (p.1, p.2.drop q) }),
    refreshReady]

/-- The queue that RM_QSEL selects. -/
def selected (s : State) : Nat := s.get RM_QSEL_Q

/-- A write of 1 to ENABLE of the selected queue (R266). [DEDUCED: log entry 180] -/
def execQueueEnable (init tkt : Nat) (s : State) : Host.Outcome State Fault Refusal :=
  perform (Instr.wellFormed (.queueEnable init tkt)) (openWrite init tkt pageRM 0x148 8 (withS fun s =>
    if (s.queue (selected s)).qlock then errWindow pageRM 1 init tkt 0x148 (2 ^ 63) true
    else enableQueue init tkt (selected s) (2 ^ 63))) s

/-- A write of 0 to ENABLE of the selected queue (R274). [DEDUCED: log entry 180] -/
def execQueueDisable (init tkt : Nat) (s : State) : Host.Outcome State Fault Refusal :=
  perform (Instr.wellFormed (.queueDisable init tkt)) (openWrite init tkt pageRM 0x148 8 (withS fun s =>
    if (s.queue (selected s)).qlock then errWindow pageRM 1 init tkt 0x148 0 true
    else disableQueue (selected s))) s

/-! ### Completion -/

/-- The job of unit `u` that completes next: one that stepped aside, the running one, the suspended one, or one that
completes at once. [DESIGN CHOICE: log entry 217] -/
def completing (t : UnitSt) : Option Job :=
  match t.held.find? (fun j => j.started) with
  | some j => some j
  | none => match t.running.filter (fun j => j.status.isSome) with
    | some j => some j
    | none => match t.suspended.filter (fun j => j.status.isSome) with
      | some j => some j
      | none => t.held.find? fun j => j.status.isSome && !j.waits

/-- The unit without a job that has completed. -/
def UnitSt.done (t : UnitSt) (j : Job) : UnitSt :=
  if t.held.contains j then { t with held := without j t.held }
  else if t.running = some j then { t with running := none }
  else { t with suspended := none }

/-- The completion record of a job with CYCLES `cycles` (Table 7-2). -/
def recordBytes (s : State) (j : Job) (cycles : Nat) : List Byte :=
  let x := s.queue j.queue
  let phase := if x.mode = 1 then Nat.xor (s.major % 2) (s.frameIdx % 2) else (x.ctail / 2 ^ x.compLog2 + 1) % 2
  leBytes 8 (dTag j.desc * 2 ^ 32 + satU 23 cycles * 2 ^ 9 + j.status.getD 0 * 2 + phase)
    ++ leBytes 8 (s.frameIdx * 2 ^ 59 + s.major % 2 ^ 11 * 2 ^ 48 + j.entry % 65536 * 2 ^ 32 + j.index % 2 ^ 32)

/-- The place of a job's record (R276, R277). -/
def recordAddr (x : Queue) (j : Job) : Nat := x.compBase + 16 * (if x.mode = 1 then j.index else x.ctail % 2 ^ x.compLog2)

/-- The completion record is written under the queue's OWNER and TICKET, CTAIL moves on, and the message goes out (R271,
R273, R275 to R277, R674). [DEDUCED: log entry 48] -/
def writeRecord (j : Job) (cycles : Nat) (ecc : Ecc) : Act := withS fun s =>
  let x := s.queue j.queue
  let r := checkRange s x.owner x.ticket 1 ecc (recordAddr x j) 16
  if x.stopped then skip
  else if r.1 != 0 then queueFault j.queue 1 r
  else seq [charge 0x0A0 x.ticket true (recordAddr x j) 16, writeRange (recordAddr x j) (recordBytes s j cycles),
    whenA (x.mode == 0) (updQueue j.queue fun x => { x with ctail := next32 x.ctail }),
    whenA (x.irqEn && x.irqId != 0) (pendMsg (0xF000000000 + (81 + x.irqHart) * 0x10000) x.irqId)]

/-- The client's accounts and virtual time (R305, R307, R308). [DEDUCED: log entry 62] [DESIGN CHOICE: log entry 217] -/
def account (j : Job) (cycles bytes energy : Nat) : Act := withS fun s =>
  let c := j.client % 1024
  let share := s.get (RM_CLIENT_SHARE_SHARE c)
  let charge := s.get RM_CHARGE_W_CYC_W * satU 23 cycles + s.get RM_CHARGE_W_BYTE_W * ceilDiv bytes 4096
    + s.get RM_CHARGE_W_NRG_W * energy
  seq [setF (RM_CLIENT_ACCT_CYCLES c) (s.get (RM_CLIENT_ACCT_CYCLES c) + satU 23 cycles),
    setF (RM_CLIENT_ACCT_BYTES c) (s.get (RM_CLIENT_ACCT_BYTES c) + bytes),
    whenA (j.slot.isNone && j.status != some stEMPTY && j.status != some stILLEGAL && share != 0)
      (setF (RM_CLIENT_ACCT_VT c) (s.get (RM_CLIENT_ACCT_VT c) + ceilDiv (charge * 65536) share))]

/-- The slot of a completed job on the unit that runs it: good or not, and WCET_OVER when it completes late (R297, R299). -/
def slotProgress (u : Nat) (j : Job) : Act := withS fun s => match j.slot.bind s.slot with
  | some t =>
    if slotUnit s t != u || (s.slotRun t.id).checked || (s.slotRun t.id).displaced then skip
    else if j.status = some stDONE ∨ j.status = some stEMPTY then
      seq [updSlot t.id (fun r => { r with good := r.good + 1 }),
        whenA ((s.slotRun t.id).good + 1 == t.count && slotStartAt s t + t.wcet < s.inFrame && s.inFrame ≤ slotEndAt s t)
          (countF RM_MISS_CNT_WCET_OVER 1)]
    else updSlot t.id (fun r => { r with bad := true })
  | none => skip

/-- Statuses whose event the failing access or the job's check has logged, or that are no event. -/
def quietStatus (st : Nat) : Bool := [stDONE, stEMPTY, stADDR_FAULT, stFW_DENY, stUNCORR, stRETIRED, stFENCED, stLINK_DOWN].contains st

/-- The page of unit `u`. -/
def unitPage (s : State) (u : Nat) : Nat :=
  if u < 36 then pageTE ((serving s u).getD u) else if u < 40 then pageKV (u - 36) else if u < 104 then pageCE ((u - 40) / 16) else pageFixed u

/-- The end of a job with another status is logged with the status as its code. -/
def logStatus (u : Nat) (j : Job) : Act := withS fun s =>
  let st := j.status.getD 0
  if quietStatus st then skip
  else reportNow (if st = stENG_FAIL then 6 else if st = stGOLD_FAIL then 5 else 15) (unitDie u) st (unitPage s u) u u j.ticket false none (dTag j.desc + j.entry % 65536 * 2 ^ 32)

/-- The island's golden pass of unit `u` ends with a job of its pass queue (R558). -/
def reintProgress (u : Nat) (j : Job) : Act := withS fun s =>
  if s.isl.reint != 1 || j.queue != 65496 + u || !(s.isl.reintWait.contains u) then skip
  else if j.status = some stDONE then
    let left := s.isl.reintWait.filter fun y => y != u
    updIsl fun i => { i with reintWait := left, reint := if left.isEmpty then 2 else 1 }
  else reintEnd 5

/-- A job ends: record, credit, accounts, slot (R275, R79, R207, R305, R308). [DESIGN CHOICE: log entry 237] -/
def completeJob (u cycles bytes energy : Nat) (ecc : Ecc) (j : Job) : Act := seq [
  updUnit u (fun t => t.done j),
  forA j.clash (fun r => seq [lose r.1 r.2, fun s => spoilCtxs (ctxsAt s r.1 r.2) s]),
  match j.commit with
    | some p => whenA (j.status == some stDONE) (commitStep j.ticket p)
    | none => skip,
  writeRecord j cycles ecc,
  whenA (j.post && dPostEn j.desc) (postCredit (dCtrDie j.desc) (dPostCtr j.desc)),
  account j cycles bytes energy,
  slotProgress u j,
  whenA (j.status == some stSHED) (setF (RM_UNIT_STAT_SHED_SEEN u) 1),
  logStatus u j,
  reintProgress u j,
  advanceUnit u,
  refreshReady]

/-- A job of unit `u` that has ended completes (R275). [DESIGN CHOICE: log entries 217, 227] -/
def execJobComplete (u cycles bytes energy : Nat) (ecc : Ecc) (s : State) : Host.Outcome State Fault Refusal :=
  perform (Instr.wellFormed (.jobComplete u cycles bytes energy ecc)) (withS fun s => match completing (s.unit u) with
    | some j => completeJob u cycles bytes energy ecc j
    | none => skip) s

/-! ### Pre-emption -/

/-- Unit `u` runs OPEN work. -/
def runsOpen (s : State) (u : Nat) : Bool := match (s.unit u).running with
  | some j => j.slot.isNone && j.status.isNone
  | none => false

/-- Ringmaster requests pre-emption of OPEN work ahead of a planned slot (R157, R81). -/
def execPreemptRequest (u : Nat) (s : State) : Host.Outcome State Fault Refusal :=
  perform (Instr.wellFormed (.preemptRequest u))
    (withS fun s => whenA (runsOpen s u && planNear s u 3301) (updUnit u fun t => { t with switching := true })) s

/-- The OPEN job of unit `u` is suspended and the unit is free; a retrieval keeps its selection (R262). -/
def suspend (u : Nat) : Act := withS fun s => updUnit u fun t =>
  { t with suspended := t.running.map fun j => { j with kept := keptSelection s u j }, running := none, switching := false }

/-- The unit releases its OPEN job (R154 to R156), or ends the switch with the job already at its end. -/
def release (u : Nat) : Act := seq [
  withS fun s => if runsOpen s u then suspend u else updUnit u fun t => { t with switching := false },
  advanceUnit u]

/-- An engine, KV unit or fixed-function unit releases its OPEN job, `cycles` after the request (R154). -/
def execPreemptRelease (u cycles : Nat) (s : State) : Host.Outcome State Fault Refusal :=
  perform (Instr.wellFormed (.preemptRelease u cycles)) (withS fun s =>
    if isCopyUnit u || !(s.unit u).switching then skip
    else seq [release u,
      whenA (isEngineUnit u && runsOpen s u) (match serving s u with
        | some g => seq [countF (TE_PRE_PRE_CNT g) 1, setF (TE_PRE_PRE_MAX g) (satU 16 (max (s.get (TE_PRE_PRE_MAX g)) cycles))]
        | none => skip)]) s

/-- A copy engine has completed its requests in flight and is free for another queue (R81, R296). -/
def execCopySwitchDone (u : Nat) (s : State) : Host.Outcome State Fault Refusal :=
  perform (Instr.wellFormed (.copySwitchDone u)) (withS fun s => whenA (isCopyUnit u && (s.unit u).switching) (release u)) s

/-- A job that is to stop reaches its next tile boundary (R157, R315). -/
def execJobStopAtTile (u : Nat) (s : State) : Host.Outcome State Fault Refusal :=
  perform (Instr.wellFormed (.jobStopAtTile u)) (withS fun s => match (s.unit u).running with
    | some j => match j.stopWith with
      | some st => stopRunning u st
      | none => skip
    | none => skip) s

/-! ### Slots -/

/-- Unit `u` had not released at the START of a planned slot (R158, R262, R719). [DEDUCED: log entry 57] -/
def lateRelease (t : Slot) (u : Nat) : Act := withS fun s => seq [
  if u < 36 then match serving s u with
    | some g => failEngine g stABORTED
    | none => skip
  else if u < 40 then failKv (u - 36) stABORTED
  else failFixed u,
  whenA (t.typ != 2) (assertWire 2 (unitDie u))]

/-- A job of another slot, or OPEN work, still works on unit `u`. -/
def working (s : State) (u : Nat) : Bool := match (s.unit u).running with
  | some j => j.status.isNone
  | none => false

/-- The golden step or KV check of a SAFE slot starts: of an engine it is the step of the frame index (R164, R292). -/
def stepStart (u : Nat) : Act := withS fun s => match serving s u with
  | some g => whenA (u < 36) (setF (TE_STATUS_GOLD_STEP g) s.frameIdx)
  | none => skip

/-- At the SAFE slot time of TE0 a spare in standby runs the same step (R164). -/
def spareStep (t : Slot) : Act := withS fun s =>
  let g := 9 * (t.unit / 9) + 8
  whenA (t.typ == 0 && t.unit < 36 && t.unit % 9 == 0 && slotOn s t && t.start ≤ s.inFrame && s.inFrame < t.start + t.len
    && s.get (TE_STATUS_STATE g) == 2 && !(diePark s (t.unit / 9)) && !(s.plan.exempt.contains (t.unit / 9))) (setF (TE_STATUS_GOLD_STEP g) s.frameIdx)

/-- The START of a slot (R158, R164, R292, R293, R296). -/
def startSlot (t : Slot) : Act := withS fun s =>
  let u := slotUnit s t
  seq [spareStep t, if !(slotRuns s t) || t.typ = 3 || (s.slotRun t.id).started || (s.slotRun t.id).checked || s.inFrame < slotStartAt s t
      || slotEndAt s t ≤ s.inFrame || unitDead s u || (t.typ = 0 && safeExempt s u) then skip
  else seq [updSlot t.id (fun r => { r with started := true }),
    whenA (working s u) (if isCopyUnit u then updUnit u fun x => { x with switching := true }
      else if u = 105 ∨ u = 107 then skip
      else lateRelease t u),
    whenA (t.typ == 0) (stepStart u),
    advanceUnit u]]

/-- A slot's START (R292, R293). -/
def execSlotStart (slot : Nat) (s : State) : Host.Outcome State Fault Refusal :=
  perform (Instr.wellFormed (.slotStart slot)) (withS fun s => match s.slot slot with
    | some t => startSlot t
    | none => skip) s

/-- The slot is complete (R297, R300): no CTRL or PERC slot of a fixed-function unit that has failed is (R719), nor of units 0 to 103
from P1 entry on (R623). [DEDUCED: log entries 30, 55] -/
def slotComplete (s : State) (t : Slot) : Bool :=
  if t.typ = 0 then (s.slotRun t.id).matched
  else (s.slotRun t.id).good == t.count && !(104 ≤ slotUnit s t && (s.unit (slotUnit s t)).failed) && takesFor s (slotUnit s t)

/-- The unit with the jobs taken for slot `id` that have not started ended with ABORTED (R294). -/
def UnitSt.abortHeld (t : UnitSt) (id : Nat) : UnitSt :=
  { t with held := t.held.map fun j => if j.slot == some id && j.waits then { j with status := some stABORTED } else j }

/-- Jobs of slot `id` are stopped: a running copy at once, another at its next tile boundary; taken ones complete with
ABORTED (R82, R157, R294). -/
def stopSlotJobs (id : Nat) : Act := seq [
  withS fun s => forA (units.filter fun u => match (s.unit u).running with
      | some j => j.slot == some id && j.status.isNone
      | none => false)
    fun u => if isCopyUnit u then stopRunning u stABORTED
      else updUnit u fun t => { t with running := t.running.map fun j => { j with stopWith := some stABORTED } },
  updRm fun r => { r with units := r.units.map fun p => (p.1, p.2.abortHeld id) }]

/-- The carousel entries whose golden comparator tests SAFE slot `t` would serve: of the engine at its position, of a spare in standby
at TE0's slot, of the KV unit (R164, R265). -/
def testsOf (s : State) (t : Slot) : List Nat :=
  if t.unit < 36 then
    let spare := 9 * (t.unit / 9) + 8
    (serving s t.unit).toList.map (fun g => 55 + g) ++ (if t.unit % 9 = 0 ∧ s.get (TE_STATUS_STATE spare) = 2 then [55 + spare] else [])
  else [98 + (t.unit - 36)]

/-- The tests of a SAFE slot that R624 exempts end without a comparison (R564). -/
def testsEnd (t : Slot) : Act := withS fun s =>
  if !(diePark s (unitDie t.unit) || s.plan.exempt.contains (unitDie t.unit)) then skip else
  seq [forA ((testsOf s t).filter fun e => s.isl.awaiting.contains e) (fun e => setF (EL_CAR_RUNNING e) 0),
    updIsl fun i => { i with awaiting := i.awaiting.filter fun e => !((testsOf s t).contains e) }]

/-- Ringmaster checks a slot at its deadline (R297, R298); the error collectors of the dies on which its jobs met a condition of R212 raise
doubt. [DEDUCED: log entry 202] -/
def checkSlot (t : Slot) : Act := withS fun s =>
  let r := s.slotRun t.id
  if !(slotOn s t) || t.typ = 3 || r.checked then skip
  else seq [updSlot t.id (fun r => { r with checked := true }), stopSlotJobs t.id,
    if t.typ = 0 && safeExempt s t.unit then testsEnd t
    else if !(slotRuns s t) || r.asOpen then skip
    else seq [
      whenA (!(slotComplete s t)) (if t.typ = 2 then seq [countF RM_MISS_CNT_PERC_MISS 1, raiseInt pageRM 2, reportNow 4 4 0x131 pageRM (slotUnit s t) 0xFFF 0 false none t.id]
        else seq [countF RM_MISS_CNT_CTRL_MISS 1, raiseInt pageRM 1, reportNow 4 4 0x130 pageRM (slotUnit s t) 0xFFF 0 true none t.id, assertWire 2 4]),
      whenA (t.typ == 1) (forA r.doubtful.eraseDups (assertWire 2))]]

/-- A slot's deadline (R297). -/
def execSlotDeadline (slot : Nat) (s : State) : Host.Outcome State Fault Refusal :=
  perform (Instr.wellFormed (.slotDeadline slot)) (withS fun s => match s.slot slot with
    | some t => whenA (slotEndAt s t ≤ s.inFrame) (checkSlot t)
    | none => skip) s

end Sys2Proof.Machine
end

