-- ==== Sys2Proof/Machine/Sensors.lean ====
section
/-! DEFINITION. Sensor ports and streams of the fusion unit (R382 to R392, R401 to R406). -/

namespace Sys2Proof.Machine

/-- Page, unit and initiator of the fusion unit. -/
def pageFU : Nat := 7
def unitFU : Nat := 107
def initFU : Nat := 0x06B

/-- The ticket of the fusion unit's requests outside jobs (R387). -/
def fuTicket (s : State) : Nat := s.get FU_CTRL_TICKET

/-- Stream `i`, and group `g`. -/
def State.stream (s : State) (i : Nat) : StreamSt := (mget s.fu.streams i).getD ⟨0, none, [], none⟩
def State.fgroup (s : State) (g : Nat) : FgSt := (mget s.fu.groups g).getD ⟨none, none, none, [], [], [], [], 0⟩

def updStream (i : Nat) (f : StreamSt → StreamSt) : Act := fun s =>
  [.setFu { s.fu with streams := mset s.fu.streams i (f (s.stream i)) }]
def updFgroup (g : Nat) (f : FgSt → FgSt) : Act := fun s =>
  [.setFu { s.fu with groups := mset s.fu.groups g (f (s.fgroup g)) }]

/-- A stream takes samples. -/
def streamOn (s : State) (i : Nat) : Bool := s.is FU_CTRL_EN && s.is (FU_STREAM_CFG_EN i)

/-- A stream is a member of some group. -/
def inGroup (s : State) (i : Nat) : Bool := s.is (FU_STREAM_CFG_IN_GROUP i)

/-- The slot of sample number `n` of stream `i` (R386). -/
def slotAddr (s : State) (i n : Nat) : Nat :=
  s.get (FU_STREAM_RING_RING_BASE i) + n % 2 ^ s.get (FU_STREAM_RING_SLOTS_LOG2 i) * 2 ^ s.get (FU_STREAM_RING_SLOT_LOG2 i)

/-- The payload room of a slot. -/
def slotRoom (s : State) (i : Nat) : Nat := 2 ^ s.get (FU_STREAM_RING_SLOT_LOG2 i) - 32

/-! ### Late samples and unreliable streams -/

/-- A cycle of group `g` has closed, before the group was last enabled or since. -/
def hasClosed (s : State) (g : Nat) : Bool := (s.fgroup g).prevRef.isSome || s.get (FU_GROUP_LAST_OUT_TIME g) != 0

/-- A sample of a group member with timestamp `ts` is late (R401). -/
def isLate (s : State) (i ts : Nat) : Bool :=
  let g := s.get (FU_STREAM_CFG_GROUP i)
  inGroup s i && hasClosed s g && ts ≤ s.get (FU_GROUP_LAST_OUT_TIME g)

/-- The fusion unit reads `n` bytes at `a` outside jobs, where it may: charged at the ports (R332). -/
def fuReads (a n : Nat) : Act := withS fun s =>
  whenA ((checkRange s initFU (fuTicket s) 0 ⟨[], []⟩ a n).1 == 0) (charge initFU (fuTicket s) false a n)

/-- A write of the fusion unit outside jobs, where it may write. [DESIGN CHOICE: log entry 14] -/
def fuWrite (a : Nat) (bs : List Byte) : Act := withS fun s =>
  let r := checkRange s initFU (fuTicket s) 1 ⟨[], []⟩ a bs.length
  if r.1 = 0 then seq [charge initFU (fuTicket s) true a bs.length, writeRange a bs]
  else if r.1 = stFW_DENY then violation initFU (fuTicket s) 1 r.2.1 r.2.2 else skip

/-- A late sample is counted, logged and reported (R401, R403). -/
def noteLate (i n ts : Nat) : Act := withS fun s =>
  let g := s.get (FU_STREAM_CFG_GROUP i)
  let a := s.get FU_LATE_BASE_BASE + 16 * (s.get FU_LATE_HEAD_LATE_HEAD % 256)
  let lateness := satU 32 (s.timestamp - s.get (FU_GROUP_LAST_OUT_TIME g))
  seq [countF (FU_STREAM_CNT_LATE i) 1,
    updFgroup g (fun x => { x with late := x.late + 1 }),
    fuWrite a (leBytes 8 ts ++ leBytes 8 (i + n % 65536 * 2 ^ 16 + lateness * 2 ^ 32)),
    setF FU_LATE_HEAD_LATE_HEAD (s.get FU_LATE_HEAD_LATE_HEAD + 1),
    reportNow 12 4 0x230 pageFU unitFU initFU (fuTicket s) false none (i + g * 256),
    raiseInt pageFU 2]

/-- LWIN as it acts (Table 10-10). -/
def lwin (s : State) (i : Nat) : Nat := min 1024 (max 16 (s.get (FU_STREAM_LATE_LWIN i)))

/-- The window counts of a member take one more sample; at a window's end the member may become unreliable (R404), but not in the grid
cycle of a write of REINSTATE (R405). [DESIGN CHOICE: log entry 249] -/
def countWindow (i : Nat) (late : Bool) : Act := withS fun s =>
  let seen := s.get (FU_STREAM_WIN_WIN_SEEN i) + 1
  let lates := s.get (FU_STREAM_WIN_WIN_LATE i) + ofBool late
  if seen < lwin s i then seq [setF (FU_STREAM_WIN_WIN_SEEN i) seen, setF (FU_STREAM_WIN_WIN_LATE i) lates]
  else seq [setF (FU_STREAM_WIN_WIN_SEEN i) 0, setF (FU_STREAM_WIN_WIN_LATE i) 0,
    whenA (s.get (FU_STREAM_LATE_LATE_THR i) * lwin s i < 1024 * lates && !(s.is (FU_STREAM_LATE_UNREL i)) && (s.stream i).reinstate != some s.grid.now)
      (seq [setF (FU_STREAM_LATE_UNREL i) 1, raiseInt pageFU 1,
        reportNow 12 4 0x231 pageFU unitFU initFU (fuTicket s) false none (i + s.get (FU_STREAM_CFG_GROUP i) * 256)])]

/-- A write of REINSTATE: it takes effect at the next cycle boundary (R405). -/
def execReinstate (init i : Nat) (s : State) : Host.Outcome State Fault Refusal :=
  perform (Instr.wellFormed (.reinstate init i)) (withS (fun s => openWrite init (ticketOf s init) pageFU (0x2000 + 32 * i) 4
    (withS fun s => updStream i fun x => { x with reinstate := some s.grid.now }))) s

/-! ### Histories of STATE groups (R406) -/

/-- The value of a channel map entry in a payload (R406). [DESIGN CHOICE: log entry 61] -/
def channelValue (e : List Byte) (payload : List Byte) : Nat :=
  let off := le e 0 2
  let typ := field (le e 2 1) 3 0
  let n := if typ = 0 ∨ typ = 1 ∨ typ = 4 then 2 else if typ = 2 then 3 else 4
  let raw := le payload off n
  let v := if typ = 0 then f32Int (toSigned 16 raw) else if typ = 1 then f32Int raw else if typ = 2 then f32Int (toSigned 24 raw)
    else if typ = 3 then f32Int (toSigned 32 raw) else if typ = 4 then f32 (decodeFloat (floatFmt 1) raw) else raw
  if payload.length < off + n then f32NaN else fadd (fmul v (le e 4 4)) (le e 8 4)

/-- The channel is in use: TYPE 0 to 5. [DESIGN CHOICE: log entry 61] -/
def channelUsed (e : List Byte) : Bool := field (le e 2 1) 3 0 ≤ 5

/-- The 16 map entries of member `m` of group `g`, as the fusion unit reads them outside jobs, if it can. [DESIGN CHOICE: log entry 14] -/
def channelMap (s : State) (g m : Nat) : Option (List (List Byte)) :=
  let a := s.get (FU_GROUP_PB_PB g) + 256 * m
  if (checkRange s initFU (fuTicket s) 0 ⟨[], []⟩ a 256).1 = 0 then some (chunks 16 16 (readRange s a 256)) else none

/-- A usable sample of a STATE group's member enters its history; a map that cannot be read decodes to NaN (log entry
14). The history takes an unreliable member's samples too; no value is formed of them (R404). [DESIGN CHOICE: log entry 14] [DEDUCED: log entry 248] -/
def enterHistory (i ts : Nat) (payload : List Byte) : Act := withS fun s =>
  let g := s.get (FU_STREAM_CFG_GROUP i)
  let m := s.get (FU_STREAM_CFG_MEMBER i)
  let vals := match channelMap s g m with
    | some es => es.map fun e => if channelUsed e then channelValue e payload else 0
    | none => List.replicate 16 f32NaN
  if !(inGroup s i) || s.is (FU_GROUP_CFG_KIND g) then skip
  else seq [fuReads (s.get (FU_GROUP_PB_PB g) + 256 * m) 256,
    updFgroup g fun x => { x with histories := mset x.histories m (((ts, vals) :: (mget x.histories m).getD []).take 4) }]

/-! ### Calibration records and projection (R408, R409, R424) -/

/-- Address of the active and of the pending record of stream `i`. -/
def calActive (s : State) (i : Nat) : Nat := s.get FU_CAL_BASE_BASE + 64 * i
def calPending (s : State) (i : Nat) : Nat := s.get FU_CAL_BASE_BASE + 4096 + 64 * i

/-- 64 bytes as the fusion unit reads them outside jobs; zeros where it may not. [DESIGN CHOICE: log entry 14] -/
def fuRead (s : State) (a : Nat) : List Byte :=
  if (checkRange s initFU (fuTicket s) 0 ⟨[], []⟩ a 64).1 = 0 then readRange s a 64 else List.replicate 64 0#8

def calValid (c : List Byte) : Bool := bit (le c 4 4) 0
def calRefine (c : List Byte) : Bool := bit (le c 4 4) 1
/-- q, t and the camera parameters fx, fy, cx, cy, k1, k2 of a record. -/
def calQ (c : List Byte) : List Nat := tab 4 fun i => le c (8 + 4 * i) 4
def calT (c : List Byte) : List Nat := tab 3 fun i => le c (24 + 4 * i) 4
def calCam (c : List Byte) (i : Nat) : Nat := le c (36 + 4 * i) 4
def calW (c : List Byte) : Nat := le c 60 2
def calH (c : List Byte) : Nat := le c 62 2

/-- 1 and 2 in FP32. -/
def fOne : Nat := 0x3F800000
def fTwo : Nat := 0x40000000

/-- The rotation matrix of a quaternion, by rows (R408). -/
def rotMatrix (q : List Nat) : List (List Nat) :=
  let w := q.getD 0 0
  let x := q.getD 1 0
  let y := q.getD 2 0
  let z := q.getD 3 0
  let d (a b : Nat) : Nat := fsub fOne (fmul fTwo (fadd (fmul a a) (fmul b b)))
  let p (a b c e : Nat) : Nat := fmul fTwo (fadd (fmul a b) (fmul c e))
  let m (a b c e : Nat) : Nat := fmul fTwo (fsub (fmul a b) (fmul c e))
  [[d y z, m x y w z, p x z w y], [p x y w z, d x z, m y z w x], [m x z w y, p y z w x, d x y]]

/-- The transpose of a 3 × 3 matrix. -/
def transpose3 (m : List (List Nat)) : List (List Nat) := tab 3 fun i => tab 3 fun j => (m.getD j []).getD i 0

/-- A matrix-vector product summed in column order (R408). -/
def matVec (m : List (List Nat)) (v : List Nat) : List Nat := m.map fun r =>
  fadd (fadd (fmul (r.getD 0 0) (v.getD 0 0)) (fmul (r.getD 1 0) (v.getD 1 0))) (fmul (r.getD 2 0) (v.getD 2 0))

/-- A sensor point in the body frame, and a body point in a camera's frame (R408). -/
def toBody (c : List Byte) (p : List Nat) : List Nat := List.zipWith fadd (matVec (rotMatrix (calQ c)) p) (calT c)
def toCamera (c : List Byte) (b : List Nat) : List Nat :=
  matVec (transpose3 (rotMatrix (calQ c))) (List.zipWith fsub b (calT c))

/-- Image coordinates of a camera point (R409). -/
def project (c : List Byte) (x : List Nat) : Nat × Nat :=
  let xn := fdiv (x.getD 0 0) (x.getD 2 0)
  let yn := fdiv (x.getD 1 0) (x.getD 2 0)
  let r2 := fadd (fmul xn xn) (fmul yn yn)
  let d := fadd (fadd fOne (fmul (calCam c 4) r2)) (fmul (fmul (calCam c 5) r2) r2)
  (fadd (fmul (fmul (calCam c 0) xn) d) (calCam c 2), fadd (fmul (fmul (calCam c 1) yn) d) (calCam c 3))

/-! ### Calibration from correspondences (R426) -/

/-- 0.05 in FP32. -/
def fMinZ : Nat := 0x3D4CCCCD

/-- An empty accumulator. -/
def CalSt.zero : CalSt := ⟨List.replicate 6 (List.replicate 6 0), List.replicate 6 0, 0⟩

/-- One row j with residual r added to an accumulator. -/
def CalSt.addRow (x : CalSt) (w : Nat) (j : List Nat) (r : Nat) : CalSt :=
  { x with b := List.zipWith (fun b ji => fadd b (fmul (fmul w ji) r)) x.b j, a := List.zipWith (fun row ji => List.zipWith (fun a jk => fadd a (fmul (fmul w ji) jk)) row j) x.a j }

/-- The Jacobian row of an image derivative `j` (R426). -/
def jacobian (j x : List Nat) : List Nat :=
  let a (i : Nat) : Nat := j.getD i 0
  let c (i : Nat) : Nat := x.getD i 0
  [fsub (fmul (a 1) (c 2)) (fmul (a 2) (c 1)), fsub (fmul (a 2) (c 0)) (fmul (a 0) (c 2)),
    fsub (fmul (a 0) (c 1)) (fmul (a 1) (c 0)), fneg (a 0), fneg (a 1), fneg (a 2)]

/-- One correspondence (R426): its camera's accumulator, or a rejection. -/
def accumulate (r : List Byte) : Act := withS fun s =>
  let cam := le r 1 1
  let pc := fuRead s (calActive s (le r 0 1))
  let cc := fuRead s (calActive s cam)
  let x := toCamera cc (toBody pc [le r 12 4, le r 16 4, le r 20 4])
  let iz := fdiv fOne (x.getD 2 0)
  let uv := project cc x
  let fx := calCam cc 0
  let fy := calCam cc 1
  let ju := [fmul fx iz, 0, fmul (fmul (fmul (fneg fx) (x.getD 0 0)) iz) iz]
  let jv := [0, fmul fy iz, fmul (fmul (fmul (fneg fy) (x.getD 1 0)) iz) iz]
  let w := f32 (decodeFloat (floatFmt 1) (le r 2 2))
  let reads := forA ([le r 0 1, cam].filter (· < 64)) fun k => fuReads (calActive s k) 64
  if 64 ≤ le r 0 1 || 64 ≤ cam || !(calRefine cc) || !(calValid cc) || !(calValid pc) then reads
  else if !(flt fMinZ (x.getD 2 0)) then seq [reads, countF FU_CAL_STAT_REJECTS 1]
  else seq [reads, updFu fun f =>
    let c := (mget f.cal cam).getD CalSt.zero
    let c := (c.addRow w (jacobian ju x) (fsub (le r 4 4) uv.1)).addRow w (jacobian jv x) (fsub (le r 8 4) uv.2)
    { f with cal := mset f.cal cam { c with n := c.n + 1 } }]

/-! ### Taking a sample -/

/-- Flags of a sample header (Table 10-2). -/
def headerFlags (corrupt short late derived : Bool) : Nat := ofBool corrupt + 2 * ofBool short + 4 * ofBool late + 8 * ofBool derived

/-- Word 2 of a sample header. -/
def headerWord2 (n flags i len : Nat) : Nat := n % 65536 * 2 ^ 48 + flags * 2 ^ 44 + i * 2 ^ 32 + len % 2 ^ 32

/-- What follows when sample `n` of stream `i` becomes visible: counts, late handling, window, history, credit, and the
accumulation of correspondences (R386, R388, R392, R401, R404, R406, R426). -/
def sampleVisible (i n ts : Nat) (unusable late : Bool) (payload : List Byte) : Act := withS fun s =>
  let content := s.get (FU_STREAM_CFG_CONTENT i)
  seq [updStream i (fun x => { x with seq := x.seq + 1, lastTs := some ts, samples := if unusable || late then x.samples else ⟨n, ts, slotAddr s i n⟩ :: x.samples }),
    countF (FU_STREAM_CNT_SAMPLES i) 1,
    whenA unusable (countF (FU_STREAM_CNT_BAD i) 1),
    whenA late (noteLate i n ts),
    whenA (inGroup s i) (countWindow i late),
    whenA (!unusable) (enterHistory i ts payload),
    whenA (content == 5 && !unusable) (forA (chunks 32 (payload.length / 32) payload) accumulate),
    whenA (s.is (FU_STREAM_CFG_POST_EN i)) (postReady (s.get (FU_STREAM_CFG_CTR_DIE i) % 4) (s.get (FU_STREAM_CFG_POST_CTR i) % 256))]

/-- A payload of `n` bytes is too long for its slot, or is an image with no lines (R386, R390). -/
def isShort (s : State) (i n : Nat) : Bool := slotRoom s i < n || (s.get (FU_STREAM_CFG_CONTENT i) == 1 && n == 0)

/-- A timestamp is discarded at arrival time `now` (R385). [DEDUCED: log entry 64] -/
def tsDiscarded (x : StreamSt) (ts : Int) (now : Nat) : Bool :=
  decide ((now : Int) < ts) || decide (ts < (now : Int) - 1000000000) || (match x.lastTs with
    | some l => decide (ts ≤ (l : Int))
    | none => decide (ts < 0))

/-- A sample with timestamp `ts` and payload `p` arrives on stream `i`: discarded, or written to its slot in the order of
R387 and visible. An IMAGE sample with no lines is SHORT (R390). A slot that the firewalls do not let the fusion unit write takes
nothing (log entry 14). [DESIGN CHOICE: log entry 14] -/
def takeSample (i : Nat) (ts : Int) (p : List Byte) (corrupt : Bool) (source : Nat) : Act := withS fun s =>
  let x := s.stream i
  let room := slotRoom s i
  let short := isShort s i p.length
  let body := p.take room
  let a := slotAddr s i x.seq
  let late := isLate s i ts.toNat
  let r := checkRange s initFU (fuTicket s) 1 ⟨[], []⟩ a (32 + body.length)
  if tsDiscarded x ts s.timestamp then countF (FU_STREAM_CNT_BAD i) 1
  else if r.1 != 0 then accessFailed initFU (fuTicket s) 1 r
  else seq [charge initFU (fuTicket s) true a (32 + body.length), writeRange (a + 32) body,
    writeRange (a + 8) (leBytes 8 s.timestamp ++ leBytes 8 (headerWord2 x.seq (headerFlags corrupt short late false) i body.length)
      ++ leBytes 8 (source % 2 ^ 32)),
    writeRange a (leBytes 8 ts.toNat),
    sampleVisible i x.seq ts.toNat (corrupt || short) late body]

/-- The embedded timestamp of an Ethernet payload; bytes that the payload does not hold are free (R384). [DESIGN CHOICE: log entry 246] -/
def embeddedTs (s : State) (i : Nat) (data : List Byte) : Nat :=
  ofLe (tab 8 fun k => (data[s.get (FU_STREAM_SEL_EMB_OFF i) + k]?).getD (Config.freeByte s.fresh k))

/-- The timestamp of a sample whose port gives raw time `raw` in ns (R384). -/
def sampleTs (s : State) (i : Nat) (raw : Int) (data : List Byte) : Int :=
  let ofs := toSigned 32 (s.get (FU_STREAM_TS_OFS i))
  if s.is (FU_STREAM_CFG_TS_SRC i) && s.get (FU_STREAM_CFG_PORT i) == 1 then (embeddedTs s i data : Nat) + ofs
  else raw - toSigned 32 (s.get (FU_STREAM_TS_LAT i)) + ofs

/-- Bits of SEL that select on a port (Table 10-1). -/
def selMask (port : Nat) : Nat :=
  if port = 0 then 2 ^ 10 - 1 else if port = 1 then 2 ^ 17 - 1 else if port = 3 then 2 ^ 7 - 1 else if port = 4 then 2 ^ 30 - 1 else 0

/-- Stream `i` takes what port kind `port` delivers with this selector (R383). [DESIGN CHOICE: log entry 11] -/
def takes (s : State) (i port sel : Nat) : Bool :=
  streamOn s i && s.get (FU_STREAM_CFG_PORT i) == port && Nat.land (s.get (FU_STREAM_SEL_SEL i)) (selMask port) == Nat.land sel (selMask port)

/-- The CSI-2 data type that a stream selects. -/
def csiType (s : State) (i : Nat) : Nat := field (s.get (FU_STREAM_SEL_SEL i)) 9 4

/-- Data types of R391, by the codes of the CSI-2 standard (log entry 15). [PRESUMED: log entry 15] -/
def csiTypeOk (t : Nat) : Bool := [0x2A, 0x2B, 0x2C, 0x2E, 0x1E, 0x24, 0x12].contains t || (0x30 ≤ t && t ≤ 0x37)

/-- RAW10 and RAW12 lines unpacked to 16 bits a pixel (Table 10-3), by the packing of the CSI-2 standard (log entry 15). [PRESUMED: log entry 15] -/
def unpackRaw (t : Nat) (bs : List Byte) : List Byte :=
  let b (k : List Byte) (j : Nat) : Nat := le k j 1
  if t = 0x2B then (chunks 5 (bs.length / 5) bs).flatMap fun k =>
    (List.range 4).flatMap fun j => leBytes 2 (b k j * 4 + field (b k 4) (2 * j + 1) (2 * j))
  else if t = 0x2C then (chunks 3 (bs.length / 3) bs).flatMap fun k =>
    leBytes 2 (b k 0 * 16 + field (b k 2) 3 0) ++ leBytes 2 (b k 1 * 16 + field (b k 2) 7 4)
  else bs

/-- A CSI-2 frame (R383, R391). [DESIGN CHOICE: log entry 11] -/
def execCsi2Frame (i : Nat) (a : Arrival) (s : State) : Host.Outcome State Fault Refusal :=
  perform (Instr.wellFormed (.csi2Frame i a)) (withS fun s =>
    let image := s.get (FU_STREAM_CFG_CONTENT i) == 1
    if !(takes s i 0 a.sel) || !(csiTypeOk (csiType s i)) then skip
    else takeSample i (sampleTs s i a.rawTs a.data) (if image then unpackRaw (csiType s i) a.data else a.data) (!a.good)
      (field (s.get (FU_STREAM_SEL_SEL i)) 9 0)) s

/-- A matching Ethernet frame (R383, R384). Its raw time is the ingress timestamp of its MAC; MAC 0 and 1 are ports 0 and 1
of Table 9-8 (log entry 16). A frame that is not good is not taken. [DESIGN CHOICE: log entry 11] [PRESUMED: log entry 16] -/
def execEthernetSample (i : Nat) (a : Arrival) (s : State) : Host.Outcome State Fault Refusal :=
  perform (Instr.wellFormed (.ethernetSample i a)) (withS fun s =>
    let raw := ingress s (s.get (FU_STREAM_CFG_INST i)) ((a.rawTs * 65536 : Nat) : Int) / 65536
    if !(takes s i 1 a.sel) || !a.good then skip
    else seq [takeSample i (sampleTs s i raw a.data) a.data false (field (s.get (FU_STREAM_SEL_SEL i)) 15 0), fun _ => [.bump]]) s

/-- The SPI port of stream IMU_STREAM writes the sample to the island's IMU mirror too, whatever the fusion unit does with
it (R546). The manual gives the mirror no address; it stands as state of the island. -/
def imuMirror (i : Nat) (d : List Byte) : Act := withS fun s =>
  whenA (s.is EL_NET_CFG_IMU_EN && s.get EL_NET_CFG_IMU_STREAM == i && s.get (FU_STREAM_CFG_PORT i) == 2 && s.is (FU_STREAM_CFG_EN i))
    (updIsl fun x => { x with imu := d, imuAt := some s.grid.pointAt })

/-- A DRDY rising edge: LEN bytes read over SPI (R383, R546). [DESIGN CHOICE: log entry 11] -/
def execSpiDrdy (i : Nat) (a : Arrival) (s : State) : Host.Outcome State Fault Refusal :=
  perform (Instr.wellFormed (.spiDrdy i a)) (withS fun s =>
    let len := field (s.get (FU_STREAM_SEL_SEL i)) 7 0 + 1
    let d := a.data.take len
    if !a.good then skip
    else seq [imuMirror i d, whenA (takes s i 2 a.sel) (takeSample i (sampleTs s i a.rawTs d) d false 0)]) s

/-- An In-Band Interrupt or a poll (R383). [DESIGN CHOICE: log entry 11] -/
def execI3cSample (i : Nat) (a : Arrival) (s : State) : Host.Outcome State Fault Refusal :=
  perform (Instr.wellFormed (.i3cSample i a)) (withS fun s =>
    let sel := s.get (FU_STREAM_SEL_SEL i)
    let d := if bit sel 7 then a.data.take (field sel 15 8 + 1) else a.data
    if !(takes s i 3 a.sel) || !a.good then skip
    else takeSample i (sampleTs s i a.rawTs d) d false 0) s

/-- A CAN frame with a stream's identifier (R383). [DESIGN CHOICE: log entry 11] -/
def execCanFrame (i : Nat) (a : Arrival) (s : State) : Host.Outcome State Fault Refusal :=
  perform (Instr.wellFormed (.canFrame i a)) (withS fun s =>
    if !(takes s i 4 a.sel) || !a.good then skip
    else takeSample i (sampleTs s i a.rawTs a.data) a.data false (field (s.get (FU_STREAM_SEL_SEL i)) 28 0)) s

/-- A derived stream: the producer's credit is taken, and the slot it wrote is judged and completed (R389). -/
def execDerivedRecord (i : Nat) (a : Arrival) (s : State) : Host.Outcome State Fault Refusal :=
  perform (Instr.wellFormed (.derivedRecord i a)) (withS fun s =>
    let sel := s.get (FU_STREAM_SEL_SEL i)
    let die := field sel 9 8
    let ctr := field sel 7 0
    let x := s.stream i
    let slot := slotAddr s i x.seq
    let r := checkRange s initFU (fuTicket s) 1 ⟨[], []⟩ slot 32
    let h := readRange s slot 32
    let ts := le h 0 8
    let len := min (le h 16 4) (slotRoom s i)
    let short := isShort s i (le h 16 4)
    let late := isLate s i ts
    if !(streamOn s i) || s.get (FU_STREAM_CFG_PORT i) != 5 || s.get (CE_CTR_VALUE die ctr) = 0 then skip
    else seq [takeCredit die ctr,
      if r.1 != 0 || (checkRange s initFU (fuTicket s) 0 ⟨[], []⟩ slot (32 + len)).1 != 0 then
        accessFailed initFU (fuTicket s) 1 (if r.1 != 0 then r else checkRange s initFU (fuTicket s) 0 ⟨[], []⟩ slot (32 + len))
      else if tsDiscarded x ts s.timestamp then seq [charge initFU (fuTicket s) false slot (32 + len), countF (FU_STREAM_CNT_BAD i) 1]
      else seq [charge initFU (fuTicket s) false slot (32 + len), charge initFU (fuTicket s) true (slot + 8) 24, writeRange (slot + 8) (leBytes 8 s.timestamp ++ leBytes 8 (headerWord2 x.seq (headerFlags false short late true) i len)
          ++ leBytes 8 0),
        sampleVisible i x.seq ts short late (readRange s (slot + 32) len)]]) s

/-- A write of `v` enables stream `i`; a seventeenth CSI-2 stream is refused (R382). -/
def enableStream (init tkt i v : Nat) : Act := withS fun s =>
  let cameras := (List.range 64).filter fun k => k != i && s.is (FU_STREAM_CFG_EN k) && s.get (FU_STREAM_CFG_PORT k) == 0
  if s.get (FU_STREAM_CFG_PORT i) == 0 && 16 ≤ cameras.length then errWindow pageFU 4 init tkt (0x1000 + 32 * i) v true
  else setF (FU_STREAM_CFG_EN i) 1

/-- A write that enables a stream (R382). -/
def execFuStreamEnable (init tkt i : Nat) (s : State) : Host.Outcome State Fault Refusal :=
  perform (Instr.wellFormed (.fuStreamEnable init tkt i))
    (openWrite init tkt pageFU (0x1000 + 32 * i) 8 (enableStream init tkt i (2 ^ 63))) s

end Sys2Proof.Machine
end

