-- ==== Sys2Proof/Machine/Align.lean ====
section
/-! DEFINITION. Alignment groups: cycles, closing, snapshots (R393 to R405, R421), and calibration at the boundaries of
frame index 0 (R425 to R428). -/

namespace Sys2Proof.Machine

/-! ### Members and cycles -/

/-- The enabled streams of group `g` with member number `m`. -/
def memberStreams (s : State) (g m : Nat) : List Nat := (List.range 64).filter fun i =>
  s.is (FU_STREAM_CFG_EN i) && inGroup s i && s.get (FU_STREAM_CFG_GROUP i) == g && s.get (FU_STREAM_CFG_MEMBER i) == m

/-- Members of group `g` in ascending order, each with its stream. -/
def members (s : State) (g : Nat) : List (Nat × Nat) := (List.range 16).filterMap fun m => (memberStreams s g m).head?.map fun i => (m, i)

/-- Two enabled streams name the same member of group `g` (R393). -/
def membersClash (s : State) (g : Nat) : Bool := (List.range 16).any fun m => 2 ≤ (memberStreams s g m).length

/-- DIV, PHASE and WAIT as they act (Table 10-11). -/
def groupDiv (s : State) (g : Nat) : Nat := min 200 (max 1 (s.get (FU_GROUP_CFG_DIV g)))
def groupPhase (s : State) (g : Nat) : Nat := min (s.get (FU_GROUP_CFG_PHASE g)) (groupDiv s g - 1)
def groupWait (s : State) (g : Nat) : Nat := min 10000 (s.get (FU_GROUP_CFG_WAIT g))

/-- Number of the current control frame, 20 × major + index (R394). -/
def frameNumber (s : State) : Nat := 20 * s.major + s.frameIdx

/-- A cycle of group `g` starts at the current frame's boundary (R394). [DEDUCED: log entry 76] -/
def cycleStartsNow (s : State) (g : Nat) : Bool :=
  s.is (FU_GROUP_CFG_EN g) && s.planOn && frameNumber s % groupDiv s g == groupPhase s g

/-- The samples of stream `i` that the snapshot of a cycle holds for it, oldest first: the usable ones with T_prev < ts ≤ T_ref, whose
presence makes the member present (R395, R397). [DEDUCED: log entry 17] -/
def cycleSamples (s : State) (c : Cycle) (i : Nat) : List Sample :=
  if s.is (FU_STREAM_LATE_UNREL i) then []
  else ((s.stream i).samples.filter fun x => decide (c.tPrev < (x.ts : Int)) && x.ts ≤ c.tRef).reverse

/-- A stream is safety-relevant (R418). -/
def safetyStream (s : State) (i : Nat) : Bool :=
  s.is (FU_STREAM_CFG_SAFETY i) || (s.get (FU_STREAM_CFG_PORT i) == 5 && s.is (FU_STREAM_CFG_SAFETY (s.get (FU_STREAM_SEL_SRC_STREAM i))))

/-- Bits of the members for which `p` holds. -/
def memberMask (ms : List (Nat × Nat)) (p : Nat → Bool) : Nat := ms.foldl (fun a m => if p m.2 then a + 2 ^ m.1 else a) 0

/-- The grid cycle at which the cycle's wait limit closes it (R396). -/
def closeLimit (s : State) (g : Nat) (c : Cycle) : Nat :=
  let t := c.at_ + 11000 * groupWait s g
  let next := c.at_ + 550000 * groupDiv s g
  if next ≤ t then next - 1 else t

/-- Every REQUIRED member that is not unreliable is present. -/
def allPresent (s : State) (g : Nat) (c : Cycle) : Bool := (members s g).all fun m =>
  !(s.is (FU_STREAM_CFG_ROLE m.2)) || s.is (FU_STREAM_LATE_UNREL m.2) || !(cycleSamples s c m.2).isEmpty

/-- Closed cycles for which a member has been absent, with the one that has just closed (R421). -/
def Presence.after (p : Presence) : Nat × Nat := (p.member, if p.absent then p.run + 1 else 0)

/-- The open cycle of group `g` closes (R396 to R400, R421). -/
def closeCycle (g : Nat) (c : Cycle) : Act := withS fun s =>
  let x := s.fgroup g
  let ms := members s g
  let absent (i : Nat) : Bool := (cycleSamples s c i).isEmpty
  let timeout := !(allPresent s g c)
  let safetyMiss := ms.any fun m => safetyStream s m.2 && absent m.2
  let seen : List Presence := ms.map fun m => ⟨m.1, m.2, absent m.2, (mget x.missRun m.1).getD 0⟩
  let status := memberMask ms absent * 2 ^ 48 + memberMask ms (fun i => s.is (FU_STREAM_LATE_UNREL i)) * 2 ^ 32
    + satU 8 x.late * 2 ^ 24 + ofBool safetyMiss * 2 ^ 9 + ofBool timeout * 2 ^ 8
  let h : Held := ⟨s.get (FU_GROUP_STAT_CYCLE g), c, (ms.filter fun m => !(absent m.2)).map (fun m => (m.1, m.2, cycleSamples s c m.2)),
    x.histories.filter (fun p => !(ms.any fun m => m.1 == p.1 && s.is (FU_STREAM_LATE_UNREL m.2))), status, seen⟩
  seq [whenA x.held.isSome (seq [countF (FU_GROUP_STAT_CYC_LOST g) 1, raiseInt pageFU 6]),
    whenA timeout (countF (FU_GROUP_STAT_TIMEOUTS g) 1),
    updFgroup g (fun x => { x with opened := none, held := some h, prevRef := some c.tRef, missRun := seen.map Presence.after, late := 0 }),
    setF (FU_GROUP_STAT_CYCLE g) (s.get (FU_GROUP_STAT_CYCLE g) + 1),
    setF (FU_GROUP_LAST_OUT_TIME g) c.tRef,
    setF FU_STATUS_HELD (setBit (s.get FU_STATUS_HELD) g)]

/-- A cycle closes once its required members are present, or at its limit (R396). -/
def execCycleClose (g : Nat) (s : State) : Host.Outcome State Fault Refusal :=
  perform (Instr.wellFormed (.cycleClose g)) (withS fun s => match (s.fgroup g).opened with
    | some c => whenA (allPresent s g c || closeLimit s g c ≤ s.grid.now) (closeCycle g c)
    | none => skip) s

/-- The streams whose calibration records a SCENE group may use: its members, and the streams that derived members
describe. -/
def calStreams (s : State) (g : Nat) : List Nat :=
  ((members s g).flatMap fun m => [m.2, s.get (FU_STREAM_SEL_SRC_STREAM m.2)]).eraseDups

/-- Reinstatements of the members of a group take effect (R405). -/
def reinstateMembers (g : Nat) : Act := withS fun s => forA ((members s g).filter fun m => (s.stream m.2).reinstate.isSome) fun m =>
  seq [setF (FU_STREAM_LATE_UNREL m.2) 0, setF (FU_STREAM_WIN_WIN_SEEN m.2) 0, setF (FU_STREAM_WIN_WIN_LATE m.2) 0,
    updStream m.2 fun x => { x with reinstate := none }]

/-- At a boundary, a group whose turn it is starts a cycle; one still open closes first (R394, R396). [DEDUCED: log entry 212] -/
def startCycle (g : Nat) : Act := withS fun s =>
  if !(cycleStartsNow s g) then skip else seq [
    match (s.fgroup g).opened with
      | some c => closeCycle g c
      | none => skip,
    reinstateMembers g,
    withS fun s =>
      let t := s.grid.tk
      let prev : Int := match (s.fgroup g).prevRef with
        | some p => p
        | none => (t : Int) - (groupDiv s g * 500000 : Nat)
      let cals := if s.is (FU_GROUP_CFG_KIND g) then (calStreams s g).mergeSort else []
      seq [forA cals (fun i => fuReads (calActive s i) 64),
        updFgroup g fun x => { x with opened := some ⟨s.grid.boundaryAt, t, prev, cals.map (fun i => (i, fuRead s (calActive s i))), s.get FU_CAL_EPOCH_CAL_EPOCH⟩ }]]

/-- Clearing a group's EN drops its cycles (Table 10-11). -/
def disableFusionGroup (g : Nat) : Act := withS fun s => seq [
  setF (FU_GROUP_CFG_EN g) 0,
  setF FU_STATUS_HELD (clearBit (s.get FU_STATUS_HELD) g),
  updFgroup g fun x => { x with opened := none, held := none }]

/-- A write that clears a group's EN (R399). -/
def execGroupDisable (init g : Nat) (s : State) : Host.Outcome State Fault Refusal :=
  perform (Instr.wellFormed (.groupDisable init g)) (withS (fun s => openWrite init (ticketOf s init) pageFU (0x3000 + 32 * g) 8
    (disableFusionGroup g))) s

/-- A group is enabled: cycles count from 0 and no cycle came before (R394, R423). -/
def enableFusionGroup (g : Nat) : Act := seq [
  setF (FU_GROUP_STAT_CYCLE g) 0,
  updFgroup g fun x => { x with opened := none, held := none, prevRef := none, missRun := [], late := 0 }]

/-! ### Calibration (R425 to R428) -/

/-- A write of 1 to bit `i` of FU_CAL_COMMIT. Where an on-line update of this major frame has replaced the stream's pending
record and software has not written it since, software's record stands (R428). -/
def commitCal (i : Nat) : Act := withS fun s => match mget s.fu.online i with
  | some (new, old) => seq [whenA (fuRead s (calPending s i) == new) (fuWrite (calPending s i) old),
      updFu (fun f => { f with online := mdel f.online i }),
      setF FU_CAL_COMMIT_MARK (setBit (s.get FU_CAL_COMMIT_MARK) i)]
  | none => setF FU_CAL_COMMIT_MARK (setBit (s.get FU_CAL_COMMIT_MARK) i)

/-- A write of 1 to bit `i` of FU_CAL_COMMIT (R425). -/
def execCalCommit (init i : Nat) (s : State) : Host.Outcome State Fault Refusal :=
  perform (Instr.wellFormed (.calCommit init i)) (withS (fun s => openWrite init (ticketOf s init) pageFU 0x230 8 (commitCal i))) s

/-- Committed pending records become active (R428). -/
def applyCal : Act := withS fun s =>
  let is := (List.range 64).filter (bit (s.get FU_CAL_COMMIT_MARK))
  if is.isEmpty then skip else
  seq [forA is (fun i => withS fun s =>
      let old := fuRead s (calActive s i)
      let new := fuRead s (calPending s i)
      seq [fuReads (calActive s i) 64, fuReads (calPending s i) 64, fuWrite (calActive s i) (leBytes 4 (le old 0 4 + 1) ++ new.drop 4)]),
    setF FU_CAL_COMMIT_MARK 0, countF FU_CAL_STAT_APPLIED is.length,
    setF FU_CAL_EPOCH_CAL_EPOCH (s.get FU_CAL_EPOCH_CAL_EPOCH + 1), raiseInt pageFU 3]

/-- Entry (i, j) of a matrix of FP32 codes. -/
def ent (m : List (List Nat)) (i j : Nat) : Nat := (m.getD i []).getD j 0

/-- The factors of an LDLᵀ factorisation: L by rows, D. -/
structure Ldl where
  l : List (List Nat)
  d : List Nat
  ok : Bool

/-- Column `j` of the factorisation, from the columns before it (R427). [DEDUCED: log entry 60] -/
def ldlColumn (a : List (List Nat)) (f : Ldl) (j : Nat) : Ldl :=
  let less (i : Nat) (v : Nat) : Nat := (List.range j).foldl (fun v k => fsub v (fmul (fmul (ent f.l i k) (ent f.l j k)) (f.d.getD k 0))) v
  let dj := less j (ent a j j)
  { l := f.l.zipIdx.map (fun r => r.1 ++ [if r.2 ≤ j then fOne else fdiv (less r.2 (ent a r.2 j)) dj]), d := f.d ++ [dj],
    ok := f.ok && flt 0 dj && (f32Val dj).isFinite }

/-- The factorisation of a 6 × 6 matrix, columns in ascending order, without pivoting. [DEDUCED: log entry 60] -/
def ldl (a : List (List Nat)) : Ldl := (List.range 6).foldl (ldlColumn a) ⟨List.replicate 6 [], [], true⟩

/-- The solution of A δ = b. [DEDUCED: log entry 60] -/
def ldlSolve (f : Ldl) (b : List Nat) : List Nat :=
  let y := (List.range 6).foldl (fun y i => y ++ [(List.range i).foldl (fun v k => fsub v (fmul (ent f.l i k) (y.getD k 0))) (b.getD i 0)]) []
  let z := List.zipWith fdiv y f.d
  (List.range 6).foldr (fun i x => (List.range (5 - i)).foldl (fun v k => fsub v (fmul (ent f.l (i + 1 + k) i) (x.getD k 0))) (z.getD i 0) :: x) []

/-- The length of a vector in FP32, and a vector scaled down to at most `lim` µ-units (R427). -/
def length3 (v : List Nat) : Nat := fsqrt (fadd (fadd (fmul (v.getD 0 0) (v.getD 0 0)) (fmul (v.getD 1 0) (v.getD 1 0))) (fmul (v.getD 2 0) (v.getD 2 0)))
def limited (v : List Nat) (lim : Nat) : List Nat :=
  let l := fmul (f32Int lim) 0x358637BD
  if flt l (length3 v) then v.map fun c => fmul c (fdiv l (length3 v)) else v

/-- normalise(q ⊗ (1, h)) (R427). -/
def quatStep (q h : List Nat) : List Nat :=
  let w := q.getD 0 0
  let x := q.getD 1 0
  let y := q.getD 2 0
  let z := q.getD 3 0
  let a := h.getD 0 0
  let b := h.getD 1 0
  let c := h.getD 2 0
  let r := [fsub (fsub (fsub w (fmul x a)) (fmul y b)) (fmul z c), fsub (fadd (fadd x (fmul w a)) (fmul y c)) (fmul z b),
    fadd (fadd (fsub y (fmul x c)) (fmul w b)) (fmul z a), fadd (fsub (fadd z (fmul x b)) (fmul y a)) (fmul w c)]
  let n := fsqrt (r.foldl (fun t v => fadd t (fmul v v)) 0)
  r.map fun v => fdiv v n

/-- The record that an on-line update gives, or none when it is discarded (R427). -/
def refined (s : State) (c : CalSt) (rec : List Byte) : Option (List Byte) :=
  let lam := fadd fOne (f32 (decodeFloat (floatFmt 1) (s.get FU_CAL_CFG_LAMBDA)))
  let a := c.a.zipIdx.map fun r => r.1.zipIdx.map fun v => if r.2 = v.2 then fmul v.1 lam else v.1
  let f := ldl a
  let x := ldlSolve f c.b
  let th := limited (x.take 3) (s.get FU_CAL_CFG_ROT_STEP)
  let dt := limited (x.drop 3) (s.get FU_CAL_CFG_TRN_STEP)
  let q := quatStep (calQ rec) (th.map fun v => fmul v 0x3F000000)
  let t := List.zipWith fadd (calT rec) (matVec (rotMatrix (calQ rec)) dt)
  if f.ok && (q ++ t).all (fun v => (f32Val v).isFinite) then
    some (rec.take 8 ++ (q ++ t).flatMap (leBytes 4) ++ rec.drop 36)
  else none

/-- Refining cameras' accumulators are frozen, solved and cleared (R427). -/
def refineCal : Act := withS fun s => seq [
  forA (List.range 64) (fun i => fuReads (calActive s i) 64),
  forA ((List.range 64).filter fun i => calRefine (fuRead s (calActive s i)) && s.get FU_CAL_CFG_MIN_CORR ≤ ((mget s.fu.cal i).getD CalSt.zero).n) (fun i =>
    match refined s ((mget s.fu.cal i).getD CalSt.zero) (fuRead s (calActive s i)) with
    | none => seq [countF FU_CAL_STAT_REJECTS 1, raiseInt pageFU 4]
    | some r => seq [
        updFu (fun f => { f with online := mset f.online i (r, fuRead s (calPending s i)) }),
        fuWrite (calPending s i) r,
        withS fun s => setF FU_CAL_COMMIT_MARK (setBit (s.get FU_CAL_COMMIT_MARK) i)]),
  updFu fun f => { f with cal := [] }]

/-- The calibration rows of a boundary of frame index 0: pending records become active, then accumulators are solved. [DEDUCED: log entry 212] -/
def calBoundary : Act := seq [applyCal, updFu (fun f => { f with online := [] }), refineCal]

end Sys2Proof.Machine
end

