-- ==== Sys2Proof/Machine/Crypto.lean ====
section
/-! DEFINITION. The cryptography of boot and debug access: SHA-384 (FIPS 180-4), HMAC (RFC 2104), HKDF (RFC 5869) and the
verification of ECDSA P-384 signatures (FIPS 186-5), which R631, R634, R656 and R657 name. -/

namespace Sys2Proof.Machine

/-! ### SHA-384 -/

/-- The constants of the rounds, sixteen at a time. -/
def sha512K0 : List Nat :=
  [0x428A2F98D728AE22, 0x7137449123EF65CD, 0xB5C0FBCFEC4D3B2F, 0xE9B5DBA58189DBBC,
   0x3956C25BF348B538, 0x59F111F1B605D019, 0x923F82A4AF194F9B, 0xAB1C5ED5DA6D8118,
   0xD807AA98A3030242, 0x12835B0145706FBE, 0x243185BE4EE4B28C, 0x550C7DC3D5FFB4E2,
   0x72BE5D74F27B896F, 0x80DEB1FE3B1696B1, 0x9BDC06A725C71235, 0xC19BF174CF692694]

/-- Constants of the next rounds. -/
def sha512K1 : List Nat :=
  [0xE49B69C19EF14AD2, 0xEFBE4786384F25E3, 0xFC19DC68B8CD5B5, 0x240CA1CC77AC9C65,
   0x2DE92C6F592B0275, 0x4A7484AA6EA6E483, 0x5CB0A9DCBD41FBD4, 0x76F988DA831153B5,
   0x983E5152EE66DFAB, 0xA831C66D2DB43210, 0xB00327C898FB213F, 0xBF597FC7BEEF0EE4,
   0xC6E00BF33DA88FC2, 0xD5A79147930AA725, 0x6CA6351E003826F, 0x142929670A0E6E70]

/-- Constants of the next rounds. -/
def sha512K2 : List Nat :=
  [0x27B70A8546D22FFC, 0x2E1B21385C26C926, 0x4D2C6DFC5AC42AED, 0x53380D139D95B3DF,
   0x650A73548BAF63DE, 0x766A0ABB3C77B2A8, 0x81C2C92E47EDAEE6, 0x92722C851482353B,
   0xA2BFE8A14CF10364, 0xA81A664BBC423001, 0xC24B8B70D0F89791, 0xC76C51A30654BE30,
   0xD192E819D6EF5218, 0xD69906245565A910, 0xF40E35855771202A, 0x106AA07032BBD1B8]

/-- Constants of the next rounds. -/
def sha512K3 : List Nat :=
  [0x19A4C116B8D2D0C8, 0x1E376C085141AB53, 0x2748774CDF8EEB99, 0x34B0BCB5E19B48A8,
   0x391C0CB3C5C95A63, 0x4ED8AA4AE3418ACB, 0x5B9CCA4F7763E373, 0x682E6FF3D6B2B8A3,
   0x748F82EE5DEFB2FC, 0x78A5636F43172F60, 0x84C87814A1F0AB72, 0x8CC702081A6439EC,
   0x90BEFFFA23631E28, 0xA4506CEBDE82BDE9, 0xBEF9A3F7B2C67915, 0xC67178F2E372532B]

/-- Constants of the next rounds. -/
def sha512K4 : List Nat :=
  [0xCA273ECEEA26619C, 0xD186B8C721C0C207, 0xEADA7DD6CDE0EB1E, 0xF57D4F7FEE6ED178,
   0x6F067AA72176FBA, 0xA637DC5A2C898A6, 0x113F9804BEF90DAE, 0x1B710B35131C471B,
   0x28DB77F523047D84, 0x32CAAB7B40C72493, 0x3C9EBE0A15C9BEBC, 0x431D67C49C100D4C,
   0x4CC5D4BECB3E42B6, 0x597F299CFC657E2A, 0x5FCB6FAB3AD6FAEC, 0x6C44198C4A475817]

def sha512K : List Nat := sha512K0 ++ sha512K1 ++ sha512K2 ++ sha512K3 ++ sha512K4

/-- The initial hash value of SHA-384. -/
def sha384Init : List Nat :=
  [0xCBBB9D5DC1059ED8, 0x629A292A367CD507, 0x9159015A3070DD17, 0x152FECD8F70E5939,
   0x67332667FFC00B31, 0x8EB44A8768581511, 0xDB0C2E0D64F98FA7, 0x47B5481DBEFA4FA4]

/-- A 64-bit word rotated right by `n`, `n` from 1 to 63. -/
def rotr (w n : Nat) : Nat := w / 2 ^ n + w % 2 ^ n * 2 ^ (64 - n)

def xor3 (a b c : Nat) : Nat := Nat.xor a (Nat.xor b c)
def bigS0 (x : Nat) : Nat := xor3 (rotr x 28) (rotr x 34) (rotr x 39)
def bigS1 (x : Nat) : Nat := xor3 (rotr x 14) (rotr x 18) (rotr x 41)
def smallS0 (x : Nat) : Nat := xor3 (rotr x 1) (rotr x 8) (x / 2 ^ 7)
def smallS1 (x : Nat) : Nat := xor3 (rotr x 19) (rotr x 61) (x / 2 ^ 6)

/-- The message schedule, newest word first, with `n` more words. -/
def schedule : Nat → List Nat → List Nat
  | 0, ws => ws
  | n + 1, ws => schedule n ((smallS1 (ws.getD 1 0) + ws.getD 6 0 + smallS0 (ws.getD 14 0) + ws.getD 15 0) % 2 ^ 64 :: ws)

/-- One round on the working variables a to h. -/
def shaRound (v : List Nat) (kw : Nat × Nat) : List Nat := match v with
  | [a, b, c, d, e, f, g, h] =>
    let ch := Nat.xor (Nat.land e f) (Nat.land (2 ^ 64 - 1 - e) g)
    let maj := xor3 (Nat.land a b) (Nat.land a c) (Nat.land b c)
    let t1 := h + bigS1 e + ch + kw.1 + kw.2
    [(t1 + bigS0 a + maj) % 2 ^ 64, a, b, c, (d + t1) % 2 ^ 64, e, f, g]
  | _ => v

/-- The hash value after one block of 128 bytes. -/
def shaBlock (hv : List Nat) (block : List Byte) : List Nat :=
  let ws := (schedule 64 (tab 16 fun i => ofBe ((block.drop (8 * i)).take 8)).reverse).reverse
  List.zipWith (fun a b => (a + b) % 2 ^ 64) hv ((sha512K.zip ws).foldl shaRound hv)

/-- The hash value after `n` blocks. -/
def shaBlocks : Nat → List Nat → List Byte → List Nat
  | 0, hv, _ => hv
  | n + 1, hv, bs => shaBlocks n (shaBlock hv (bs.take 128)) (bs.drop 128)

/-- SHA-384 of a message shorter than 2^61 bytes. [PRESUMED: log entry 152] -/
def sha384 (m : List Byte) : List Byte :=
  let z := (239 - m.length % 128) % 128
  let p := m ++ [0x80#8] ++ List.replicate z 0#8 ++ beBytes 16 (8 * m.length)
  ((shaBlocks (p.length / 128) sha384Init p).take 6).flatMap (beBytes 8)

/-! ### HMAC and HKDF -/

/-- HMAC-SHA-384. [PRESUMED: log entry 152] -/
def hmac384 (key m : List Byte) : List Byte :=
  let k := if 128 < key.length then sha384 key else key
  let k := k ++ List.replicate (128 - k.length) 0#8
  sha384 (k.map (fun b => b ^^^ 0x5C#8) ++ sha384 (k.map (fun b => b ^^^ 0x36#8) ++ m))

/-- 48 bytes of HKDF-SHA-384 without a salt. [PRESUMED: log entry 151] -/
def hkdf384 (ikm info : List Byte) : List Byte :=
  hmac384 (hmac384 (List.replicate 48 0#8) ikm) (info ++ [1#8])

/-! ### P-384 -/

/-- The prime, the order and the coefficient b of P-384. -/
def p384 : Nat := 2 ^ 384 - 2 ^ 128 - 2 ^ 96 + 2 ^ 32 - 1
def n384 : Nat :=
  0xFFFFFFFFFFFFFFFFFFFFFFFFFFFFFFFFFFFFFFFFFFFFFFFFC7634D81F4372DDF581A0DB248B0A77AECEC196ACCC52973
def b384 : Nat :=
  0xB3312FA7E23EE7E4988E056BE3F82D19181D9C6EFE8141120314088F5013875AC656398D8A2ED19D2A85C8EDD3EC2AEF

/-- The base point. -/
def g384 : Nat × Nat :=
  (0xAA87CA22BE8B05378EB1C71EF320AD746E1D3B628BA79B9859F741E082542A385502F25DBF55296C3A545E3872760AB7,
   0x3617DE4A96262C6F5D9E98BF9292DC29F8F41DBD289A147CE9DA3113B5F0B8C00A60B1CE1D7E819D7A431D7C90EA0E5F)

/-- b ^ e mod m for an exponent below 2 ^ `fuel`. -/
def powMod : Nat → Nat → Nat → Nat → Nat
  | 0, _, _, m => 1 % m
  | fuel + 1, b, e, m =>
    let r := powMod fuel (b * b % m) (e / 2) m
    if e % 2 = 1 then b * r % m else r

/-- The inverse of `a` modulo the prime `m`. -/
def invMod (a m : Nat) : Nat := powMod 384 (a % m) (m - 2) m

/-- Product and difference modulo the prime. -/
def mulP (a b : Nat) : Nat := a * b % p384
def subP (a b : Nat) : Nat := (a + (p384 - b)) % p384

/-- A point of the curve as (X, Y, Z): the affine point (X / Z², Y / Z³); Z = 0 is the point at infinity. -/
abbrev Pt := Nat × Nat × Nat

/-- Twice a point. -/
def ptDouble : Pt → Pt
  | (x, y, z) =>
    let d := mulP z z
    let g := mulP y y
    let b := mulP x g
    let a := mulP 3 (mulP (subP x d) (x + d))
    let x3 := subP (mulP a a) (mulP 8 b)
    (x3, subP (mulP a (subP (mulP 4 b) x3)) (mulP 8 (mulP g g)), mulP 2 (mulP y z))

/-- The sum of two points. -/
def ptAdd : Pt → Pt → Pt
  | (x1, y1, z1), (x2, y2, z2) =>
    if z1 = 0 then (x2, y2, z2) else if z2 = 0 then (x1, y1, z1) else
    let u1 := mulP x1 (mulP z2 z2)
    let s1 := mulP y1 (mulP z2 (mulP z2 z2))
    let h := subP (mulP x2 (mulP z1 z1)) u1
    let r := subP (mulP y2 (mulP z1 (mulP z1 z1))) s1
    if h = 0 then (if r = 0 then ptDouble (x1, y1, z1) else (1, 1, 0)) else
    let v := mulP u1 (mulP h h)
    let h3 := mulP h (mulP h h)
    let x3 := subP (subP (mulP r r) h3) (mulP 2 v)
    (x3, subP (mulP r (subP v x3)) (mulP s1 h3), mulP h (mulP z1 z2))

/-- k · P for k below 2 ^ `fuel`. -/
def ptMul : Nat → Nat → Pt → Pt
  | 0, _, _ => (1, 1, 0)
  | fuel + 1, k, q =>
    let r := ptMul fuel (k / 2) (ptDouble q)
    if k % 2 = 1 then ptAdd q r else r

/-- The affine coordinates of a point; none at infinity. -/
def ptAffine : Pt → Option (Nat × Nat)
  | (x, y, z) => if z = 0 then none else
    let i := invMod z p384
    some (mulP x (mulP i i), mulP y (mulP i (mulP i i)))

/-- The point lies on the curve. [PRESUMED: log entry 152] -/
def onCurve (x y : Nat) : Bool :=
  x < p384 && y < p384 && y * y % p384 == (x * x * x + (p384 - 3) * x + b384) % p384

/-- The public key of a private scalar, in the encoding of Table 17-2: x then y, 48 bytes each, big-endian. -/
def publicKey (k : Nat) : List Byte := match ptAffine (ptMul 384 k (g384.1, g384.2, 1)) with
  | some q => beBytes 48 q.1 ++ beBytes 48 q.2
  | none => []

/-- The signature (r, s) over the digest `h` is valid under the public key (x, y) (FIPS 186-5). [PRESUMED: log entry 152] -/
def ecdsaOk (x y : Nat) (h : List Byte) (r t : Nat) : Bool :=
  if !(onCurve x y) || r = 0 || n384 ≤ r || t = 0 || n384 ≤ t then false else
  let w := invMod t n384
  match ptAffine (ptAdd (ptMul 384 (ofBe h * w % n384) (g384.1, g384.2, 1)) (ptMul 384 (r * w % n384) (x, y, 1))) with
  | some q => q.1 % n384 == r
  | none => false

end Sys2Proof.Machine
end

