-- ==== Sys2Proof/Machine/Groups.lean ====
section
/-! DEFINITION. Serving groups: requests, publication, disabling (R259, R260, R310 to R313). -/

namespace Sys2Proof.Machine

/-- Group `g`. -/
def State.group (s : State) (g : Nat) : Group := (mget s.rm.groups g).getD ⟨[], [], 0, []⟩

def updGroup (g : Nat) (f : Group → Group) : Act := fun s => [.setRm { s.rm with groups := mset s.rm.groups g (f (s.group g)) }]

/-- A request is ignored, recorded and logged (R312). -/
def requestError (init g : Nat) : Act := seq [setF (RM_SG_STAT_REQ_ERR g) 1, raiseInt pageRM 6,
  withS fun s => reportNow 8 4 0x172 pageRM 0xFF init (ticketOf s init) false none g]

/-- A write to RM_SG_REQ: `ok` says whether R312 lets the request apply. -/
def groupRequest (init g : Nat) (ok : State → Bool) (act : Act) : Act := withS fun s =>
  openWrite init (ticketOf s init) pageRM 0x480 8
    (withS fun s => if s.is (RM_SG_CFG_ENABLE g) && ok s then act else requestError init g)

/-- Context `c` is a member of some group, published or pending. -/
def inSomeGroup (s : State) (c : Nat) : Bool := (List.range 16).any fun g =>
  (s.group g).published.contains c || (s.group g).members.any fun m => m.1 == c

/-- Context `c` is in group `g`'s pending membership. -/
def isPending (s : State) (g c : Nat) : Bool := (s.group g).members.any fun m => m.1 == c

/-- JOIN (R311, R312). -/
def execSgJoin (init g ctx qrows : Nat) (s : State) : Host.Outcome State Fault Refusal :=
  perform (Instr.wellFormed (.sgJoin init g ctx qrows)) (groupRequest init g
    (fun s => qrows != 0 && !(inSomeGroup s ctx) && (s.group g).members.length < 1024)
    (updGroup g fun x => { x with members := x.members ++ [(ctx, qrows)] })) s

/-- LEAVE (R311, R312). -/
def execSgLeave (init g ctx : Nat) (s : State) : Host.Outcome State Fault Refusal :=
  perform (Instr.wellFormed (.sgLeave init g ctx)) (groupRequest init g (fun s => isPending s g ctx)
    (updGroup g fun x => { x with members := x.members.filter fun m => m.1 != ctx })) s

/-- SETQ (R311, R312). -/
def execSgSetq (init g ctx qrows : Nat) (s : State) : Host.Outcome State Fault Refusal :=
  perform (Instr.wellFormed (.sgSetq init g ctx qrows)) (groupRequest init g (fun s => qrows != 0 && isPending s g ctx)
    (updGroup g fun x => { x with members := x.members.map fun m => if m.1 = ctx then (ctx, qrows) else m })) s

/-- The groups that a write to RM_SG_STEP names and that are enabled, in ascending order. -/
def stepGroups (s : State) (mask : Nat) : List Nat := (List.range 16).filter fun g => bit mask g && s.is (RM_SG_CFG_ENABLE g)

/-- A write to RM_SG_STEP asks each named group to publish, after the lower ones of the same write; a step still pending is merged
(R313). -/
def execSgStep (init mask : Nat) (s : State) : Host.Outcome State Fault Refusal :=
  perform (Instr.wellFormed (.sgStep init mask)) (withS (fun s => openWrite init (ticketOf s init) pageRM 0x488 4
    (forA (stepGroups s mask) fun g => seq [
      updGroup g (fun x => { x with after := (x.after ++ (stepGroups s mask).filter fun h => h < g).eraseDups }),
      withS fun s => if s.is (RM_SG_STAT_PENDING g) then setF (RM_SG_STAT_STEP_MERGED g) 1 else setF (RM_SG_STAT_PENDING g) 1]))) s

/-- Group `g` holds no other group back any more. -/
def stepDone (g : Nat) : Act := updRm fun r => { r with groups := r.groups.map fun p => (p.1, { p.2 with after := p.2.after.filter fun h => h != g }) }

/-- Buffer `p` of group `g` is read by a dispatched job that has not completed (R260, R313). -/
def bufferInUse (s : State) (g p : Nat) : Bool := s.jobs.any fun x =>
  isKvUnit x.1 && x.2.started && dOpcode x.2.desc ≤ 0x62 && kvGroupEn x.2.desc && kvGroup x.2.desc == g && kvParity x.2.desc == p

/-- Insert a member by its context. -/
def insertCtx (m : Nat × Nat) : List (Nat × Nat) → List (Nat × Nat)
  | [] => [m]
  | x :: r => if m.1 < x.1 then m :: x :: r else x :: insertCtx m r

/-- Members in ascending CTX order (R259). -/
def byCtx (ms : List (Nat × Nat)) : List (Nat × Nat) := ms.foldr insertCtx []

/-- The entries of a list, Q_ROW0 summing the rows before (R231, R259). -/
def listEntries : Nat → List (Nat × Nat) → List Byte
  | _, [] => []
  | row, (c, q) :: r => leBytes 8 (c + q * 2 ^ 32) ++ leBytes 8 (row % 2 ^ 32) ++ listEntries (row + q) r

/-- The bytes of step `n`'s list: the 64-byte header, then the entries (R310). -/
def listBytes (n : Nat) (ms : List (Nat × Nat)) : List Byte :=
  leBytes 8 (n % 2 ^ 32 + ms.length * 2 ^ 32) ++ leBytes 56 0 ++ listEntries 0 (byCtx ms)

/-- IN_BATCH and GROUP of context `c` (R313). [DEDUCED: log entry 196] -/
def setBatch (c : Nat) (inB : Bool) (g : Nat) : Act := withS fun s => withCtx (s.get FW_HK_TKT_PLAN_TKT) c
  (withS fun s => putCtx c (cSetBatch (ctxBytes s c) inB g)) (fun _ => skip)

/-- Group `g` publishes its next step (R313). [DESIGN CHOICE: log entry 56] -/
def publish (g : Nat) (ecc : Ecc) : Act := withS fun s =>
  let x := s.group g
  let n := x.nextStep
  let a := s.get (RM_SG_CFG_BUF_BASE g) + n % 2 * 0x8000
  let bs := listBytes n x.members
  let tkt := s.get FW_HK_TKT_PLAN_TKT
  let r := checkRange s 0x0A0 tkt 1 ecc a bs.length
  let cs := x.members.map Prod.fst
  if r.1 != 0 then accessFailed 0x0A0 tkt 1 r
  else seq [charge 0x0A0 tkt true a bs.length, writeRange a bs,
    forA (cs.filter fun c => !(x.published.contains c)) (fun c => setBatch c true g),
    forA (x.published.filter fun c => !(cs.contains c)) (fun c => setBatch c false 0),
    whenA (s.is (RM_SG_CFG_POST_EN g)) (postReady (s.get (RM_SG_CFG_CTR_DIE g)) (s.get (RM_SG_CFG_POST_CTR g))),
    updGroup g (fun _ => { members := x.members.map fun m => (m.1, 1), published := cs, nextStep := next32 n, after := [] }), stepDone g,
    setF (RM_SG_STAT_PENDING g) 0, setF (RM_SG_STAT_MEMBERS g) cs.length, setF (RM_SG_STAT_STEP g) n]

/-- Group `g` publishes when a step is asked for, the lower groups of the same write have published, and R260 and SG_EN_ALL allow it. [DESIGN CHOICE: log entry 56] -/
def execSgPublish (g : Nat) (ecc : Ecc) (s : State) : Host.Outcome State Fault Refusal :=
  perform (Instr.wellFormed (.sgPublish g ecc)) (withS fun s =>
    whenA (stacksUsable s && s.is (RM_SG_CFG_ENABLE g) && s.is RM_CTRL_SG_EN_ALL && s.is (RM_SG_STAT_PENDING g) && (s.group g).after.isEmpty
      && !(bufferInUse s g ((s.group g).nextStep % 2))) (publish g ecc)) s

/-- ENABLE of group `g` goes from 1 to 0: its membership is empty and IN_BATCH is clear in its contexts (Table 7-13). -/
def disableGroup (g : Nat) : Act := withS fun s =>
  if !(s.is (RM_SG_CFG_ENABLE g)) then skip else
  seq [forA (s.group g).published (fun c => setBatch c false 0),
    updGroup g (fun _ => ⟨[], [], 0, []⟩), stepDone g,
    setF (RM_SG_CFG_ENABLE g) 0, setF (RM_SG_STAT_PENDING g) 0, setF (RM_SG_STAT_MEMBERS g) 0]

/-- A write of 0 to ENABLE of group `g`. -/
def execSgDisable (init tkt g : Nat) (s : State) : Host.Outcome State Fault Refusal :=
  perform (Instr.wellFormed (.sgDisable init tkt g)) (openWrite init tkt pageRM (0x400 + 8 * g) 8 (disableGroup g)) s

end Sys2Proof.Machine
end

