-- ==== Sys2Proof/Machine/Power.lean ====
section
/-! DEFINITION. The power controllers (R593 to R619): rails and current windows, power windows with the phase table, the
allocation and the duties, temperatures, and the votes of joined parts. -/

namespace Sys2Proof.Machine

/-- Page of the package controller, and of the controller of die `d`. -/
def pagePW : Nat := 11

/-- The die of a power enable or of a rail, 4 for the hub (Table 16-1). -/
def railDie (r : Nat) : Nat := if r < 4 then r else 4

/-! ### Currents (R599 to R602) -/

/-- n of die `d` follows its parts (R611). -/
def refreshDuty (d : Nat) : Act := withS fun s =>
  let n := min (min (s.get (PW_DUTY_ALLOC d)) (s.get (PW_DUTY_RAIL d))) (min (s.get (PW_DUTY_THERM d)) (if s.is PW_CTRL_VOTE_EN then s.get PW_VOTE_APPLIED else 16))
  seq [setF (PW_DUTY_APPLIED d) n,
    whenA (n < 16) (updPw fun p => { p with throttled := true })]

/-- ILIM is exceeded on rail `r` (R601). -/
def ilimEvent (r : Nat) : Act := seq [countF (PW_RAIL_STAT_ILIM_CNT r) 1, raiseInt pagePW 5,
  reportNow 14 (railDie r) 0x250 pagePW 0xFF 0xFFF 0 false none r]

/-- The voltage of rail `r` in millivolts: V_SET of an AVS rail, else that of Table 16-1. -/
def railVolts (s : State) (r : Nat) : Nat :=
  if r < 5 then s.get (PW_VSET_V_SET r) else [750, 1100, 400, 1800, 750, 1200, 1800, 3300].getD (r - 5) 0

/-- The energy of rail `r` in this power window so far, in 1/8 nJ. -/
def railEnergy (s : State) (r : Nat) : Nat := s.pw.energy.getD r 0

/-- Rail `r`'s estimate of one current window, in 1/16 A (R599, R601, R602). [DEDUCED: log entry 145] -/
def railWindow (r est : Nat) : Act := withS fun s =>
  let lim := s.get (PW_RAIL_CFG_ILIM r)
  let high := lim < est
  let low := 8 * est ≤ 7 * lim
  seq [setF (PW_RAIL_STAT_I_EST r) est, setF (PW_RAIL_STAT_I_PEAK r) (max est (s.get (PW_RAIL_STAT_I_PEAK r))),
    if r < 4 then
      if high then seq [setF (PW_DUTY_RAIL r) (max 1 (s.get (PW_DUTY_RAIL r) / 2)), refreshDuty r, ilimEvent r]
      else whenA low (seq [setF (PW_DUTY_RAIL r) (min 16 (s.get (PW_DUTY_RAIL r) + 1)), refreshDuty r])
    else if 6 ≤ r && r ≤ 8 then whenA high (seq [updPw (fun p => { p with memHalf := true }), ilimEvent r])
    else if r = 9 ∨ r = 10 then whenA high (seq [updPw (fun p => { p with linkHalf := true }), ilimEvent r])
    else skip,
    whenA (s.get (PW_RAIL_CFG_ILIM_HARD r) < est) (assertWire 9 (railDie r))]

/-- The caps return to their computed value when their rails are at or below 7/8 of ILIM (R601). [DEDUCED: log entry 145] -/
def capsReturn (es : List Nat) : Act := withS fun s =>
  let low (r : Nat) : Bool := decide (8 * es.getD r 0 ≤ 7 * s.get (PW_RAIL_CFG_ILIM r))
  seq [whenA ([6, 7, 8].all low) (updPw fun p => { p with memHalf := false }),
    whenA ([9, 10].all low) (updPw fun p => { p with linkHalf := false })]

/-- The estimates of a current window in 1/16 A: those of the activity counts, times each rail's gain (R599). [DESIGN CHOICE: log entry 139] -/
def gained (s : State) (raw : List Nat) : List Nat := tab 13 fun r => satU 16 (raw.getD r 0 * s.get (PW_RAIL_STAT_GAIN r) / 16384)

/-- A current window ends, for which the activity counts give these estimates of the rails before the gain, in 1/16 A: with the gain they
count for the currents and for the energy of the power window (R599, R603). [DESIGN CHOICE: log entry 139] -/
def execCurrentWindow (estimates : List Nat) (s : State) : Host.Outcome State Fault Refusal :=
  let es := gained s estimates
  perform (Instr.wellFormed (.currentWindow estimates)) (seq [capsReturn es,
    forA (List.range 13) (fun r => railWindow r (es.getD r 0)),
    updPw fun p => { p with energy := tab 13 (fun r => railEnergy s r + railVolts s r * es.getD r 0), raw := tab 13 (fun r => p.raw.getD r 0 + estimates.getD r 0), rawWindows := p.rawWindows + 1 }]) s

/-- The gain of rail `r` follows the measured current over the mean of the estimates before the gain, whose sum over the windows since the
last update is `sum` (R600); with no estimate the ratio is free. [DESIGN CHOICE: log entry 140] -/
def gainStep (r meas sum : Nat) : Act := withS fun s =>
  let ratio : Int := if sum = 0 then ((Config.freeWord s.fresh).toNat : Int) else (meas * s.pw.rawWindows * 16384 / sum : Nat)
  let g : Int := s.get (PW_RAIL_STAT_GAIN r)
  seq [whenA (sum == 0) (fun _ => [.bump]),
    setF (PW_RAIL_STAT_GAIN r) (clampI 12288 24576 (g + (ratio - g) / 16)).toNat,
    whenA (ratio < 12288 || 20480 < ratio) (seq [raiseInt pagePW 6, reportNow 14 (railDie r) 0x251 pagePW 0xFF 0xFFF 0 false none r])]

/-- Every millisecond: the currents that the regulators measure, of the five AVS rails (0 to 4) and of the eight others, in 1/16 A, against the estimators' means (R600). -/
def execGainUpdate (avs pmbus : List Nat) (s : State) : Host.Outcome State Fault Refusal :=
  perform (Instr.wellFormed (.gainUpdate avs pmbus)) (seq [
    forA (List.range 13) (fun r => gainStep r ((avs ++ pmbus).getD r 0) (s.pw.raw.getD r 0)),
    updPw fun p => { p with raw := [], rawWindows := 0 }]) s

/-! ### Temperatures (R614 to R617) -/

/-- T of die `n` and the temperature of its stack, in 0.125 °C. -/
def dieTemp (s : State) (n : Nat) : Int := toSigned 12 (s.get (PW_TEMP_MAX_DIE n))
def stackTemp (s : State) (n : Nat) : Int := toSigned 12 (s.get (PW_TEMP_MAX_STACK n))

/-- Die `n` or its stack is too hot (R616). -/
def tooHot (s : State) (n : Nat) : Bool :=
  ((8 * min (s.get (PW_THERM_CFG_T_CRIT n)) 105 : Nat) : Int) ≤ dieTemp s n
    || (n < 4 && ((8 * min (s.get (PW_THERM_CFG_HBM_CRIT n)) 105 : Nat) : Int) ≤ stackTemp s n)

/-- The largest of a list of numbers. -/
def maxI : List Int → Int
  | [] => 0
  | [a] => a
  | a :: r => max a (maxI r)

/-- The sensors of die `n` (4: the hub) and the stack's are read (R614, R616). -/
def sampleDie (n : Nat) (ts stack : List Int) : Act := withS fun s =>
  if n < 4 && dieOff s n then skip else
  seq [forA (List.range 16) (fun i => setF (PW_TEMP_T n i) (ofSigned 12 (ts.getD i 0))),
    setF (PW_TEMP_MAX_DIE n) (ofSigned 12 (maxI ts)),
    whenA (n < 4 && !stack.isEmpty) (setF (PW_TEMP_MAX_STACK n) (ofSigned 12 (maxI stack))),
    whenS (fun s => tooHot s n) (assertWire 9 n)]

/-- Every 10 µs: the 16 sensors of each die, and those of the stacks, in 0.125 °C (R614, R616, R617). -/
def execTempSample (temps mems : List (List Int)) (s : State) : Host.Outcome State Fault Refusal :=
  perform (Instr.wellFormed (.tempSample temps mems)) (seq [
    forA (List.range 5) (fun n => sampleDie n (temps.getD n []) (mems.getD n [])),
    whenS (fun s => s.pw.thermN && (List.range 5).any fun n => (n == 4 || !(dieOff s n)) && decide (880 ≤ maxI (temps.getD n [])))
      (seq [updPw (fun p => { p with thermN := false }), send 6 0 [0#8]])]) s

/-- n_therm of die `d` at the end of a power window (R615). -/
def thermStep (d : Nat) : Act := withS fun s =>
  let n := s.get (PW_DUTY_THERM d)
  let t := ((s.get (PW_THERM_CFG_T_THROT d) : Nat) : Int)
  if 8 * t ≤ dieTemp s d then
    if n ≤ 1 then setF (PW_DUTY_THERM d) 1
    else seq [setF (PW_DUTY_THERM d) (n - 1), raiseInt pagePW 4, reportNow 14 d 0x252 (19 + 16 * d) 0xFF 0xFFF 0 false none d]
  else whenA (dieTemp s d < 8 * (t - 2)) (setF (PW_DUTY_THERM d) (min 16 (n + 1)))

/-! ### Voltage (R596, R597) -/

/-- V_MIN at temperature `t` on the points of a die, in ascending temperature (R596): linear between two points, the end
point's value outside them, rounded up to a millivolt. [DEDUCED: log entry 143] -/
def vMinAt (t : Int) : List (Int × Nat) → Nat
  | [] => 0
  | [p] => p.2
  | p :: q :: r =>
    if t ≤ p.1 then p.2
    else if t ≤ q.1 then
      let d := q.1 - p.1
      (-((-((p.2 : Int) * d + ((q.2 : Int) - p.2) * (t - p.1))) / (max 1 d))).toNat
    else vMinAt t (q :: r)

/-- V_SET of AVS rail `n` moves towards V_MIN + 60 mV by at most 5 mV in a power window. [DEDUCED: log entry 143] -/
def voltStep (n : Nat) : Act := withS fun s => match s.boot.cfg with
  | none => skip
  | some c =>
    let vm := vMinAt (dieTemp s n) (c.vMin.getD n [])
    let want := ceilDiv (vm + 60) 5 * 5
    let v := s.get (PW_VSET_V_SET n)
    let goal := min want 850
    seq [setF (PW_VSET_V_MIN n) vm, setF (PW_VSET_V_SET n) (if v < goal then min goal (v + 5) else max goal (v - 5)),
      whenA (850 < want) (assertWire 9 n)]

/-! ### The phase table (R604 to R607) -/

/-- The number of the power window in the major frame, and the key that is looked up with the signature of the window
before (R604). -/
def phaseKey (s : State) (sig : Nat) : Nat :=
  s.get RM_PLAN_ID_ID % 65536 * 2 ^ 24 + (5 * s.frameIdx + (s.grid.powerWindow - s.grid.boundaryAt) / 110000) % 128 * 2 ^ 16 + sig % 65536

/-- A demand after a window that measured `m` (R606). -/
def nextDemand (d m : Nat) (thr : Bool) : Nat :=
  if thr then d + max 1 (d / 8) else ((d : Int) + ((m : Int) - d) / 8).toNat

/-- The demand that a new entry takes. -/
def firstDemand (m : Nat) (thr : Bool) : Nat := if thr then m + max 1 (m / 8) else m

/-- The place of a new entry: the lowest-numbered invalid one, else the least recently hit (R606). -/
def phasePlace (s : State) : Nat := match (List.range 256).find? fun i => (mget s.pw.phases i).isNone with
  | some i => i
  | none => (s.pw.phases.foldl (fun (b : Option (Nat × Nat)) e => match b with
      | none => some (e.1, e.2.hitAt)
      | some v => if e.2.hitAt < v.2 then some (e.1, e.2.hitAt) else some v) none).elim 0 Prod.fst

/-- What one power window measured: class powers, and by die its compute power, that of its planned jobs and idle blocks, of its planned
jobs alone, and of its OPEN jobs, in 0.25 W; and the signature (R604, R606, R608, R609). -/
structure PowerMeas where
  hub : Nat
  classC : Nat
  classM : Nat
  classL : Nat
  dieCompute : List Nat
  diePlanned : List Nat
  dieJobs : List Nat
  dieOpen : List Nat
  signature : Nat
  deriving DecidableEq, Repr

/-- The sum of a list. -/
def sumN (l : List Nat) : Nat := l.foldl (fun n x => n + x) 0

/-- The sum of a rail's estimates. -/
def railTotal (r : RailUse) : Nat := sumN (r.jobs.map JobUse.estimate) + sumN r.idle

/-- The power in 0.25 W of the energy of the rails `rs` over 100 µs, truncated. [DESIGN CHOICE: log entry 139] -/
def railPower (s : State) (rs : List Nat) : Nat := sumN (rs.map (railEnergy s)) / 200000

/-- The power in 0.25 W of the blocks of die `d` with estimates `es` of those in `u` (R309, R609). [DESIGN CHOICE: log entry 139] -/
def sharePower (s : State) (u : RailUse) (d : Nat) (es : List Nat) : Nat := railEnergy s d * sumN es / railTotal u / 200000

/-- The measurements of the power window that ends. -/
def measured (s : State) (use : PowerUse) : PowerMeas :=
  let rail (d : Nat) : RailUse := use.rails.getD d ⟨[], []⟩
  let jobs (d : Nat) (planned : Bool) : List Nat := ((rail d).jobs.filter fun j => j.planned == planned).map JobUse.estimate
  { hub := railPower s [4, 5], classC := railPower s [0, 1, 2, 3], classM := railPower s [6, 7, 8], classL := railPower s [9, 10, 11, 12],
    dieCompute := tab 4 fun d => railPower s [d], diePlanned := tab 4 fun d => sharePower s (rail d) d (jobs d true ++ (rail d).idle),
    dieJobs := tab 4 fun d => sharePower s (rail d) d (jobs d true), dieOpen := tab 4 fun d => sharePower s (rail d) d (jobs d false),
    signature := use.signature }

/-- Class `k` (compute, memory, links) was throttled in this power window: a duty below 16, or a cap that stopped a request of class B (R606). [DEDUCED: log entry 141] -/
def classThrottled (s : State) (k : Nat) : Bool :=
  if k = 0 then s.pw.throttled else s.ts.capped.any fun p => if k = 1 then p < 4 else 4 ≤ p

/-- The entry used for the window that ends learns from what it measured (R606). [DEDUCED: log entries 141, 142] -/
def learnPhase (m : PowerMeas) : Act := withS fun s =>
  let thr := classThrottled s
  match s.pw.look with
  | none => skip
  | some (_, some i) => match mget s.pw.phases i with
    | some e => updPw fun p => { p with phases := mset p.phases i { e with dc := nextDemand e.dc m.classC (thr 0), dm := nextDemand e.dm m.classM (thr 1), dl := nextDemand e.dl m.classL (thr 2) } }
    | none => skip
  | some (k, none) => whenA (s.is PW_CTRL_LEARN_EN) (updPw fun p => { p with phases := mset p.phases (phasePlace s) ⟨k, firstDemand m.classC (thr 0), firstDemand m.classM (thr 1), firstDemand m.classL (thr 2), s.grid.powerWindow⟩ })

/-- Every phase entry is discarded (R607). [DEDUCED: log entry 142] -/
def discardPhases : Act := seq [updPw (fun p => { p with phases := [], look := p.look.map fun l => (l.1, none) }), setF PW_PHASE_VALID 0]

/-- The lookup at the start of a window. -/
def lookPhase (sig : Nat) : Act := withS fun s =>
  let k := phaseKey s sig
  let i := (s.pw.phases.find? fun e => e.2.key == k).map Prod.fst
  seq [countF (if i.isSome then PW_PHASE_HITS else PW_PHASE_MISSES) 1,
    setF PW_PHASE_VALID s.pw.phases.length,
    updPw fun p => { p with look := some (k, i), phases := match i with
      | some j => match mget p.phases j with
        | some e => mset p.phases j { e with hitAt := s.grid.powerWindow }
        | none => p.phases
      | none => p.phases }]

/-! ### Allocation (R605, R608 to R611) -/

/-- The allocation is learned, but for the lookup (R605). -/
def learnedMode (s : State) : Bool :=
  s.is PW_CTRL_LEARN_EN && !(s.is PW_CTRL_FIXED) && s.planOn && !s.doubted && s.isl.reint == 0 && stacksUsable s

/-- PKG_CAP as it acts (Table 16-6). -/
def pkgCap (s : State) : Nat := min 300 (max 40 (s.get PW_CTRL_PKG_CAP))

/-- A_C, A_M, A_L in learned mode from demands and floors (R608). -/
def learnedAlloc (b dc dm dl fc fm fl : Nat) : Nat × Nat × Nat :=
  if dc + dm + dl ≤ b then (b - dm - dl, dm, dl)
  else
    let am := min fm b
    let ac := min fc (b - am)
    let al := min fl (b - am - ac)
    let r := b - am - ac - al
    let xm := dm - am
    let xc := dc - ac
    let xl := dl - al
    let x := xm + xc + xl
    if x = 0 then (ac + r, am, al)
    else (ac + (r - r * xm / x - r * xl / x), am + r * xm / x, al + r * xl / x)

/-- A_C, A_M, A_L in fixed mode from the demands of compute and memory; the links get the rest (R608). [DEDUCED: log entry 149] -/
def fixedAlloc (b dc dm : Nat) : Nat × Nat × Nat :=
  let am := min dm b
  let ac := min dc (b - am)
  (ac, am, b - am - ac)

/-- A measured power raised by one eighth when its class was throttled. -/
def raised (m : Nat) (thr : Bool) : Nat := if thr then m + m / 8 else m

/-- n_alloc of a die with share `a`, planned and idle power `pp`, OPEN power `po` at duty `prev` (R609). [DEDUCED: log entry 147] -/
def allocDuty (a pp po prev : Nat) : Nat :=
  if a ≤ pp then 1 else min 16 (max 1 ((a - pp) * 16 / max (po * 16 / max prev 1) 1))

/-- Die `d`'s share of A_C (R609). -/
def dieShare (ac d : Nat) (cs : List Nat) : Nat :=
  let t := cs.foldl (· + ·) 0
  if t = 0 then ac / 4 else ac * cs.getD d 0 / t

/-- The allocation of a new window, from what the window before measured (R605, R608, R609). -/
def allocate (m : PowerMeas) : Act := withS fun s =>
  let b := 4 * pkgCap s - m.hub
  let thr := classThrottled s
  let e : Option Phase := if learnedMode s then (s.pw.look.bind Prod.snd).bind fun i => mget s.pw.phases i else none
  let a := match e with
    | some p => learnedAlloc b p.dc p.dm p.dl (s.get PW_FLOOR_FC) (s.get PW_FLOOR_FM) (s.get PW_FLOOR_FL)
    | none => fixedAlloc b (raised m.classC (thr 0)) (raised m.classM (thr 1))
  seq [setF PW_STATUS_MODE (ofBool e.isNone), setF PW_ALLOC_A_C a.1, setF PW_ALLOC_A_M a.2.1, setF PW_ALLOC_A_L a.2.2,
    forA (List.range 4) (fun d => setF (PW_DUTY_ALLOC d) (allocDuty (dieShare a.1 d m.dieCompute) (m.diePlanned.getD d 0) (m.dieOpen.getD d 0) (s.get (PW_DUTY_APPLIED d)))),
    updPw (fun p => { p with allocated := true, throttled := false }), updTs fun t => { t with capped := [] }]

/-! ### Class B caps (R601, R610, R615) -/

/-- Σ 1,000 × RATE of a port's guaranteed tickets. -/
def ratesBytes (s : State) (p : Nat) : Nat := (List.range 64).foldl (fun a t => a + 1000 * tsRate s p t) 0

/-- The cap of a port for a budget window: from 1/`k` of the class's power `a`, the idle power and the energy per byte; with
no energy per byte there is no cap. [DEDUCED: log entry 144] -/
def capOf (s : State) (p a k idle epb : Nat) (halves : List Bool) : Option Nat :=
  if epb = 0 then none else
  let c := (a - k * idle) * 40000000 / (k * epb) - ratesBytes s p
  some (halves.foldl (fun x h => if h then x / 2 else x) c)

/-- The caps of a budget window (R610). [DEDUCED: log entry 144] -/
def windowCaps (s : State) : SMap Nat :=
  if !s.pw.allocated then [] else
  let mem := (List.range 4).filterMap fun p =>
    (capOf s p (s.get PW_ALLOC_A_M) 4 (s.get PW_MEM_EPB_P_IDLE_M) (s.get PW_MEM_EPB_EPB_M)
      [s.pw.memHalf, decide (((8 * s.get (PW_THERM_CFG_HBM_THROT p) : Nat) : Int) ≤ stackTemp s p)]).map fun c => (p, c)
  let link := ((List.range 24).filter fun p => 8 ≤ p && isPort p).filterMap fun p =>
    (capOf s p (s.get PW_ALLOC_A_L) 12 (s.get PW_LINK_EPB_P_IDLE_L) (s.get PW_LINK_EPB_EPB_L) [s.pw.linkHalf]).map fun c => (p, c)
  mem ++ link

/-! ### Votes (R618, R619) -/

/-- n_own (R618). -/
def ownDuty (s : State) : Nat := (List.range 4).foldl (fun n d =>
  min n (min (s.get (PW_DUTY_ALLOC d)) (min (s.get (PW_DUTY_RAIL d)) (s.get (PW_DUTY_THERM d))))) 16

/-- The vote registers follow the entries held. -/
def refreshVotes : Act := withS fun s =>
  seq [setF PW_VOTE_APPLIED (if s.is PW_CTRL_VOTE_EN then s.pw.votes.foldl (fun n e => min n e.2.1) 16 else 16),
    setF PW_VOTE_SEEN_PARTS (s.pw.votes.foldl (fun a e => setBit a e.1) 0),
    forA (List.range 4) refreshDuty]

/-- The vote table as bytes: part, duty, age. -/
def voteBytes (vs : SMap (Nat × Nat)) : List Byte := vs.flatMap fun e => [BitVec.ofNat 8 e.1, BitVec.ofNat 8 e.2.1, BitVec.ofNat 8 e.2.2]

/-- The votes at the start of a power window (R618, R619). [DEDUCED: log entry 148] -/
def voteWindow : Act := withS fun s =>
  let own := ownDuty s
  let self := s.get YL_SELF_SELF
  let aged : SMap (Nat × Nat) := (s.pw.votes.filter fun e => e.1 != self).map fun e => (e.1, (e.2.1, e.2.2 + 1))
  let kept := aged.filter fun e => e.2.2 ≤ max 1 (s.get PW_VOTE_VOTE_AGE)
  let vs := mset kept self (own, 0)
  seq [setF PW_VOTE_OWN own,
    whenA (s.is PW_CTRL_VOTE_EN) (seq [
      whenA (kept.length < aged.length) (raiseInt pagePW 7),
      updPw (fun p => { p with votes := vs }),
      forA ((List.range 4).filter fun p => s.is (YL_STATUS_UP p)) (fun p => send 7 p (voteBytes vs))]),
    refreshVotes]

/-- A received entry is kept when it is younger than the one held for its part (R618). [DEDUCED: log entry 148] -/
def keepVote (self : Nat) (vs : SMap (Nat × Nat)) (e : Nat × Nat × Nat) : SMap (Nat × Nat) :=
  if e.1 = self then vs else match mget vs e.1 with
    | some h => if e.2.2 + 1 < h.2 then mset vs e.1 (e.2.1, e.2.2 + 1) else vs
    | none => mset vs e.1 (e.2.1, e.2.2 + 1)

/-- A vote table arrives on Yelilo port `port`: entries of part, duty and age (R618). -/
def execVoteReceived (port : Nat) (entries : List (Nat × Nat × Nat)) (s : State) : Host.Outcome State Fault Refusal :=
  perform (Instr.wellFormed (.voteReceived port entries)) (whenS (fun s => s.is PW_CTRL_VOTE_EN && s.is (YL_STATUS_UP port)) (seq [
    withS (fun s => updPw fun p => { p with votes := entries.foldl (keepVote (s.get YL_SELF_SELF)) p.votes }),
    refreshVotes])) s

/-! ### The power window -/

/-- The start of the next window of length `len` after the one that began at `at_`: windows follow one another, and the first of
a control frame starts at its boundary (R336, R603). [DEDUCED: log entry 146] -/
def nextWindow (g : GridSt) (at_ len : Nat) : Nat := if g.running && at_ < g.boundaryAt then g.boundaryAt else at_ + len

/-- A window of length `len` starts by now. One at a control frame boundary starts with that boundary. [DESIGN CHOICE: log entry 19] [DEDUCED: log entry 146] -/
def windowDue (g : GridSt) (at_ len : Nat) : Bool :=
  nextWindow g at_ len ≤ g.now && !(g.running && nextWindow g at_ len == g.boundaryAt + 550000)

/-- A client's energy, modulo 2⁶⁴ (R308, R309). [DESIGN CHOICE: log entry 139] -/
def chargeEnergy (c e : Nat) : Act := withS fun s =>
  let v := s.get (RM_CLIENT_ACCT_ENERGY_UJ c) * 1024 + s.get (RM_CLIENT_ACCT_ENERGY_FRAC c) + e
  seq [setF (RM_CLIENT_ACCT_ENERGY_UJ c) (v / 1024), setF (RM_CLIENT_ACCT_ENERGY_FRAC c) (v % 1024)]

/-- An energy `e` of a rail, in 1/8 nJ, is split in proportion to the estimates, each share truncated to 2⁻¹⁰ µJ; idle blocks go to
client 0 (R309). -/
def splitEnergy (e : Nat) (r : RailUse) : Act :=
  forA (r.jobs.map (fun j => (j.client, j.estimate)) ++ r.idle.map fun x => (0, x)) fun x => chargeEnergy x.1 (e * 1024 * x.2 / (8000 * railTotal r))

/-- A power window ends and the next one starts (R603 to R618). [DESIGN CHOICE: log entry 139] [DEDUCED: log entry 147] -/
def execPowerWindow (use : PowerUse) (s : State) : Host.Outcome State Fault Refusal :=
  let m := measured s use
  perform (Instr.wellFormed (.powerWindow use)) (whenA (windowDue s.grid s.grid.powerWindow 110000) (seq [
    setF PW_ENERGY_UJ (s.get PW_ENERGY_UJ + sumN s.pw.energy / 8000),
    forA use.rails.zipIdx (fun x => splitEnergy (railEnergy s x.2) x.1),
    updPw (fun p => { p with energy := [] }),
    setF PW_MEAS_P_HUB m.hub, setF PW_MEAS_M_C m.classC, setF PW_MEAS_M_M m.classM, setF PW_MEAS_M_L m.classL,
    whenA (4 * pkgCap s < m.hub + sumN m.dieJobs) (seq [updPw (fun p => { p with capOver := p.capOver + 1 }),
      raiseInt pagePW 3, reportNow 14 4 0x253 pagePW 0xFF 0xFFF 0 false none 0]),
    learnPhase m,
    forA (List.range 4) thermStep,
    forA (List.range 5) voltStep,
    withS (fun s => updGrid fun g => { g with powerWindow := nextWindow s.grid s.grid.powerWindow 110000 }),
    lookPhase m.signature,
    allocate m,
    voteWindow])) s

/-- Power and temperature are within limits (Table 14-5): every enable that is high has its power-good input, and no die or
stack is too hot. -/
def powerWithin (s : State) : Bool :=
  s.pw.enables.all (fun e => s.pw.good.contains e) && (List.range 5).all fun n => (n < 4 && dieOff s n) || !(tooHot s n)

end Sys2Proof.Machine
end

