-- ==== Sys2Proof/Machine/Tightrope.lean ====
section
/-! DEFINITION. Tightrope and the axis rings: the axis grid (R497 to R500), the staging set (R501 to R505), the loop with its
learning and its faults (R506 to R516), axis frames (R517 to R524), running a ring (R525), the rings' passage to and from
the island (R526 to R528, R541 to R544, R551, R559, R560), and the start-up commands (R529 to R532). -/

namespace Sys2Proof.Machine

/-- Page, unit and initiator of Tightrope. -/
def pageTT : Nat := 4
def unitTT : Nat := 105
def initTT : Nat := 0x069

/-- TG of R506. -/
def ttTG : Int := 268435

/-- An axis as reset leaves it. -/
def AxisSt.reset : AxisSt :=
  ⟨false, 0, 0, 0, 0, 0, 0, false, false, 0, 0, 0, true, 0, 0, false, false, false, false, false, 0, none, none, 0, 0, [], [], (0, 0, 0), (0, [])⟩

/-- Axis `a`, and ring `r`. -/
def State.axis (s : State) (a : Nat) : AxisSt := (mget s.tt.axes a).getD AxisSt.reset
def State.ring (s : State) (r : Nat) : RingSt := (mget s.tt.rings r).getD ⟨[], none, none⟩

def updAxis (a : Nat) (f : AxisSt → AxisSt) : Act := fun s => [.setTt { s.tt with axes := mset s.tt.axes a (f (s.axis a)) }]
def updRing (r : Nat) (f : RingSt → RingSt) : Act := fun s => [.setTt { s.tt with rings := mset s.tt.rings r (f (s.ring r)) }]

/-- The axes, and the rings. -/
def axes : List Nat := List.range 128
def rings : List Nat := List.range 4

/-- The ticket of takes and identity writes. -/
def ttTicket (s : State) : Nat := s.get TT_CTRL_TICKET

/-- Ring `r` is running. -/
def ringRuns (s : State) (r : Nat) : Bool := bit (s.get TT_STATUS_RUNNING) r

/-- The axis is configured and enabled on ring `r`. -/
def axisOn (s : State) (r a : Nat) : Bool :=
  s.is (TT_AXIS_CFG_EN a) && s.get (TT_AXIS_CFG_RING a) == r && s.get (TT_AXIS_ST_STATE a) != 0

/-- The axis is running: enabled, configured, on a running ring. -/
def axisRuns (s : State) (a : Nat) : Bool := axisOn s (s.get (TT_AXIS_CFG_RING a)) a && ringRuns s (s.get (TT_AXIS_CFG_RING a))

/-- The enabled axes of ring `r` in ascending NODE. -/
def ringAxes (s : State) (r : Nat) : List Nat :=
  (List.range 64).flatMap fun n => axes.filter fun a => axisOn s r a && s.get (TT_AXIS_CFG_NODE a) == n

/-- The divider D of an axis (R498). -/
def axisDiv (s : State) (a : Nat) : Nat := 2 ^ (3 - s.get (TT_AXIS_CFG_RATE a))

/-! ### Faults (R513) -/

/-- Axis `a` faults on event `b` of Table 13-4. [DEDUCED: log entry 112] -/
def axisFault (a b : Nat) : Act := withS fun s =>
  let f := setBit (s.get (TT_AXIS_ST_FAULT a)) b
  seq [setF (TT_AXIS_ST_FAULT a) f, setF (TT_AXIS_ST_STATE a) 3, raiseInt pageTT 0,
    reportNow 11 4 0x220 pageTT unitTT initTT 0 true none (a + 256 * f),
    assertWire (if b = 4 then 5 else 1) 4]

/-- The samples that are due on an axis and were not accepted are missing (R515, Table 13-4 MISS). [DEDUCED: log entries 109, 112] -/
def missSample (a : Nat) : Act := withS fun s =>
  if !(s.axis a).due then skip else
  let n := (s.axis a).missRun + 1
  seq [updAxis a (fun x => { x with due := false, missed := true, missRun := n }), countF (TT_AXIS_ST_MISS_CNT a) 1, raiseInt pageTT 1,
    whenA (max 1 (s.get (TT_AXIS_CFG_MISS_LIM a)) ≤ n) (axisFault a 1)]

/-! ### Net records and arming (R545, R551) -/

/-- The net record of axis `a` (Table 14-3). -/
def netRec (s : State) (a : Nat) : List Byte := s.mem.bytes (phys s (s.get EL_NET_TAB_ADDR + 64 * a)) 64
def nrEn (r : List Byte) : Bool := bit (le r 0 4) 31
def nrRing (r : List Byte) : Nat := field (le r 0 4) 29 28
def nrNode (r : List Byte) : Nat := field (le r 0 4) 21 16
def nrMiss (r : List Byte) : Nat := max 1 (field (le r 0 4) 7 0)
/-- The Q32 at byte `o`. -/
def nrQ (r : List Byte) (o : Nat) : Int := toSigned 32 (le r o 4)

/-- The axes whose net record has EN 1. -/
def netAxes (s : State) : List Nat := axes.filter fun a => nrEn (netRec s a)

/-- FB_NS, HOP_NS and CMD_NS: the largest in the identity records of the axes configured on ring `r`. [DEDUCED: log entry 118] -/
def ringNs (s : State) (r : Nat) : Nat × Nat × Nat :=
  (axes.filter fun a => s.get (TT_AXIS_CFG_RING a) == r && s.get (TT_AXIS_ST_STATE a) != 0).foldl
    (fun m a => let n := (s.axis a).ns; (max m.1 n.1, max m.2.1 n.2.1, max m.2.2 n.2.2)) (0, 0, 0)

/-- The time in grid cycles from the departure of a CMD frame with `n` entries to its last module's answer to it (R525). -/
def travel (s : State) (r n : Nat) : Nat :=
  let t := ringNs s r
  ceilDiv (11 * (16 * (62 + 16 * n) + 5 * (s.get (TT_RING_STAT_NODES r) * t.2.1 + t.2.2 + 1000))) 50

/-- The net's budget holds on every ring whose RUN bit is 1 (R551). -/
def netBudget (s : State) : Bool := rings.all fun r =>
  !(bit (s.get TT_CTRL_RUN) r) || (s.get TT_TIMING_FB_DL ≤ s.get EL_NET_TIME_NET_OFS
    && s.get EL_NET_TIME_NET_OFS + 240 * (netAxes s).length
      + travel s r ((netAxes s).filter fun a => nrRing (netRec s a) == r).length ≤ pointCycles)

/-- The island checks ARM (R551). -/
def armCheck : Act := withS fun s =>
  if s.is EL_NET_CFG_ARM then seq [setF EL_NET_STAT_ARMED (ofBool (netBudget s)), setF EL_NET_STAT_BUDGET_ERR (ofBool (!(netBudget s)))]
  else setF EL_NET_STAT_ARMED 0

/-! ### Running a ring (R505, R525) -/

/-- The conditions of R525. -/
def ringBudget (s : State) (r : Nat) : Bool :=
  let t := ringNs s r
  let n := s.get (TT_RING_STAT_NODES r)
  let nc := (ringAxes s r).length
  s.get TT_TIMING_FB_DL ≤ s.get TT_TIMING_CALC_OFS
    && ceilDiv (11 * (t.1 + n * (t.2.1 + 276))) 10 ≤ s.get TT_TIMING_FB_DL
    && s.get TT_TIMING_CALC_OFS + 1100 + 768 * nc + travel s r nc ≤ pointCycles

/-- An axis begins to run: the initial set, and a first update (R505, R510). [DEDUCED: log entry 113] -/
def startAxis (a : Nat) : Act := withS fun s =>
  seq [updAxis a (fun x => { x with on := true, first := true, afterReturn := false, missing := true, due := false, missRun := 0, sent := none, posRef := none, velRef := 0, tauFf := 0 }),
    whenA (s.get (TT_AXIS_ST_STATE a) != 3) (setF (TT_AXIS_ST_STATE a) 2)]

/-- An axis stops running. -/
def stopAxis (a : Nat) : Act := withS fun s =>
  seq [updAxis a (fun x => { x with on := false, due := false, sent := none }),
    whenA (s.get (TT_AXIS_ST_STATE a) == 2) (setF (TT_AXIS_ST_STATE a) 1)]

/-- Software sets the RUN bit of ring `r` (R525). A ring runs only while a plan is in force. [DEDUCED: log entry 115] -/
def startRing (r : Nat) : Act := withS fun s =>
  if bit (s.get TT_CTRL_RUN) r || !s.planOn then skip
  else if !(ringBudget s r) then seq [setF (TT_RING_STAT_BUDGET_ERR r) 1, raiseInt pageTT 4]
  else seq [setF (TT_RING_STAT_BUDGET_ERR r) 0, setF TT_CTRL_RUN (setBit (s.get TT_CTRL_RUN) r),
    setF TT_STATUS_RUNNING (setBit (s.get TT_STATUS_RUNNING) r), forA (ringAxes s r) startAxis, armCheck]

/-- Software clears the RUN bit of ring `r` (R290). -/
def stopRing (r : Nat) : Act := withS fun s =>
  if !(bit (s.get TT_CTRL_RUN) r) then skip
  else seq [setF TT_CTRL_RUN (clearBit (s.get TT_CTRL_RUN) r), setF TT_STATUS_RUNNING (clearBit (s.get TT_STATUS_RUNNING) r),
    forA (axes.filter fun a => s.get (TT_AXIS_CFG_RING a) == r) stopAxis, armCheck]

/-- Setting RUN of ring `r` (R525). [DEDUCED: log entry 115] -/
def execRingRun (init tkt r : Nat) (s : State) : Host.Outcome State Fault Refusal :=
  perform (Instr.wellFormed (.ringRun init tkt r)) (openWrite init tkt pageTT 0x10 8 (startRing r)) s

/-! ### The axis grid, handover and return -/

/-- The grid cycle of the next grid point (R497). -/
def nextPoint (g : GridSt) : Nat := if g.pointAt < g.boundaryAt then g.boundaryAt else g.pointAt + pointCycles

/-- A grid point falls by now. The point at a control frame boundary falls with that boundary. [DESIGN CHOICE: log entry 19] -/
def pointDue (g : GridSt) : Bool := g.running && nextPoint g ≤ g.now && nextPoint g != g.boundaryAt + 550000

/-- The grid counts of a new point (R497, R500, R502). -/
def countPoint : Act := withS fun s =>
  let p := nextPoint s.grid
  updGrid fun g => { g with pointAt := p, pointOld := g.point + 1, point := 4 * frameNumber s + (p - g.boundaryAt) / pointCycles, applyNow := g.applyNext, applyNext := s.timestamp + pointCycles * s.time.inc / 2 ^ 32 }

/-- The rings pass to the island (R527, R543, R544). -/
def handOver : Act := withS fun s =>
  seq [setF TT_STATUS_OWNER_ISL 1, setF EL_NET_STAT_OWNER 1, countF EL_NET_STAT_HANDOVERS 1,
    updIsl (fun i => { i with handoverAt := none, handoverPoint := s.grid.pointAt, sto := i.sto && s.is EL_NET_STAT_ARMED })]

/-- At the first point of the frame grid a doubt latched before sets up its handover (R542). -/
def awaitHandover : Act := whenS (fun s => s.doubted && s.isl.handoverAt.isNone && !(s.is EL_NET_STAT_OWNER))
  (withS fun s => updIsl fun i => { i with handoverAt := some (s.grid.pointAt + pointCycles) })

/-- The rings pass back to Tightrope (R528, R559, R560). [DEDUCED: log entry 107] -/
def giveBack : Act := withS fun s =>
  seq [setF TT_STATUS_OWNER_ISL 0, setF EL_NET_STAT_OWNER 0, setF EL_NET_STAT_STOPPED 0,
    updIsl (fun i => { i with sto := true, axes := [], handoverAt := none, stopDone := false }),
    forA (axes.filter fun a => (s.axis a).on) (fun a => updAxis a fun x => { x with first := true, afterReturn := true }),
    reintEnd 0]

/-- The return of R559 takes place at the present point: it is the boundary that the take of a complete set named, and no bit
of EL_DOUBT has set since the request (R560). [DEDUCED: log entry 107] -/
def returnsNow (s : State) : Bool := s.isl.reint == 3 && s.grid.pointAt == s.grid.boundaryAt && s.isl.reintBits == 0

/-- What happens to the rings' ownership at a point. [DEDUCED: log entry 107] -/
def passRings : Act := withS fun s =>
  if returnsNow s then giveBack
  else seq [whenA (s.isl.reint == 3 && s.grid.pointAt == s.grid.boundaryAt) (reintEnd 7),
    match s.isl.handoverAt with
    | some p => whenA (p ≤ s.grid.pointAt) handOver
    | none => awaitHandover]

/-- Axis `a` at a point: the current that the module applies there (R526), whether it runs, and the samples that are due
(R515). [DEDUCED: log entries 109, 126] -/
def pointAxis (a : Nat) : Act := withS fun s =>
  let x := s.axis a
  let runs := axisRuns s a
  let mine := runs && s.grid.point % axisDiv s a == 0
  let isl := match x.sent with | some e => e.2 && s.is TT_STATUS_OWNER_ISL | none => false
  if !runs && !isl && !x.on && x.sent.isNone then skip else
  seq [match x.sent with
    | some e => setF (TT_AXIS_ST_I_LAST a) (ofSigned 32 e.1)
    | none => skip,
    updAxis a (fun x => { x with sent := none }),
    whenA (runs && !x.on) (startAxis a),
    whenA (!runs && x.on) (stopAxis a),
    whenA (runs && s.get (TT_AXIS_ST_STATE a) == 1) (setF (TT_AXIS_ST_STATE a) 2),
    whenA mine (withS fun s => updAxis a fun x => { x with missing := true, iPrev := toSigned 32 (s.get (TT_AXIS_ST_I_LAST a)) }),
    updAxis a (fun x => { x with due := mine || isl, loopDue := mine, got := false, missed := false })]

/-- The effect of a grid point. -/
def gridPoint : Act := seq [forA axes missSample, countPoint, passRings, forA axes pointAxis]

/-- A grid point falls (R497). At the return of the rings EL_DOUBT is cleared (R541). [DESIGN CHOICE: log entry 18] -/
def execAxisGridPoint (s : State) : Host.Outcome State Fault Refusal :=
  if !(pointDue s.grid) then .next s else
  let t := s.run (gridPoint s)
  let mid := s.run (seq [forA axes missSample, countPoint] s)
  .next (if returnsNow mid then { t with doubt := { t.doubt with bits := 0 } } else t)

/-! ### Axis frames (R517 to R524) -/

/-- A MAC address as a register holds it, in the order of sending. -/
def macBytes (m : Nat) : List Byte := leBytes 6 m

/-- The axis frame of ring `r` with TYPE `ty` to `da`: header, body, SAFE_CRC (Table 13-5, R518). [DEDUCED: log entry 119] -/
def axisFrame (s : State) (r da pcp ty flags node cycle time : Nat) (body : List Byte) : List Byte :=
  let safe := [1#8, BitVec.ofNat 8 ty, BitVec.ofNat 8 flags, BitVec.ofNat 8 node] ++ leBytes 4 cycle ++ leBytes 8 time ++ body
  macBytes da ++ macBytes (s.get (TT_RING_SRC_MAC r)) ++ [0x81#8, 0x00#8] ++ beBytes 2 (pcp * 8192 + s.get (TT_RING_CFG_VID r))
    ++ beBytes 2 (s.get (TT_RING_CFG_ETHERTYPE r)) ++ safe ++ leBytes 4 (crc32c safe)

/-- A frame is sent on ring `r` in class `c`, once its gate lets it. [DEDUCED: log entry 121] -/
def sendAxis (r c : Nat) (f : List Byte) : Act := whenS (fun s => gatePasses s r c (f.length + 24)) (send 4 r f)

/-- An entry of a CMD frame (Table 13-7). -/
def cmdEntry (node : Nat) (enable brake : Bool) (i tau pr : Int) : List Byte :=
  leBytes 4 (node + 256 * ofBool enable + 512 * ofBool brake) ++ leBytes 4 (ofSigned 32 i) ++ leBytes 4 (ofSigned 32 tau) ++ leBytes 4 (ofSigned 32 pr)

/-- One CMD frame on ring `r` for the next point with its entries (R521, R543), and whether its gate lets it go. -/
def cmdFrame (s : State) (r : Nat) (island : Bool) (es : List (List Byte)) : List Byte :=
  axisFrame s r (s.get (TT_RING_DST_MAC r)) 7 1 (ofBool island) es.length (s.grid.point + 1) s.grid.applyNext es.flatten
def cmdPasses (s : State) (r n : Nat) : Bool := gatePasses s r 7 (62 + 16 * n)

/-! ### The staging set (R501 to R504) -/

/-- The axes whose entries a take reads. -/
def takenAxes (s : State) : List Nat := axes.filter (axisRuns s)

/-- The take point has come: CALC_OFS after the last grid point of the frame, and not taken yet (R502). [DESIGN CHOICE: log entry 19] -/
def takeDue (s : State) : Bool :=
  s.grid.running && s.grid.pointAt == s.grid.boundaryAt + 3 * pointCycles
    && s.grid.pointAt + s.get TT_TIMING_CALC_OFS ≤ s.grid.now && s.tt.takenAt != some s.grid.pointAt

/-- The staging set lies in hub shared SRAM, 64 B aligned (R501). [DEDUCED: log entry 116] -/
def stageOk (s : State) : Bool :=
  let b := s.get TT_STAGE_BASE
  b % 64 == 0 && 0xE400000000 ≤ b && b + 2112 ≤ 0xE402000000

/-- A complete set is taken: the entries of the running axes come into use from the next boundary on. [DEDUCED: log entry 116] -/
def takeSet : Act := withS fun s =>
  let b := s.get TT_STAGE_BASE
  seq [forA (takenAxes s) (fun a =>
      let e := readRange s (b + 64 + 16 * a) 12
      updAxis a fun x => { x with posRef := some (nrQ e 0), velRef := nrQ e 4, tauFf := nrQ e 8 }),
    updTt (fun t => { t with setAt := s.grid.boundaryAt + 550000, taking := some ⟨s.grid.now, b, takenAxes s⟩ }),
    setF TT_SET_SET_FRAME (frameNumber s + 1)]

/-- What a take's outcome means for a reintegration that waits for it (R559). [DEDUCED: log entry 108] -/
def takeReint (complete : Bool) : Act := whenS (fun s => s.isl.reint == 2)
  (if complete then updIsl (fun i => { i with reint := 3 }) else reintEnd 6)

/-- The set is not complete. -/
def setMissed : Act := seq [countF TT_SET_SET_MISS 1, raiseInt pageTT 2, takeReint false]

/-- The take point (R502). -/
def execTakePoint (ecc : Ecc) (s : State) : Host.Outcome State Fault Refusal :=
  perform (Instr.wellFormed (.takePoint ecc)) (whenA (takeDue s) (seq [
    updTt (fun t => { t with takenAt := some s.grid.pointAt }),
    if !(stageOk s) then setMissed else
    let b := s.get TT_STAGE_BASE
    accessAll initTT (ttTicket s) ecc ((0, b, 8) :: (takenAxes s).map (fun a => (0, b + 64 + 16 * a, 12)))
      (if ofLe (readRange s b 8) = frameNumber s + 1 then seq [takeSet, takeReint true] else setMissed)
      (fun _ => setMissed)])) s

/-! ### The loop (R506 to R512) -/

/-- A conversion of R507. -/
abbrev QConv := Int × Bool

/-- The value of a table of `n` entries between entry `m` and the next, at fraction `f` (R509). -/
def interp (t : List Int) (m m' : Nat) (f : Int) : QConv :=
  rescale 32 32 16 (t.getD m 0 * 65536 + (t.getD m' 0 - t.getD m 0) * f)

/-- cog(θm) (R509). -/
def cogAt (t : List Int) (thm : Nat) : QConv := interp t (thm / 2 ^ 22) ((thm / 2 ^ 22 + 1) % 1024) (thm / 64 % 65536 : Nat)

/-- fric(ω) (R509): the two conversions. -/
def fricAt (t : List Int) (invVstep w : Int) : List QConv :=
  let q := rescale 32 36 16 (w * invVstep)
  let m := q.1 / 65536 + 128
  [if m < 0 then (t.getD 0 0, false) else if 255 ≤ m then (t.getD 255 0, false) else interp t m.toNat (m.toNat + 1) (q.1 % 65536), q]

/-- The fields of an axis that the loop reads, as signed values. -/
structure LoopCfg where
  kp : Int
  kv : Int
  ki : Int
  intLim : Int
  rThr : Int
  kd : Int
  invJ : Int
  ktg : Int
  invKtg : Int
  invVstep : Int
  tauMax : Int
  iMax : Int
  period : Int
  interp : Bool
  deriving DecidableEq, Repr

/-- The configuration of axis `a` (Table 13-12). -/
def loopCfg (s : State) (a : Nat) : LoopCfg :=
  let g (f : Fld) : Int := toSigned 32 (s.get f)
  ⟨g (TT_AXIS_CFG_KP a), g (TT_AXIS_CFG_KV a), g (TT_AXIS_CFG_KI a), g (TT_AXIS_CFG_INT_LIM a), g (TT_AXIS_CFG_R_THR a),
    g (TT_AXIS_CFG_KD a), g (TT_AXIS_CFG_INV_J a), g (TT_AXIS_CFG_KTG a), g (TT_AXIS_CFG_INV_KTG a), g (TT_AXIS_CFG_INV_VSTEP a),
    g (TT_AXIS_LIM_TAU_MAX a), g (TT_AXIS_LIM_I_MAX a), (axisDiv s a : Int) * ttTG, s.is (TT_AXIS_CFG_INTERP a)⟩

/-- What the loop starts from: th, w and thm of R508, th_pred and w_pred, run, d_hat, INTEG, τ_bump, i_prev, the set in use with
the count n, τ_isl when the update follows a return, and a cog() that an uncorrectable error makes unpredictable. -/
structure LoopIn where
  th : Int
  w : Int
  thm : Nat
  wPred : Int
  run : Nat
  dHat : Int
  integ : Int
  tauBump : Int
  iPrev : Int
  posRef : Int
  velRef : Int
  tauFf : Int
  n : Int
  tauIsl : Option QConv
  badCog : Option Int
  deriving DecidableEq, Repr

/-- What an update computes. `sat` counts the conversions that saturated (R507). -/
structure LoopOut where
  run : Nat
  dHat : Int
  pr : Int
  integ : Int
  tfb : Int
  tau : Int
  i : Int
  limited : Bool
  tauBump : Int
  wPred : Int
  thPred : Int
  sat : Nat
  deriving DecidableEq, Repr

/-- The procedure of R508 up to its call of learn, from the sample and the predictions as the first two lines leave them. -/
def loopStep (c : LoopCfg) (cog fric : List Int) (x : LoopIn) : LoopOut :=
  let r := rescale 32 20 20 (x.w - x.wPred)
  let run := if c.rThr < r.1.natAbs then min 255 (x.run + 1) else 0
  let lim (m v : Int) : Int := clampI (-m) m v
  let dHat := rescale 32 36 16 (lim (c.tauMax * 2 ^ 20) (x.dHat * 2 ^ 20 + c.kd * r.1))
  let prI := rescale 32 51 24 (x.posRef * 2 ^ 27 + x.velRef * (x.n * ttTG))
  let pr : QConv := if c.interp then prI else (x.posRef, false)
  let wc := rescale 32 40 20 (x.velRef * 2 ^ 20 + c.kp * (pr.1 - x.th))
  let e := rescale 32 20 20 (wc.1 - x.w)
  let integ := rescale 32 51 24 (lim (c.intLim * 2 ^ 27) (x.integ * 2 ^ 27 + e.1 * c.period))
  let tfb := rescale 32 36 16 (c.kv * e.1 + c.ki * integ.1)
  let cg : QConv := match x.badCog with | some v => (v, false) | none => cogAt cog x.thm
  let fc := fricAt fric c.invVstep wc.1
  let fw := fricAt fric c.invVstep x.w
  let fcV := (fc.head?.getD (0, false)).1
  let fwV := (fw.head?.getD (0, false)).1
  let tau0 := x.tauFf + tfb.1 + cg.1 + fcV
  let bump : QConv := match x.tauIsl with | some ti => rescale 32 16 16 (ti.1 - satS 32 tau0) | none => (x.tauBump, false)
  let tauC := rescale 32 16 16 (tau0 + bump.1)
  let tsat := c.tauMax < tauC.1 || tauC.1 < -c.tauMax
  let tau := lim c.tauMax tauC.1
  let iC := rescale 32 40 20 (tau * c.invKtg)
  let isat := c.iMax < iC.1 || iC.1 < -c.iMax
  let tnet := rescale 32 40 16 (x.iPrev * c.ktg + (dHat.1 - cg.1 - fwV) * 2 ^ 24)
  let acc := rescale 32 32 16 (tnet.1 * c.invJ)
  let wPred := rescale 32 47 20 (x.w * 2 ^ 27 + acc.1 * c.period)
  let thPred := rescale 32 52 24 (x.th * 2 ^ 28 + (x.w + wPred.1) * c.period)
  { run := run, dHat := dHat.1, pr := pr.1, integ := integ.1, tfb := tfb.1, tau := tau, i := lim c.iMax iC.1,
    limited := tsat || isat, tauBump := bump.1 - bump.1 / 64, wPred := wPred.1, thPred := thPred.1,
    sat := (([r, dHat, pr, wc, e, integ, tfb, cg, bump, tauC, iC, tnet, acc, wPred, thPred] ++ x.tauIsl.toList ++ fc ++ fw).filter Prod.snd).length }

/-- learn(θm, tfb) (R511, R512): the table and m̄ afterwards. [DEDUCED: log entry 219] -/
def learnCog (cog : List Int) (mbar lg lstep clim tfb : Int) (thm : Nat) : List Int × Int :=
  let m := thm / 2 ^ 22
  let m' := (m + 1) % 1024
  let f : Int := (thm / 64 % 65536 : Nat)
  let mb := satS 32 (mbar + (tfb - mbar) / 256)
  let dl := (rescale 32 32 16 (clampI (-(lstep * 65536)) (lstep * 65536) (min lg 0x1000 * (tfb - mb)))).1
  let put (t : List Int) (k : Nat) (g : Int) : List Int :=
    t.set k (rescale 32 32 16 (clampI (-(clim * 65536)) (clim * 65536) (t.getD k 0 * 65536 + dl * g))).1
  (put (put (if cog.length < 1024 then cog ++ List.replicate (1024 - cog.length) 0 else cog) m (65536 - f)) m' f, mb)

/-- The conditions of Table 13-3 that do not lie in the update itself. -/
def mayLearn (s : State) (a : Nat) : Bool :=
  s.is TT_CTRL_LEARN_EN && s.is (TT_AXIS_CFG_LEARN a) && !s.doubted && !(s.is TT_STATUS_OWNER_ISL) && s.get (TT_AXIS_ST_FAULT a) == 0

/-- The cogging table after a learning write in grid cycle `now`: the entries that software wrote in that cycle stand (R12). [DESIGN CHOICE: log entry 249] -/
def learned (x : AxisSt) (now : Nat) (cog : List Int) : List Int :=
  if x.written.1 = now then x.written.2.foldl (fun t k => t.set k (x.cog.getD k 0)) cog else cog

/-- learn of an update (R511, Table 13-3). -/
def learnAct (a : Nat) (first missing limited : Bool) (w tfb : Int) (thm : Nat) : Act := withS fun s =>
  let lvMin := toSigned 32 (s.get (TT_AXIS_CFG_LV_MIN a))
  if first || missing || limited || (w.natAbs : Int) < lvMin || !(mayLearn s a) then skip else
  let l := learnCog (s.axis a).cog (toSigned 32 (s.get (TT_AXIS_ST_MBAR a))) (s.get (TT_AXIS_CFG_LG a) : Nat)
    (s.get (TT_AXIS_CFG_LSTEP a) : Nat) (toSigned 32 (s.get (TT_AXIS_CFG_CLIM a))) tfb thm
  seq [updAxis a (fun x => { x with cog := learned x s.grid.now l.1 }), setF (TT_AXIS_ST_MBAR a) (ofSigned 32 l.2)]

/-- The next point is a boundary of the axis. -/
def boundaryNext (s : State) (a : Nat) : Bool := (s.grid.point + 1) % axisDiv s a == 0

/-- Grid points from the boundary of the set in use to the next point, saturating at 8 (R508). [DEDUCED: log entry 218] -/
def setAge (s : State) : Nat := min 8 ((s.grid.pointAt + pointCycles - s.tt.setAt) / pointCycles)

/-- What axis `a`'s update reads, with its POS_REF, and the value of cog() if its table cannot be read. -/
def loopIn (s : State) (a : Nat) (posRef : Int) (badCog : Option Int) : LoopIn :=
  let x := s.axis a
  let th := if x.missing then x.thPred else x.th
  let w := if x.missing then x.wPred else x.w
  { th := th, w := w, thm := if x.missing then x.thmPrev else x.thm, wPred := if x.first then w else x.wPred,
    run := if x.first then 0 else s.get (TT_AXIS_ST_RUN a), dHat := if x.first then 0 else toSigned 32 (s.get (TT_AXIS_ST_D_HAT a)),
    integ := if x.first && !x.afterReturn then 0 else x.integ, tauBump := x.tauBump, iPrev := x.iPrev,
    posRef := posRef, velRef := x.velRef, tauFf := x.tauFf, n := setAge s,
    tauIsl := if x.first && x.afterReturn then some (rescale 32 40 16 (toSigned 32 (s.get (TT_AXIS_ST_I_LAST a)) * toSigned 32 (s.get (TT_AXIS_CFG_KTG a)))) else none,
    badCog := badCog }

/-- One update of axis `a`, which ends with its command: the state afterwards (R508, R511, R513), its entry to be kept until
the next point when Tightrope may send it. [DEDUCED: log entries 113, 218] -/
def loopUpdate (a : Nat) (posRef : Int) (badCog : Option Int) (sends : Bool) : Act := withS fun s =>
  let x := s.axis a
  let i := loopIn s a posRef badCog
  let o := loopStep (loopCfg s a) x.cog x.fric i
  let lim := max 1 (s.get (TT_AXIS_CFG_FAULT_CNT a))
  seq [setF (TT_AXIS_ST_RUN a) o.run, setF (TT_AXIS_ST_D_HAT a) (ofSigned 32 o.dHat),
    setF (TT_AXIS_ST_THETA a) (ofSigned 32 i.th), setF (TT_AXIS_ST_OMEGA a) (ofSigned 32 i.w),
    countF (TT_AXIS_ST_SAT_CNT a) o.sat,
    updAxis a (fun y => { y with first := false, afterReturn := false, integ := o.integ, tauBump := o.tauBump, wPred := o.wPred, thPred := o.thPred, thmPrev := i.thm }),
    whenA sends (updAxis a fun y => { y with sent := some (match y.sent with | some (v, true) => (v, true) | _ => (o.i, false)) }),
    whenA (o.run == lim && i.run != lim) (axisFault a 0),
    learnAct a x.first x.missing o.limited i.w o.tfb i.thm]

/-- The entry of axis `a` in a CMD frame (R521): BRAKE_REL is 0 only for an axis faulted with LIMIT. [DESIGN CHOICE: log entry 111] [DEDUCED: log entry 127] -/
def ttEntry (s : State) (a : Nat) (posRef : Int) (badCog : Option Int) : List Byte :=
  let o := loopStep (loopCfg s a) (s.axis a).cog (s.axis a).fric (loopIn s a posRef badCog)
  cmdEntry (s.get (TT_AXIS_CFG_NODE a)) true (!(bit (s.get (TT_AXIS_ST_FAULT a)) 3)) o.i o.tau o.pr

/-- A free 32-bit value of the state's present number. [DESIGN CHOICE: log entry 111] -/
def freeInt (s : State) : Int := toSigned 32 (Config.freeWord s.fresh).toNat

/-- The updates of a list of axes in order, then `k` with their entries. Before any sample of an axis has been accepted its
initial POS_REF is free (R505 gives it none), and so is cog() when its table cannot be read (R514). [DESIGN CHOICE: log entries 111, 114] -/
def updateAll (mem : List Nat) (sends : Bool) : List Nat → List (List Byte) → (List (List Byte) → Act) → Act
  | [], es, k => k es
  | a :: as, es, k => withS fun s =>
    let p := match (s.axis a).posRef with | some v => v | none => freeInt s
    let c := if mem.contains a then some (toSigned 32 (Config.freeWord (s.fresh + 1)).toNat) else none
    let free := (s.axis a).posRef.isNone || mem.contains a
    seq [whenA free (fun _ => [.bump, .bump]), whenA (mem.contains a) (axisFault a 4),
      loopUpdate a p c sends, updateAll mem sends as (es ++ [ttEntry s a p c]) k]

/-- Ring `r`'s updates of a cycle are due: CALC_OFS + 1,100 after the point, and not done yet (R499, R525). [DESIGN CHOICE: log entry 19] -/
def updateDue (s : State) (r : Nat) : Bool :=
  s.grid.running && ringRuns s r && s.grid.pointAt + s.get TT_TIMING_CALC_OFS + 1100 ≤ s.grid.now
    && (s.ring r).updated != some s.grid.pointAt

/-- The updates of ring `r` in the cycle of the present point, and its CMD frame (R499, R521, R527). [DESIGN CHOICE: log entry 114] -/
def execAxisUpdate (ring : Nat) (mem : List Nat) (s : State) : Host.Outcome State Fault Refusal :=
  perform (Instr.wellFormed (.axisUpdate ring mem)) (whenA (updateDue s ring) (
    let as := (ringAxes s ring).filter fun a => boundaryNext s a && (s.axis a).on
    let sends := !(s.is TT_STATUS_OWNER_ISL) && cmdPasses s ring as.length
    seq [updRing ring (fun x => { x with updated := some s.grid.pointAt }),
      updateAll mem sends as [] fun es => whenA (sends && !es.isEmpty) (withS fun s =>
        seq [send 4 ring (cmdFrame s ring false es), updRing ring fun x => { x with sentAt := some s.grid.pointAt }])])) s

/-! ### Received frames (R519, R520, R526, R529, R530) -/

/-- Length of an axis frame's body by its TYPE (Table 13-6); none for a reserved TYPE. [DEDUCED: log entry 119] -/
def bodyLen (f : List Byte) : Option Nat := match (f.getD 19 0#8).toNat with
  | 1 => some (16 * (f.getD 21 0#8).toNat)
  | 2 => some 24
  | 3 | 4 | 5 => some 8
  | 6 => some (8 + le f 36 2)
  | _ => none

/-- VER, TYPE and SAFE_CRC are right (R518, R519). [DEDUCED: log entry 119] -/
def frameGood (f : List Byte) : Bool := match bodyLen f with
  | none => false
  | some n => (f.getD 18 0#8) == 1#8 && 38 + n ≤ f.length && le f (34 + n) 4 == crc32c ((f.drop 18).take (16 + n))

/-- The mirror entry of axis `a` (R526), when it lies in island SRAM. [DEDUCED: log entry 117] -/
def mirrorAt (s : State) (a : Nat) : Option Nat :=
  match region (s.get TT_MIRROR_ADDR + 32 * a) with
  | .islandSram o => if o + 32 ≤ 0x400000 then some (phys s (s.get TT_MIRROR_ADDR + 32 * a)) else none
  | _ => none

/-- The sample of axis `a` in an FB frame is accepted (R520, R526, Table 13-4). [DEDUCED: log entries 110, 117] -/
def acceptSample (a : Nat) (f : List Byte) : Act := withS fun s =>
  let x := s.axis a
  let th := nrQ f 34
  let w := nrQ f 42
  let st := le f 54 4
  seq [setF (TT_AXIS_ST_MISS_CNT a) 0,
    updAxis a (fun x => { x with due := false, got := true, missRun := 0, seen := true, lastTh := th, lastW := w, posRef := some (x.posRef.getD th) }),
    whenA x.loopDue (updAxis a fun x => { x with th := th, w := w, thm := le f 38 4, missing := false }),
    match mirrorAt s a with
    | some m => store m ((f.drop 34).take 24 ++ (f.drop 26).take 8)
    | none => skip,
    whenA (bit st 1) (raiseInt pageTT 3),
    whenA (bit st 0) (axisFault a 2),
    whenA (decide (th < toSigned 32 (s.get (TT_AXIS_LIM_POS_MIN a))) || decide (toSigned 32 (s.get (TT_AXIS_LIM_POS_MAX a)) < th)
      || decide (toSigned 32 (s.get (TT_AXIS_LIM_VEL_MAX a)) < (w.natAbs : Int))) (axisFault a 3)]

/-- The axis whose sample an FB frame on ring `r` is, if it is to be accepted (R520). [DEDUCED: log entry 110] -/
def sampleOf (s : State) (r : Nat) (f : List Byte) : Option Nat :=
  let cycle := le f 22 4
  let t := le f 26 8
  if s.grid.now ≤ s.grid.pointAt + s.get TT_TIMING_FB_DL
      && (cycle == s.grid.point % 2 ^ 32 || cycle == s.grid.pointOld % 2 ^ 32)
      && t ≤ s.grid.applyNow + 1000 && s.grid.applyNow ≤ t + 1000 then
    axes.find? fun a => (s.axis a).due && s.get (TT_AXIS_CFG_RING a) == r && s.get (TT_AXIS_CFG_NODE a) == (f.getD 21 0#8).toNat
  else none

/-- The offset and length of the IDENT_REQ with first byte `o` (R530). -/
def identLen (o : Nat) : Nat := min 1024 (5376 - o)

/-- IDENT_REQ of a READ for its present offset, to the module's MAC as the ring's enumeration found it. -/
def sendIdent (c : TtCmd) : Act := withS fun s =>
  match (s.ring c.ring).found.find? (fun m => m.1 == c.node) with
  | some m => sendAxis c.ring 5 (axisFrame s c.ring m.2.1 5 5 0 c.node 0 0 (leBytes 2 c.offset ++ leBytes 2 (identLen c.offset) ++ leBytes 4 0))
  | none => skip

/-- A TT_CMD command ends. -/
def cmdEnd (result : Nat) : Act := seq [updTt (fun t => { t with cmd := none }), setF TT_CMD_STAT_RESULT result,
  setF TT_CMD_STAT_BUSY 0, raiseInt pageTT 5]

/-- A DISC_RSP on ring `r` (R529). [DESIGN CHOICE: log entry 220] -/
def discRsp (r : Nat) (f : List Byte) : Act := withS fun s => match s.tt.cmd with
  | some c => whenA (c.op == 1 && c.ring == r)
      (updRing r fun x => { x with found := x.found ++ [((f.getD 21 0#8).toNat, le f 34 6, (f.getD 40 0#8).toNat)] })
  | none => skip

/-- An IDENT_RSP on ring `r` (R530). [DEDUCED: log entry 123] -/
def identRsp (r : Nat) (f : List Byte) : Act := withS fun s => match s.tt.cmd with
  | some c =>
    if c.op == 2 && c.ring == r && c.node == (f.getD 21 0#8).toNat && le f 34 2 == c.offset && le f 36 2 == identLen c.offset then
      let a := s.get TT_IDENT_BUF_ADDR + c.offset
      let n := identLen c.offset
      let next := { c with offset := c.offset + n, attempt := 1 }
      access initTT (ttTicket s) 1 ⟨[], []⟩ a n (seq [writeRange a ((f.drop 42).take n),
        if 5376 ≤ c.offset + n then cmdEnd 0 else seq [updTt (fun t => { t with cmd := some next }), sendIdent next]]) (fun _ => skip)
    else skip
  | none => skip

/-- The frame has an 802.1Q tag and the ring's EtherType (R517, R519). -/
def isAxisFrame (s : State) (r : Nat) (f : List Byte) : Bool :=
  18 ≤ f.length && ofBe ((f.drop 12).take 2) == 0x8100 && ofBe ((f.drop 16).take 2) == s.get (TT_RING_CFG_ETHERTYPE r)

/-- A frame arrives on ring `r` (R519, R520). [DEDUCED: log entry 124] -/
def rxFrame (r : Nat) (f : List Byte) : Act := withS fun s =>
  if !(isAxisFrame s r f) then send 5 r f
  else if !(frameGood f) then countF (TT_RING_STAT_CRC_ERR r) 1
  else match (f.getD 19 0#8).toNat with
    | 2 => match sampleOf s r f with
      | some a => acceptSample a f
      | none => countF (TT_RING_STAT_DROPPED r) 1
    | 4 => discRsp r f
    | 6 => identRsp r f
    | _ => skip

/-- FB_DL has passed (R515). -/
def execFbDeadline (s : State) : Host.Outcome State Fault Refusal :=
  perform (Instr.wellFormed .fbDeadline) (whenA (s.grid.running && s.grid.pointAt + s.get TT_TIMING_FB_DL ≤ s.grid.now)
    (forA axes missSample)) s

/-! ### Start-up commands (R529 to R532) -/

/-- A write to TT_CMD, from the island, while no command runs (Table 13-10). -/
def ttCmd (init tkt op r n a : Nat) (ok : Act) : Act :=
  islandWrite init tkt pageTT 0x180 (op * 2 ^ 28 + r * 2 ^ 24 + n * 2 ^ 16 + a) (whenS (fun s => !(s.is TT_CMD_STAT_BUSY)) ok)

/-- ENUM starts: DISCOVER with HOPS 0 leaves on ring `r` (R529). -/
def enumStart (r : Nat) : Act := withS fun s =>
  if bit (s.get TT_CTRL_RUN) r then cmdEnd 7
  else seq [setF TT_CMD_STAT_BUSY 1, updTt (fun t => { t with cmd := some ⟨1, r, 0, 0, 0, 1⟩ }),
    updRing r (fun x => { x with found := [] }),
    sendAxis r 5 (axisFrame s r (s.get (TT_RING_DST_MAC r)) 5 3 0 0 0 0 (leBytes 8 0))]

/-- ENUM on ring `r` (R529). -/
def execEnum (init tkt r : Nat) (s : State) : Host.Outcome State Fault Refusal :=
  perform (Instr.wellFormed (.enum init tkt r)) (ttCmd init tkt 1 r 0 0 (enumStart r)) s

/-- The responses name NODE 0 to N − 1 once each, with LAST only at N − 1 (R529). -/
def enumOk (fs : List (Nat × Nat × Nat)) : Bool :=
  !fs.isEmpty && (List.range fs.length).all fun n =>
    (fs.filter fun m => m.1 == n).length == 1 && fs.all fun m => m.1 != n || (m.2.2 == 1) == (n + 1 == fs.length)

/-- One millisecond after DISCOVER (R529). -/
def enumDone : Act := withS fun s => match s.tt.cmd with
  | some c =>
    if c.op != 1 then skip
    else if !(s.is (TT_RING_STAT_LINK c.ring)) then cmdEnd 1
    else if enumOk (s.ring c.ring).found then seq [setF (TT_RING_STAT_NODES c.ring) (s.ring c.ring).found.length, cmdEnd 0]
    else cmdEnd 2
  | none => skip

/-- READ starts with its first request (R530). [DEDUCED: log entry 122] -/
def readStart (r n a : Nat) : Act :=
  let c : TtCmd := ⟨2, r, n, a, 0, 1⟩
  seq [setF TT_CMD_STAT_BUSY 1, updTt (fun t => { t with cmd := some c }), sendIdent c]

/-- READ of node `node` on ring `r` (R530). [DEDUCED: log entry 122] -/
def execRead (init tkt r node axis : Nat) (s : State) : Host.Outcome State Fault Refusal :=
  perform (Instr.wellFormed (.read init tkt r node axis)) (ttCmd init tkt 2 r node axis (readStart r node axis)) s

/-- A request has had no matching response within 100 µs (R530). [DEDUCED: log entry 123] -/
def identTimeout : Act := withS fun s => match s.tt.cmd with
  | some c =>
    if c.op != 2 then skip
    else if 3 ≤ c.attempt then cmdEnd 3
    else seq [updTt (fun t => { t with cmd := some { c with attempt := c.attempt + 1 } }), sendIdent c]
  | none => skip

/-- 1 / v with `p` fractional bits, rounded to nearest even and saturated (R532), of a value with `pv`. -/
def recip (v : Int) (pv p : Nat) : QConv :=
  if v ≤ 0 then (2 ^ 31 - 1, true) else
  let m : Int := rne (2 ^ (pv + p)) v.toNat
  (satS 32 m, decide (satS 32 m ≠ m))

/-- The identity record's format is right and its reserved fields are 0 (Table 13-9). [DEDUCED: log entry 123] -/
def identFormat (b : List Byte) : Bool :=
  let zero (o n : Nat) : Bool := le b o n == 0
  le b 0 4 == 0x44495841 && le b 4 2 == 1 && le b 6 2 == 5376 && le b 25 1 < 4 && zero 27 1 && zero 70 58 && zero 5248 124

/-- Every field of the identity record is in its range (Table 13-9). -/
def identRange (b : List Byte) : Bool :=
  le b 24 1 < 2 && 1 ≤ le b 26 1 && le b 26 1 ≤ 8 && ([28, 32, 36, 40, 44, 48, 60].all fun o => decide (0 < nrQ b o))
    && decide (nrQ b 52 < nrQ b 56)

/-- KTG, INV_KTG, INV_J and INV_VSTEP of a record (R532). -/
def identDerived (b : List Byte) : List QConv :=
  let ktg := rescale 32 36 20 (nrQ b 32 * nrQ b 28)
  [ktg, recip ktg.1 20 24, recip (nrQ b 36) 20 16, recip (nrQ b 60) 20 16]

/-- The result of CONFIG's checks (R532): 0 OK, 4 CRC, 5 FORMAT, 6 RANGE. [DEDUCED: log entry 122] -/
def identResult (b : List Byte) : Nat :=
  if le b 5372 4 ≠ crc32c (b.take 5372) then 4
  else if !(identFormat b) then 5
  else if !(identRange b) || (identDerived b).any Prod.snd then 6 else 0

/-- The axis map of the configuration record. -/
def axisMaps (s : State) : List AxisMap := (s.boot.cfg.map (fun c => c.axes)).getD []

/-- The net record that the watch pair writes for axis `a` (R545, R654): from the axis map and the fields that CONFIG set. [DEDUCED: log entry 125] -/
def netRecordOf (s : State) (a : Nat) : List Byte :=
  let m := (axisMaps s).find? fun x => x.axis == a
  let w0 := match m with | some x => 2 ^ 31 + x.ring % 4 * 2 ^ 28 + x.node % 64 * 2 ^ 16 + x.nmiss % 256 | none => 0
  let gains := match m with | some x => [x.kpn, x.kvn, x.dec] ++ tab 6 (fun i => x.kimu.getD i 0) | none => tab 9 (fun _ => 0)
  ((w0 :: gains) ++ [s.get (TT_AXIS_CFG_KTG a), s.get (TT_AXIS_CFG_INV_KTG a), s.get (TT_AXIS_LIM_I_MAX a), s.get (TT_AXIS_LIM_TAU_MAX a),
    s.get (TT_AXIS_LIM_POS_MIN a), s.get (TT_AXIS_LIM_POS_MAX a)]).flatMap (leBytes 4)

/-- The watch pair writes axis `a`'s net record into island SRAM (R545). [DEDUCED: log entry 125] -/
def writeNetRecord (a : Nat) : Act := withS fun s =>
  let p := s.get EL_NET_TAB_ADDR + 64 * a
  match region p with
  | .islandSram o => whenA (bit (s.get EL_NET_STAT_PAIR_OK) 1 && o + 64 ≤ 0x400000)
      (seq [store (phys s p) (netRecordOf s a), armCheck])
  | _ => skip

/-- The axis takes the record's values (R532). [DEDUCED: log entry 118] -/
def applyIdent (a : Nat) (b : List Byte) : Act := withS fun s =>
  let d := identDerived b
  let g (i : Nat) : Nat := ofSigned 32 (d.getD i (0, false)).1
  let newCog := !(s.is (TT_AXIS_ST_COG_VALID a)) || s.get (TT_AXIS_LIM_SERIAL a) != le b 16 8
  seq [setF (TT_AXIS_CFG_KTG a) (g 0), setF (TT_AXIS_CFG_INV_KTG a) (g 1), setF (TT_AXIS_CFG_INV_J a) (g 2),
    setF (TT_AXIS_CFG_INV_VSTEP a) (g 3), setF (TT_AXIS_LIM_I_MAX a) (le b 40 4), setF (TT_AXIS_LIM_TAU_MAX a) (le b 44 4),
    setF (TT_AXIS_LIM_VEL_MAX a) (le b 48 4), setF (TT_AXIS_LIM_POS_MIN a) (le b 52 4), setF (TT_AXIS_LIM_POS_MAX a) (le b 56 4),
    updAxis a (fun x => { x with fric := tab 256 fun i => nrQ b (128 + 4 * i), first := true, afterReturn := false, ns := (le b 64 2, le b 66 2, le b 68 2) }),
    whenA newCog (seq [updAxis a (fun x => { x with cog := tab 1024 fun i => nrQ b (1152 + 4 * i) }),
      setF (TT_AXIS_LIM_SERIAL a) (le b 16 8), setF (TT_AXIS_ST_COG_VALID a) 1]),
    setF (TT_AXIS_ST_STATE a) 1, writeNetRecord a, cmdEnd 0]

/-- CONFIG of axis `a` (R532). A buffer that cannot be read gives FORMAT. -/
def configStart (a : Nat) (ecc : Ecc) : Act := withS fun s =>
  let p := s.get TT_IDENT_BUF_ADDR
  access initTT (ttTicket s) 0 ecc p 5376 (withS fun s =>
    let b := readRange s p 5376
    if identResult b = 0 then applyIdent a b else cmdEnd (identResult b)) (fun _ => cmdEnd 5)

/-- CONFIG of axis `axis` (R532). -/
def execConfig (init tkt axis ring node : Nat) (ecc : Ecc) (s : State) : Host.Outcome State Fault Refusal :=
  perform (Instr.wellFormed (.config init tkt axis ring node ecc)) (ttCmd init tkt 3 ring node axis (configStart axis ecc)) s

/-! ### Registers with effects (R510, R533) -/

/-- The table that TT_TAB_SEL selects, its size and the entry. -/
def tabSize (s : State) : Nat := if s.is TT_TAB_SEL_TABLE then 256 else 1024
/-- The table entry that TT_TAB_SEL names. [DEDUCED: log entry 219] -/
def tabEntry (s : State) : Int :=
  let x := s.axis (s.get TT_TAB_SEL_AXIS)
  (if s.is TT_TAB_SEL_TABLE then x.fric else x.cog).getD (s.get TT_TAB_SEL_INDEX % tabSize s) 0

/-- A table with entry `k` set. [DEDUCED: log entry 219] -/
def putEntry (t : List Int) (size k : Nat) (v : Int) : List Int := (t ++ List.replicate (size - t.length) 0).set k v

/-- A read or a write of TT_TAB_DATA by `init`; each advances INDEX, and a written entry of the cogging table is noted for R12. [DESIGN CHOICE: log entry 249] -/
def execTabDataAccess (init : Nat) (write : Bool) (data : Nat) (s : State) : Host.Outcome State Fault Refusal :=
  perform (Instr.wellFormed (.tabDataAccess init write data))
    (reaching init (ticketOf s init) (ofBool write) (pageAddr pageTT 0x1A8) 4 (withS fun s =>
      let k := s.get TT_TAB_SEL_INDEX % tabSize s
      let v := toSigned 32 data
      seq [if write then updAxis (s.get TT_TAB_SEL_AXIS) (fun x =>
            if s.is TT_TAB_SEL_TABLE then { x with fric := putEntry x.fric 256 k v } else { x with cog := putEntry x.cog 1024 k v, written := (s.grid.now, k :: (if x.written.1 = s.grid.now then x.written.2 else [])) })
          else respond init 0 (leBytes 4 (ofSigned 32 (tabEntry s))),
        setF TT_TAB_SEL_INDEX ((s.get TT_TAB_SEL_INDEX + 1) % 1024)])) s

/-- Bits `m` of FAULT of axis `a` are cleared; clearing the last starts R510. -/
def clearFault (a m : Nat) : Act := withS fun s =>
  let f := s.get (TT_AXIS_ST_FAULT a)
  let g := f - Nat.land f m
  seq [setF (TT_AXIS_ST_FAULT a) g,
    whenA (f != 0 && g == 0) (seq [updAxis a (fun x => { x with first := true, afterReturn := false }),
      setF (TT_AXIS_ST_STATE a) (if (s.axis a).on then 2 else 1)])]

/-- A write by `init` that clears every FAULT bit of axis `axis` (R510). -/
def execFaultClear (init axis : Nat) (s : State) : Host.Outcome State Fault Refusal :=
  perform (Instr.wellFormed (.faultClear init axis))
    (openWrite init (ticketOf s init) pageTT (0x5010 + 32 * axis) 8 (clearFault axis 31)) s

/-- The port of ring `ring` gains or loses its link (R533). -/
def execPortLinkChange (ring : Nat) (up : Bool) (s : State) : Host.Outcome State Fault Refusal :=
  perform (Instr.wellFormed (.portLinkChange ring up)) (setF (TT_RING_STAT_LINK ring) (ofBool up)) s

end Sys2Proof.Machine
end

