-- ==== Sys2Proof/Machine/Island.lean ====
section
/-! DEFINITION. The safety island: the doubt latch (R537 to R541), the safety net (R542 to R551), island faults and watchdogs
(R552 to R556), reintegration (R557 to R560), the carousel (R561 to R567) with the budget window that starts its steps
(R336), and the error log (R568 to R572). -/

namespace Sys2Proof.Machine

/-- Page of the island's registers. -/
def pageISL : Nat := 2

/-! ### The doubt latch -/

/-- Doubt wires assert; with those asserted before, they latch in one cycle (R537, R538). [DESIGN CHOICE: log entry 10] -/
def execDoubtWireAssert (wires : List (Nat × Nat)) (s : State) : Host.Outcome State Fault Refusal :=
  perform (Instr.wellFormed (.doubtWireAssert wires)) (seq [
    withS fun s => latchWires (s.isl.wires ++ wires),
    updIsl fun i => { i with wires := [] }]) s

/-- A write of 1 to EL_DOUBT_REQ.REQ latches SOFT (R539). [DEDUCED: log entry 128] -/
def execDoubtRequest (init : Nat) (s : State) : Host.Outcome State Fault Refusal :=
  perform (Instr.wellFormed (.doubtRequest init)) (openWrite init (ticketOf s init) pageEL 0x108 4 (latchWires [(14, 4)])) s

/-! ### Lockstep pairs (R552, R553, R555) -/

/-- Pair `p` is running. [DEDUCED: log entry 138] -/
def lockstepOk (s : State) (p : Nat) : Bool := bit (s.get EL_NET_STAT_PAIR_OK) p

/-- The pair that runs the net is running. -/
def netPairOk (s : State) : Bool := lockstepOk s (s.get EL_NET_STAT_NET_PAIR)

/-- The carousel and a reintegration stop. [DEDUCED: log entry 129] -/
def stopWatchWork : Act := withS fun s => seq [
  forA (s.isl.awaiting ++ s.isl.carousel.toList) (fun e => setF (EL_CAR_RUNNING e) 0),
  updIsl (fun i => { i with carousel := none, awaiting := [] }),
  whenA (s.isl.reint != 0) (reintEnd 2)]

/-- Pair `p` stops and latches ISLAND; the net passes to pair 1 when pair 0 stops (R552, R553, R555). [DEDUCED: log entry 129] -/
def stopPair (p : Nat) : Act := withS fun s =>
  if !(lockstepOk s p) then skip else
  seq [setF EL_NET_STAT_PAIR_OK (clearBit (s.get EL_NET_STAT_PAIR_OK) p), latchOwn 12,
    whenA (p == 0 && lockstepOk s 1) (seq [setF EL_NET_STAT_NET_PAIR 1,
      updIsl fun i => { i with netFrom := handoverPoint s.grid (s.get EL_NET_TIME_NET_OFS) s.grid.now }]),
    stopWatchWork,
    whenA (!(lockstepOk s (1 - p))) (updIsl fun i => { i with sto := false })]

/-- A lockstep comparator finds a mismatch in pair `pair` (R552, R553). [DEDUCED: log entry 138] -/
def execLockstepMismatch (pair : Nat) (s : State) : Host.Outcome State Fault Refusal :=
  perform (Instr.wellFormed (.lockstepMismatch pair)) (stopPair pair) s

/-- The NET watchdog expires, which it does only while pair 0 runs the net (Table 14-4). -/
def execNetWatchdogExpiry (s : State) : Host.Outcome State Fault Refusal :=
  perform (Instr.wellFormed .netWatchdogExpiry) (whenS (fun s => s.get EL_NET_STAT_NET_PAIR == 0) (stopPair 0)) s

/-- The WATCH watchdog expires (Table 14-4). -/
def execWatchWatchdogExpiry (s : State) : Host.Outcome State Fault Refusal :=
  perform (Instr.wellFormed .watchWatchdogExpiry) (stopPair 1) s

/-! ### Watchdogs (R556) -/

/-- A running ring with an axis boundary at the present point had no CMD frame for it: neither Tightrope nor the net sent one in the
cycle before. -/
def tightLate (s : State) : Bool := rings.any fun r => ringRuns s r
  && (ringAxes s r).any (fun a => (s.axis a).on && s.grid.point % axisDiv s a == 0)
  && (s.ring r).sentAt.map (· + pointCycles) != some s.grid.pointAt

/-- Watchdog `w` of Table 14-4 (0 GRID, 1 TIGHT, 2 HOST) can expire now. HOST counts from the last kick. [DESIGN CHOICE: log entry 19] [DEDUCED: log entry 134] -/
def mayExpire (s : State) (w : Nat) : Bool :=
  if w = 0 then s.planOn
  else if w = 1 then !(s.is TT_STATUS_OWNER_ISL) && tightLate s
  else s.is EL_WDOG_CFG_HOST_EN && s.isl.hostAt + 1100000 * max 1 (s.get EL_WDOG_CFG_HOST_TO) ≤ s.grid.now

/-- The GRID, TIGHT or HOST watchdog expires. [DEDUCED: log entry 134] -/
def execWatchdogExpiry (which : Nat) (s : State) : Host.Outcome State Fault Refusal :=
  perform (Instr.wellFormed (.watchdogExpiry which)) (whenS (fun s => mayExpire s which) (latchOwn 11)) s

/-- EL_HOST_KICK restarts the HOST watchdog. -/
def execHostKick (init : Nat) (s : State) : Host.Outcome State Fault Refusal :=
  perform (Instr.wellFormed (.hostKick init)) (openWrite init (ticketOf s init) pageEL 0x118 4
    (withS fun s => updIsl fun i => { i with hostAt := s.grid.now })) s

/-! ### Arming the net (R551) -/

/-- A write of ARM 1. -/
def execNetArm (init : Nat) (s : State) : Host.Outcome State Fault Refusal :=
  perform (Instr.wellFormed (.netArm init)) (islandWrite init (ticketOf s init) pageISL 0x120 (2 ^ 63)
    (seq [setF EL_NET_CFG_ARM 1, armCheck])) s

/-! ### The safety net (R545 to R550) -/

/-- MODE as it acts (Table 14-10). -/
def netMode (s : State) : Nat := s.get EL_NET_CFG_MODE % 3

/-- The IMU sample is stale: IMU_EN is 0, or it is more than 8 grid points old (R546). -/
def imuStale (s : State) : Bool := !(s.is EL_NET_CFG_IMU_EN) || (match s.isl.imuAt with
  | some p => s.grid.pointAt > p + 8 * pointCycles
  | none => true)

/-- IMU channel `c` at p 20; an entry of a reserved TYPE, or one that reaches past the sample, gives a free value (R546). [DESIGN CHOICE: log entry 132] -/
def imuChannel (s : State) (c : Nat) : Int × Bool :=
  let e := ofLe (s.mem.bytes (phys s (s.get EL_NET_TAB_ADDR + 8192 + 8 * c)) 8)
  let w := if field e 17 16 = 0 then 2 else 4
  if imuStale s then (0, false)
  else if 2 ≤ field e 17 16 ∨ s.isl.imu.length < field e 15 0 + w then (toSigned 32 (Config.freeWord (s.fresh + c)).toNat, false)
  else rescale 32 16 20 (toSigned (8 * w) (le s.isl.imu (field e 15 0) w) * toSigned 32 (field e 63 32))

/-- θ and ω of axis `a` for the net: the feedback mirror's entry, or Tightrope's last accepted sample where no mirror is set;
free before any sample has been accepted (R547, R548). [DEDUCED: log entry 133] -/
def netSample (s : State) (a : Nat) : Int × Int :=
  if !(s.axis a).seen then (toSigned 32 (Config.freeWord (s.fresh + 6 + 2 * a)).toNat, toSigned 32 (Config.freeWord (s.fresh + 7 + 2 * a)).toNat)
  else match mirrorAt s a with
    | some m => (nrQ (s.mem.bytes m 12) 0, nrQ (s.mem.bytes m 12) 8)
    | none => ((s.axis a).lastTh, (s.axis a).lastW)

/-- What the net computes for an axis at one point: its state, I_CMD, TAU_CMD, POS_REF, and whether a conversion saturated (R111). -/
structure NetOut where
  st : NetAxis
  i : Int
  tau : Int
  pr : Int
  sat : Bool
  deriving DecidableEq, Repr

/-- The procedure of R547 for an axis with net record `r`. [DEDUCED: log entry 133] -/
def netLaw (r : List Byte) (mode : Nat) (x : NetAxis) (th w iLast : Int) (imu : List Int) : NetOut :=
  let q (o : Nat) : Int := nrQ r o
  let pr0 := if x.first then th else x.pr
  let vr0 := if x.first then (if mode = 0 then 0 else w) else x.vr
  let tgc : QConv := if x.first then rescale 32 40 16 (iLast * q 40) else (x.tg, false)
  let tg := tgc.1
  let dec := q 12 * ttTG
  let vrc : QConv := if mode = 0 then (vr0, false) else if 0 < vr0 then rescale 32 47 20 (vr0 * 2 ^ 27 - dec) else rescale 32 47 20 (vr0 * 2 ^ 27 + dec)
  let vr := if mode = 0 then vr0 else if 0 < vr0 then max vrc.1 0 else min vrc.1 0
  let prc := rescale 32 51 24 (pr0 * 2 ^ 27 + vr * ttTG)
  let pr := clampI (q 56) (q 60) prc.1
  let tau0 := rescale 32 36 16 (tg * 2 ^ 20 + q 4 * (pr - th) + q 8 * (vr - w))
  let tau1 : QConv := (List.range 6).foldl (fun t c =>
    let k := rescale 32 36 16 (t.1 * 2 ^ 20 + q (16 + 4 * c) * imu.getD c 0)
    (k.1, t.2 || k.2)) tau0
  let bump : QConv := if x.first then rescale 32 16 16 (tg - tau1.1) else (x.tauBump, false)
  let tauC : QConv := if x.first then (tg, false) else rescale 32 16 16 (tau1.1 + bump.1)
  let tau2 := clampI (-(q 52)) (q 52) tauC.1
  let iC : QConv := if x.first then (iLast, false) else rescale 32 40 20 (tau2 * q 44)
  let i := if x.first then iLast else clampI (-(q 48)) (q 48) iC.1
  ⟨{ x with pr := pr, vr := vr, tg := tg, tauBump := bump.1 - bump.1 / 64, first := false }, i, if x.first then tg else tau2, pr,
    [tgc, vrc, prc, tau1, bump, tauC, iC].any Prod.snd⟩

/-- Axis `a` of the net. -/
def netAxis (s : State) (a : Nat) : NetAxis := (mget s.isl.axes a).getD ⟨0, 0, 0, 0, true, 0, false, 0⟩

/-- The net's axes whose ring runs: those that it commands. [DEDUCED: log entry 130] -/
def commanded (s : State) : List Nat := (netAxes s).filter fun a => ringRuns s (nrRing (netRec s a))

/-- Samples of the present point for the net: missing ones count, accepted ones return the count to 0; and how long the axis has
been still (R548, R549). [DEDUCED: log entry 131] -/
def netObserve (a : Nat) : Act := withS fun s =>
  let x := s.axis a
  let n := netAxis s a
  let misses := if x.missed then n.misses + 1 else if x.got then 0 else n.misses
  let w := (netSample s a).2
  updIsl fun i => { i with axes := mset i.axes a { n with misses := misses, dead := n.dead || (x.missed && nrMiss (netRec s a) ≤ misses), still := if (w.natAbs : Int) ≤ toSigned 32 (s.get EL_NET_VZ_VZ) then n.still + 1 else 0 } }

/-- A STOP1 ends now (R549). [DEDUCED: log entry 131] -/
def stop1Ends (s : State) : Bool :=
  netMode s == 2 && s.is EL_NET_STAT_OWNER && !s.isl.stopDone
    && ((commanded s).all (fun a => 8 ≤ (netAxis s a).still)
      || s.isl.handoverPoint + s.get EL_NET_TIME_T1_MAX * pointCycles ≤ s.grid.pointAt)

/-- The update of axis `a`, whose entry leaves for the next point when `sends` (R547 to R549, R554). -/
def netUpdateAxis (imu : List Int) (sends : Bool) (a : Nat) : Act := withS fun s =>
  let r := netRec s a
  let sm := netSample s a
  let o := netLaw r (netMode s) (netAxis s a) sm.1 sm.2 (toSigned 32 (s.get (TT_AXIS_ST_I_LAST a))) imu
  seq [updIsl (fun i => { i with axes := mset i.axes a o.st, ovf := i.ovf || o.sat }),
    whenA sends (updAxis a (fun x => { x with sent := some (o.i, true) }))]

/-- The entry of axis `a`. [DEDUCED: log entry 127] -/
def netEntry (s : State) (imu : List Int) (a : Nat) : List Byte :=
  let r := netRec s a
  let sm := netSample s a
  let x := netAxis s a
  let o := netLaw r (netMode s) x sm.1 sm.2 (toSigned 32 (s.get (TT_AXIS_ST_I_LAST a))) imu
  let on := !(x.dead || s.isl.stopDone || s.isl.netDead.contains a)
  cmdEntry (nrNode r) on on o.i o.tau o.pr

/-- The commanded axes of ring `r` in ascending NODE. [DEDUCED: log entry 130] -/
def netRingAxes (s : State) (r : Nat) : List Nat :=
  (List.range 64).flatMap fun n => (commanded s).filter fun a => nrRing (netRec s a) == r && nrNode (netRec s a) == n

/-- The net's frame on running ring `r`, when its gate lets it go, and its updates of the ring's axes (R543). [DEDUCED: log entry 130] -/
def netRing (imu : List Int) (r : Nat) : Act := withS fun s =>
  let as := netRingAxes s r
  let sends := cmdPasses s r as.length
  seq [whenA sends (seq [send 4 r (cmdFrame s r true (as.map (netEntry s imu))), updRing r fun x => { x with sentAt := some s.grid.pointAt }]),
    forA as (netUpdateAxis imu sends)]

/-- The net's update of the cycle of the present point is due: it holds the rings, or takes them at the next point (R542, R543,
R547, R552). [DESIGN CHOICE: log entry 19] -/
def netDue (s : State) : Bool :=
  s.grid.running && netPairOk s && s.grid.pointAt + s.get EL_NET_TIME_NET_OFS ≤ s.grid.now && s.isl.netAt != some s.grid.pointAt
    && (s.is EL_NET_STAT_OWNER || s.isl.handoverAt == some (s.grid.pointAt + pointCycles))
    && s.isl.netFrom ≤ s.grid.pointAt + pointCycles

/-- The net pair's update (R543, R544, R547 to R549). -/
def execNetUpdate (s : State) : Host.Outcome State Fault Refusal :=
  perform (Instr.wellFormed .netUpdate) (whenA (netDue s) (seq [
    updIsl (fun i => { i with netAt := some s.grid.pointAt }),
    setF EL_NET_STAT_IMU_STALE (ofBool (imuStale s)),
    whenA (s.grid.pointAt + s.get TT_TIMING_FB_DL ≤ s.grid.now) (forA axes missSample),
    withS fun s =>
      let conv := tab 6 (imuChannel s)
      let imu := conv.map Prod.fst
      if !(s.is EL_NET_STAT_ARMED) then updIsl fun i => { i with sto := i.sto && !(s.is EL_NET_STAT_OWNER) }
      else seq [updIsl (fun i => { i with ovf := i.ovf || conv.any Prod.snd }), forA (commanded s) netObserve,
        whenS stop1Ends (seq [setF EL_NET_STAT_STOPPED 1, updIsl fun i => { i with stopDone := true, sto := false }]),
        forA (rings.filter (ringRuns s)) (netRing imu),
        fun _ => List.replicate 262 .bump]])) s

/-! ### Reintegration (R557 to R560) -/

/-- Ring and completion area of the golden pass's queue of unit `u`, in island SRAM (log entry 20). [DESIGN CHOICE: log entry 20] -/
def passRing (u : Nat) : Nat := 0xE40C3F0000 + 128 * u
/-- The completion ring of that queue. [DESIGN CHOICE: log entry 20] -/
def passComp (u : Nat) : Nat := 0xE40C3F8000 + 32 * u

/-- The queue of unit `u`'s golden pass, as the island configures it (R558). [DESIGN CHOICE: log entry 20] -/
def passQueue (u : Nat) : Queue :=
  { Queue.reset with enable := true, qlock := true, ringBase := passRing u, compBase := passComp u, client := 1023, ticket := 0, unit := u, owner := 0x091 }

/-- The island configures the golden pass's queues (R558). -/
def setupPass : Act := seq [setF (RM_CLIENT_SHARE_SHARE 1023) 65535,
  forA (List.range 40) fun u => withS fun s =>
    if (s.queue (65496 + u)).enable then skip else updQueue (65496 + u) fun _ => passQueue u]

/-- The units of a full golden pass (R558). -/
def passUnits (s : State) : List Nat := (List.range 40).filter fun u =>
  if u < 36 then (serving s u).isSome else !(s.eng.failedKv.contains (u - 36))

/-- The descriptor of unit `u`'s pass: STEP_MASK 0xF_FFFF. -/
def passDesc (u : Nat) : List Byte := leBytes 8 ((if u < 36 then 0x44 else 0x64) + 0xFFFFF * 2 ^ 12) ++ leBytes 48 0 ++ leBytes 8 u

/-- The island posts unit `u`'s descriptor. [DESIGN CHOICE: log entry 20] -/
def postPass (u : Nat) : Act := withS fun s =>
  let q := 65496 + u
  let x := s.queue q
  seq [store (phys s (passRing u + 64 * (x.tail % 2))) (passDesc u),
    updQueue q fun x => { x with tail := next32 x.tail, chead := x.ctail }]

/-- Carousel entry `e` names a comparator whose unit can be tested: an engine that is active or in standby, a KV unit that has
not failed; every other entry can always be tested. -/
def carUsable (s : State) (e : Nat) : Bool :=
  if 55 ≤ e && e < 91 then
    let st := s.get (TE_STATUS_STATE (e - 55))
    (st == 1 || st == 2) && !(s.eng.failedEng.contains (e - 55))
  else if 98 ≤ e then !(s.eng.failedKv.contains (e - 98))
  else true

/-- The active engines of die `d`. [DEDUCED: log entry 135] -/
def activeOn (s : State) (d : Nat) : Nat := ((List.range 9).filter fun k => s.get (TE_STATUS_STATE (9 * d + k)) == 1).length

/-- The carousel's entries. [DEDUCED: log entry 135] -/
def carEntries : List Nat := List.range 102

/-- CONDITION of Table 14-5. [DEDUCED: log entry 135] -/
def reintCondition (s : State) : Bool :=
  powerWithin s
    && (List.range 4).all (fun d => match s.plan.inForce with
      | some p => field p.actMin (4 * d + 3) (4 * d) ≤ activeOn s d
      | none => true)
    && axes.all (fun a => !(s.is (TT_AXIS_CFG_EN a)) || s.get (TT_AXIS_ST_FAULT a) == 0)
    && lockstepOk s 0 && lockstepOk s 1
    && carEntries.all (fun e => !(s.is (EL_CAR_FAIL e)) && (!(s.is (EL_CAR_EN e)) || !(carUsable s e) || s.isl.latchedAt < s.get (EL_CAR_LAST_PASS e)))

/-- A reintegration starts: its checks up to the golden pass, which it posts (R557, R558). -/
def reintStart : Act := withS fun s =>
  if !(reintCondition s) then reintEnd 3
  else if !(s.is EL_NET_STAT_ARMED && s.planOn) then reintEnd 4
  else
    let us := passUnits s
    seq [setF EL_REINT_BUSY 1,
      updIsl (fun i => { i with reint := if us.isEmpty then 2 else 1, reintWait := us, reintBits := 0 }),
      setupPass, forA us postPass, refreshReady]

/-- A write of 1 to EL_REINT.REQ (R557). -/
def execReintRequest (init : Nat) (s : State) : Host.Outcome State Fault Refusal :=
  perform (Instr.wellFormed (.reintRequest init)) (openWrite init (ticketOf s init) pageEL 0x110 4 (withS fun s =>
    if s.isl.reint != 0 then seq [setF EL_REINT_RESULT 2, raiseInt pageEL 4]
    else if !s.doubted then reintEnd 1
    else if !(lockstepOk s 1) then reintEnd 2
    else reintStart)) s

/-- The golden pass has not completed within 2 ms (Table 14-5). -/
def execReintGoldenTimeout (s : State) : Host.Outcome State Fault Refusal :=
  perform (Instr.wellFormed .reintGoldenTimeout) (whenS (fun s => s.isl.reint == 1) (reintEnd 5)) s

/-! ### The carousel (R561 to R567) -/

/-- Entry `e` is a golden comparator test (Table 14-6). [DEDUCED: log entry 135] -/
def isComparator (e : Nat) : Bool := (55 ≤ e && e < 91) || 98 ≤ e

/-- The longest time of entry `e`'s test in ns; of a comparator test, the control frame in which its result comes. [DEDUCED: log entry 136] -/
def carWcet (e : Nat) : Nat :=
  if e < 4 then 2000 else if e < 13 then 1000 else if e < 15 then 500 else if e < 55 then 1000
  else if isComparator e then 500000 else 500

/-- Where a test takes place (Table 14-6): a die, 4 for hub memory, 5 for the island. -/
def carDomain (e : Nat) : Nat :=
  if e < 4 then e else if e < 8 then e - 4 else if e = 8 then 4 else if e = 9 then 5 else if e < 13 then 4
  else if e < 15 then 5 else if e < 19 then 4 else if e < 23 then e - 19 else if e < 27 then e - 23 else if e < 30 then 4
  else if e < 55 then (portPage (ports.getD (e - 30) 0)).1
  else 5

/-- The turnstile ports that a step of entry `e` concerns (R565). -/
def carPorts (e : Nat) : List Nat :=
  if 19 ≤ e && e < 23 then [e - 19] else if e = 27 then [32] else if 30 ≤ e && e < 55 then [ports.getD (e - 30) 0] else []

/-- Unit `u` belongs to a domain. -/
def inDomain (dom u : Nat) : Bool := if dom < 4 then u < 104 && unitDie u == dom else dom == 4 && 104 ≤ u

/-- The windows of a domain's slots in the next frame, as far as this frame shows them, in grid cycles from this frame's boundary (R563). -/
def windowsAhead (s : State) (dom : Nat) : List (Nat × Nat) :=
  let b := s.inFrame + toBoundary s
  (nextSlots s).flatMap fun t =>
    (if t.typ ≤ 1 && inDomain dom t.unit then [(b + t.start, b + t.start + t.len)] else [])
      ++ (if onBackupAhead s t && inDomain dom t.bUnit then [(b + t.bStart, b + t.bStart + t.len)] else [])

/-- The windows of a domain in this frame and the next, in grid cycles from this frame's boundary (R563). -/
def carWindows (s : State) (dom : Nat) : List (Nat × Nat) :=
  let slots := s.planSlots.flatMap fun t =>
    (if t.typ ≤ 1 && slotOn s t && inDomain dom t.unit then [(t.start, t.start + t.len)] else [])
      ++ (if (s.slotRun t.id).backup && inDomain dom t.bUnit then [(t.bStart, t.bStart + t.len)] else [])
  let fb := s.get TT_TIMING_FB_DL
  let ofs := s.get TT_TIMING_CALC_OFS
  let spans := if dom = 4 ∧ s.get TT_STATUS_RUNNING ≠ 0 then (List.range 8).flatMap fun i =>
      [(i * pointCycles, i * pointCycles + fb), (i * pointCycles + ofs, i * pointCycles + ofs + 1100)] else []
  slots ++ windowsAhead s dom ++ spans

/-- The frame index of the next golden step of a comparator entry's unit (R164, R566). [DEDUCED: log entry 137] -/
def nextGolden (s : State) (e : Nat) : Nat :=
  let u := if 98 ≤ e then 36 + (e - 98)
    else
      let g := e - 55
      if s.get (TE_STATUS_STATE g) == 1 then 9 * (g / 9) + s.get (TE_STATUS_SERVES g) else 9 * (g / 9)
  match safeSlot s u with
  | some t => if s.inFrame < t.start + t.wcet then s.frameIdx else (s.frameIdx + 1) % 20
  | none => (s.frameIdx + 1) % 20

/-- fits(e, now) (R563, R566). [DEDUCED: log entry 136] -/
def carFits (s : State) (e : Nat) : Bool :=
  if isComparator e then match mget s.isl.testStep e with
    | some k => nextGolden s e == (k + 1) % 20
    | none => true
  else
    let t := s.inFrame
    let w := ceilDiv (11 * carWcet e) 10
    (carWindows s (carDomain e)).all fun x => !(x.1 ≤ t && t < x.2) && (x.1 ≤ t || t + w ≤ x.1 || x.2 ≤ x.1)

/-- due(e) in ns of device time (R562). [DEDUCED: log entry 137] -/
def carDueAt (s : State) (e : Nat) : Nat := s.get (EL_CAR_LAST_PASS e) + 1000000 * max 1 (s.get (EL_CAR_DTI_MS e))

/-- An entry put into a list in ascending due(e), ties by number. -/
def insertDue (d : Nat → Nat) (e : Nat) : List Nat → List Nat
  | [] => [e]
  | x :: r => if d e < d x ∨ (d e = d x ∧ e < x) then e :: x :: r else x :: insertDue d e r

/-- The entries to try, in the order of R562. -/
def carOrder (s : State) : List Nat :=
  (carEntries.filter fun e => s.is (EL_CAR_EN e) && !(s.isl.awaiting.contains e) && carUsable s e).foldr (insertDue (carDueAt s)) []

/-- A step of entry `e` starts; a comparator test asks for SIG_TEST (Table 14-6, R170, R265). -/
def carStart (e : Nat) : Act := seq [setF (EL_CAR_RUNNING e) 1,
  if isComparator e then seq [updIsl (fun i => { i with awaiting := i.awaiting ++ [e] }),
      if 98 ≤ e then updEng fun x => { x with kvSigTest := (e - 98) :: x.kvSigTest.filter (fun y => y != e - 98) }
      else updEng fun x => { x with sigTest := (e - 55) :: x.sigTest.filter (fun y => y != e - 55) }]
  else seq [updIsl (fun i => { i with carousel := some e }), updTs fun t => { t with exempt := t.exempt ++ carPorts e }]]

/-- The choice of R562 among the entries in order. -/
def carChoose : List Nat → Act
  | [] => skip
  | e :: r => withS fun s =>
    if carFits s e then carStart e
    else seq [countF (EL_CAR_POSTPONES e) 1,
      whenA (decide (carDueAt s e < s.timestamp + 10000 + carWcet e)) (latchOwn 10), carChoose r]

/-- The watch pair chooses a step at the start of a budget window (R553, R562). -/
def carWindow : Act := withS fun s =>
  if !(lockstepOk s 1 && lockstepOk s 0) || s.isl.carousel.isSome then skip else carChoose (carOrder s)

/-- The carousel step of entry `e` ends with every verdict as expected, or not (R564). -/
def execCarouselStepDone (e : Nat) (ok : Bool) (s : State) : Host.Outcome State Fault Refusal :=
  perform (Instr.wellFormed (.carouselStepDone e ok)) (whenA (s.isl.carousel == some e) (seq [
    updIsl (fun i => { i with carousel := none }), setF (EL_CAR_RUNNING e) 0,
    if ok then setF (EL_CAR_LAST_PASS e) s.timestamp else seq [setF (EL_CAR_FAIL e) 1, latchOwn 10]])) s

/-- A budget window ends at every port and the next one starts (R336, R343, R562, R565, R610). -/
def execBudgetWindow (s : State) : Host.Outcome State Fault Refusal :=
  perform (Instr.wellFormed .budgetWindow) (whenA (windowDue s.grid s.grid.windowAt 11000) (seq [
    forA ports closeWindow,
    updTs (fun t => { t with classB := [], exempt := (s.isl.carousel.map carPorts).getD [] }),
    updGrid (fun g => { g with windowAt := nextWindow g g.windowAt 11000, window := g.window + 1 }),
    withS fun s => updPw fun p => { p with caps := windowCaps s },
    carWindow])) s

/-! ### The error log (R568 to R572) -/

/-- The 32 bytes of a record (Table 18-11). -/
def logRecord (r : Report) : List Byte :=
  leBytes 8 r.time
    ++ leBytes 8 (r.cls % 16 * 2 ^ 60 + r.origin % 8 * 2 ^ 57 + ofBool r.addrValid * 2 ^ 56 + ofBool r.doubt * 2 ^ 55 + r.init % 4096 * 2 ^ 40
      + r.ticket % 64 * 2 ^ 32 + r.code % 65536 * 2 ^ 16 + r.page % 256 * 256 + r.unit % 256)
    ++ leBytes 8 (r.addr % 2 ^ 48) ++ leBytes 8 r.detail

/-- The ingress queue that the log writer serves next (R569). -/
def nextLogQueue (l : LogSt) : Option Nat :=
  ((List.range 5).map fun i => (l.last + 1 + i) % 5).find? fun q => !(l.queues.getD q []).isEmpty

/-- The log writer takes one report and writes its record (R569). -/
def execLogWrite (s : State) : Host.Outcome State Fault Refusal :=
  perform (Instr.wellFormed .logWrite) (withS fun s =>
    let h := s.get EL_LOG_HEAD_HEAD
    if 4096 ≤ (h + 2 ^ 32 - s.get EL_LOG_TAIL_TAIL) % 2 ^ 32 then skip
    else match nextLogQueue s.log with
      | none => skip
      | some q => match s.log.queues.getD q [] with
        | [] => skip
        | r :: rs =>
          let a := 0xE408000000 + 32 * (h % 4096)
          let c := checkRange s 0x0A3 (s.get FW_HK_TKT_LOG_TKT) 1 ⟨[], []⟩ a 32
          seq [updLog (fun l => { l with queues := l.queues.set q rs, last := q }),
            if c.1 = 0 then seq [charge 0x0A3 (s.get FW_HK_TKT_LOG_TKT) true a 32, writeRange a (logRecord r)] else accessFailed 0x0A3 (s.get FW_HK_TKT_LOG_TKT) 1 c,
            setF EL_LOG_HEAD_HEAD (h + 1), raiseInt pageEL 1]) s

/-- Software writes TAIL (R570). -/
def execLogTailWrite (init tkt value : Nat) (s : State) : Host.Outcome State Fault Refusal :=
  perform (Instr.wellFormed (.logTailWrite init tkt value)) (openWrite init tkt pageEL 0x124 4 (withS fun s =>
    if 4096 < (s.get EL_LOG_HEAD_HEAD + 2 ^ 32 - value) % 2 ^ 32 then errWindow pageEL 4 init tkt 0x124 value true
    else setF EL_LOG_TAIL_TAIL value)) s

end Sys2Proof.Machine
end

