-- ==== Sys2Proof/Machine/Plans.lean ====
section
/-! DEFINITION. Staging, activating, stopping and discarding a frame plan (R284 to R290). -/

namespace Sys2Proof.Machine

/-- A command is accepted: LAST 1, REJ_REASON 0 (Table 7-11). [DEDUCED: log entry 54] -/
def planAccepted : Act := seq [setF RM_PLAN_STAT_LAST 1, setF RM_PLAN_STAT_REJ_REASON 0]

/-- The result of a plan command: LAST, REJ_REASON and PLAN_EV (R285, Table 7-10). [DEDUCED: log entry 54] -/
def planResult (last code : Nat) : Act := seq [setF RM_PLAN_STAT_LAST last, setF RM_PLAN_STAT_REJ_REASON code, raiseInt pageRM 0]

/-- A command is refused with a code of Table 7-7. -/
def planRefused (code : Nat) : Act := seq [planResult 2 code, reportNow 13 4 0x240 pageRM 0xFF 0xFFF 0 false none code]

/-- A STAGE reads its image, or a switch or a stop is pending (R284). -/
def planBusy (s : State) : Bool := s.plan.reading.isSome || s.plan.next.isSome || s.plan.stopping

/-- A write of command `cmd` to RM_PLAN_CMD: from the island alone; ignored with LAST 3 while busy (R284). [DEDUCED: log entry 53] -/
def planCommand (init tkt cmd : Nat) (act : Act) : Act := islandWrite init tkt pageRM 0x108 cmd (withS fun s =>
  if planBusy s then seq [setF RM_PLAN_STAT_LAST 3, raiseInt pageRM 0] else act)

/-- Empty the staging store. -/
def unstage : Act := seq [updPlan (fun p => { p with staged := none }), setF RM_STATUS_STAGED 0]

/-- STAGE empties the staging store and starts to read the image (R284). -/
def stageStart : Act := seq [unstage, withS fun s =>
  if s.get RM_PLAN_ADDR_ADDR % 64 != 0 then planRefused 12 else updPlan fun p => { p with reading := some (s.get RM_PLAN_ADDR_ADDR) }]

/-- STAGE. -/
def execStage (init tkt : Nat) (s : State) : Host.Outcome State Fault Refusal :=
  perform (Instr.wellFormed (.stage init tkt)) (planCommand init tkt 1 stageStart) s

/-- The read of a STAGE's image at `a` ends and the checks marked S are made (R285). The image is read under Ringmaster's own initiator
and ticket; IMAGE_BYTES outside 128 B to 1 MiB leaves the header alone to judge. -/
def stageRead (a : Nat) (ecc : Ecc) : Act := withS fun s =>
  let tkt := s.get FW_HK_TKT_PLAN_TKT
  let r0 := checkRange s 0x0A0 tkt 0 ecc a 128
  let n := planBytes (readRange s a 128)
  let n := if 128 ≤ n ∧ n ≤ 0x100000 then n else 128
  let r := if r0.1 != 0 then r0 else checkRange s 0x0A0 tkt 0 ecc a n
  if r.1 != 0 then seq [accessFailed 0x0A0 tkt 0 r, planRefused 12]
  else
    let bs := readRange s a n
    seq [noteCorr 0x0A0 tkt ecc a n, charge 0x0A0 tkt false a n,
      if stageCode bs != 0 then planRefused (stageCode bs)
      else seq [updPlan (fun p => { p with staged := some (planOf bs) }), setF RM_STATUS_STAGED 1, planResult 1 0]]

/-- The plan pins context `c` (R288). [DEDUCED: log entry 196] -/
def pinForPlan (c : Nat) : Act := withS fun s => withCtx (s.get FW_HK_TKT_PLAN_TKT) c (updHot fun h => match mget h.entries c with
  | some e => { h with entries := mset h.entries c { e with pinPlan := true } }
  | none => h) (fun _ => skip)

/-- Grid cycles from acceptance to the first boundary of the new plan, at least (R286, R287). -/
def switchDelay (s : State) : Nat := if s.planOn then 55000 else 550000

/-- ACTIVATE checks the staged plan, pins its contexts and schedules its takeover (R285 to R288). -/
def activatePlan : Act := withS fun s => match s.plan.staged with
  | none => planRefused 14
  | some p =>
    if activateCode s p != 0 then planRefused (activateCode s p)
    else seq [unstage, updPlan (fun x => { x with next := some (p, s.grid.now + switchDelay s) }), setF RM_STATUS_PLAN 2,
      forA p.pins pinForPlan, planResult 1 0]

/-- ACTIVATE. -/
def execActivate (init tkt : Nat) (s : State) : Host.Outcome State Fault Refusal :=
  perform (Instr.wellFormed (.activate init tkt)) (planCommand init tkt 2 activatePlan) s

/-- STOP is refused while a ring runs; else the plan ends at the next boundary of frame index 0 (R289, R290). With no plan
in force it is accepted and has nothing to end. [DEDUCED: log entries 53, 54] -/
def execStop (init tkt : Nat) (s : State) : Host.Outcome State Fault Refusal :=
  perform (Instr.wellFormed (.stop init tkt)) (planCommand init tkt 3 (withS fun s =>
    if s.someRun then planRefused 13
    else seq [whenA s.planOn (seq [updPlan (fun p => { p with stopping := true }), setF RM_STATUS_PLAN 3]), planAccepted])) s

/-- DISCARD empties the staging store (R284). [DEDUCED: log entry 54] -/
def execDiscard (init tkt : Nat) (s : State) : Host.Outcome State Fault Refusal :=
  perform (Instr.wellFormed (.discard init tkt)) (planCommand init tkt 4 (seq [unstage, planAccepted])) s

end Sys2Proof.Machine
end

