-- ==== Sys2Proof/Machine/Wear.lean ====
section
/-! DEFINITION. Links of Big Top, refresh, patrol scrub, row moves and the record of wear (R55, R59, R62, R63, R86 to R92,
R176, R639). -/

namespace Sys2Proof.Machine

/-- The far end of link `l` of die `d`: the other die and its local index; none for the hub link (Table 2-14). -/
def farEnd (d l : Nat) : Option (Nat × Nat) :=
  if l = 3 then none
  else
    let e := if l < d then l else l + 1
    some (e, linkIndex e d)

/-- Page number of BT_ of die `d`. -/
def pageBT (d : Nat) : Nat := 16 + 16 * d

/-- The ports at which data enters link `l` of die `d`, one in each direction (Table 8-4). -/
def portsOfLink (d l : Nat) : List Nat := match farEnd d l with
  | some e => linkPort (some d) (some (if l < d then l else l + 1)) ++ linkPort (some e.1) (some d)
  | none => linkPort (some d) none ++ linkPort none (some d)

/-- The requests that wait for a link fail with it, and count in neither demand nor admitted bytes (R63, R343). -/
def dropWaiting (d l : Nat) : Act := updTs fun t =>
  { t with entries := t.entries.map fun q => if (portsOfLink d l).contains (q.1 / 64) then (q.1, { q.2 with waiting := [], demand := q.2.demand - q.2.waiting.foldl (fun a w => a + w.bytes) 0 }) else q }

/-- A link goes down at both ends, and the requests that wait for it fail (R63). -/
def downLink (d l replays : Nat) : Act := withS fun s =>
  if s.is (BT_LINK_STAT_DOWN d l) then skip else
  seq [setF (BT_LINK_STAT_DOWN d l) 1,
    match farEnd d l with
      | some e => setF (BT_LINK_STAT_DOWN e.1 e.2) 1
      | none => skip,
    dropWaiting d l,
    reportNow 7 d 0x161 (pageBT d) 0xFF 0xFFF 0 false none (l + replays * 65536)]

/-- The number under which a link counts its replays: both ends of a pair link share one. -/
def linkKey (d l : Nat) : Nat := match farEnd d l with
  | some e => min (4 * d + l) (4 * e.1 + e.2)
  | none => 4 * d + l

/-- A link detects a CRC error and replays; more than 32 replays in one 10 µs window take it down (R62, R63). The windows are
those of 11,000 grid cycles from PORST_N on. [DESIGN CHOICE: log entry 231] -/
def execLinkReplay (d l : Nat) (s : State) : Host.Outcome State Fault Refusal :=
  perform (Instr.wellFormed (.linkReplay d l)) (withS fun s =>
    let w := s.grid.now / 11000
    let n := rowCount s.wear.linkReplays (linkKey d l) w
    if s.is (BT_LINK_STAT_DOWN d l) then skip else
    seq [countF (BT_LINK_STAT_REPLAYS d l) 1,
      updWear (fun x => { x with linkReplays := mset x.linkReplays (linkKey d l) (w, n) }),
      reportNow 7 d 0x160 (pageBT d) 0xFF 0xFFF 0 false none (l + n * 65536),
      whenA (32 < n) (downLink d l n)]) s

/-- A link loses lock and goes down (R63). -/
def execLinkDown (d l : Nat) (s : State) : Host.Outcome State Fault Refusal :=
  perform (Instr.wellFormed (.linkDown d l)) (downLink d l 0) s

/-- A per-bank refresh of a stack keeps its contents; nothing that software can see changes (R55). [DEDUCED: log entry 59] -/
def execRefresh (stack : Nat) (s : State) : Host.Outcome State Fault Refusal :=
  perform (Instr.wellFormed (.refresh stack)) skip s

/-- A scrub reads this block: a usable block of a stack, or a word of a die's SRAM, where SCRUB_EN of the die is 1; or a word of
the hub's SRAM (R59, R61, Table 2-9). [DEDUCED: log entry 58] -/
def scrubbed (s : State) (b : Nat) : Bool := match region b with
  | .stack k off => s.is (BT_HBM_CTRL_SCRUB_EN k) && off < 0x8FFC00000 && stacksUsable s && !(isRetired s b)
  | .sram d _ _ => s.is (BT_HBM_CTRL_SCRUB_EN d) && !(dieOff s d)
  | .scratch d _ => s.is (BT_HBM_CTRL_SCRUB_EN d) && !(dieOff s d)
  | .hubSram _ | .mapSram _ | .logRing _ | .islandSram _ => true
  | _ => false

/-- Patrol scrub reads a block: verdict 0 clean, 1 corrected, 2 uncorrectable (R59, R87, R91). Scrub requests use ticket
63, fail no job and raise no doubt. [DEDUCED: log entry 58] [DESIGN CHOICE: log entry 216] -/
def execPatrolScrub (block : Nat) (verdict : Nat) (s : State) : Host.Outcome State Fault Refusal :=
  perform (Instr.wellFormed (.patrolScrub block verdict)) (withS fun s =>
    if !(scrubbed s block) then skip
    else if verdict = 1 then foundCorr (0x0B0 + (addrDie block).getD 0) 63 block
    else if verdict = 2 then foundUncorr (0x0B0 + (addrDie block).getD 0) 63 false block
    else skip) s

/-- The oldest row move of a stack switches over to the new row (R87). [DESIGN CHOICE: log entry 216] -/
def execRowMoveSwitch (stack : Nat) (s : State) : Host.Outcome State Fault Refusal :=
  perform (Instr.wellFormed (.rowMoveSwitch stack)) (withS fun s => match (mget s.wear.moves stack).getD [] with
    | [] => skip
    | m :: r => seq [
        updWear (fun w => { w with moves := mset w.moves stack r, rowErrors := mdel w.rowErrors (stack * 2 ^ 40 + m.page * 32 + m.pc), unrecorded := w.unrecorded ++ [.remap stack m.pc m.page] }),
        countF (BT_HBM_HEALTH_REMAP_USED stack) 1,
        reportNow 0 stack 0x102 (pageBT stack) 0xFF (0x0B0 + stack) 63 false
          (some (stack * 0x900000000 + m.page * 32768 + m.pc * 256)) m.entry]) s

/-- An entry of the health record replaces an older one of the same thing. A granule fenced again after a repair is an entry
of its own: another of its rows needs a spare row. -/
def sameEntry : HealthEntry → HealthEntry → Bool
  | .engine g _, .engine h _ => g == h
  | .fenced _, .fenced _ => false
  | a, b => a == b

/-- The entries after new ones are recorded. -/
def mergeHealth (old new : List HealthEntry) : List HealthEntry :=
  new.foldl (fun es e => es.filter (fun x => !(sameEntry x e)) ++ [e]) old

/-- The island writes the entries `es` into the slot not in use, with SEQ + 1 (R639). -/
def putHealth (es : List HealthEntry) : Act := updBoot fun b =>
  let slot : HealthSlot := ⟨b.healthSeq + 1, es, true⟩
  { b with health := es, healthSeq := b.healthSeq + 1, healthSlotB := !b.healthSlotB, flash := if b.healthSlotB then { b.flash with healthA := some slot } else { b.flash with healthB := some slot } }

/-- The island records the changes since its last write, and FAIL_COUNT follows (R88, R176, R639). Pair 1 makes the writes:
they stop with it (R553). -/
def execHealthRecordWrite (s : State) : Host.Outcome State Fault Refusal :=
  perform (Instr.wellFormed .healthRecordWrite) (withS fun s =>
    if s.wear.unrecorded.isEmpty || !(bit (s.get EL_NET_STAT_PAIR_OK) 1) then skip else
    seq [putHealth (mergeHealth s.boot.health s.wear.unrecorded),
      forA s.wear.unrecorded (fun e => match e with
        | .engine g n => setF (TE_HEALTH_FAIL_COUNT g) n
        | _ => skip),
      updWear (fun w => { w with unrecorded := [] })]) s

end Sys2Proof.Machine
end

