-- ==== Sys2Proof/Machine/Boot.lean ====
section
/-! DEFINITION. Boot (R629 to R649): the flash's images and records, the steps of Table 17-5, and the events that carry boot
on: PLL lock, power-good inputs, the ends of TT_CMD commands, the end of STAGE's read. -/

namespace Sys2Proof.Machine

/-! ### Status of boot (Table 17-9) -/

def bootErr (b : Nat) : Act := withS fun s => setF BT_BOOT_STAT_BOOT_ERR (setBit (s.get BT_BOOT_STAT_BOOT_ERR) b)
def bootPhase (n : Nat) : Act := setF BT_BOOT_STAT_PHASE n
def bootSlot (typ : Nat) (b : Bool) : Act := withS fun s =>
  let v := s.get BT_BOOT_STAT_SLOT_B
  setF BT_BOOT_STAT_SLOT_B (if b then setBit v typ else clearBit v typ)

/-- Boot waits in step `n` of Table 17-5. -/
def bootWait (n : Nat) : Act := updBoot fun b => { b with step := n }

/-- Boot goes no further. -/
def bootStop : Act := updBoot fun b => { b with step := 0, kind := 0 }

/-- Boot goes no further, and the hub and the dies stay as they are: an exit from P3 cannot end. -/
def bootStall : Act := updBoot fun b => { b with step := 0, kind := if b.kind = 3 then 3 else 0 }

/-! ### Images (R630 to R632, R642) -/

/-- Bytes 0 to 167 of an image's header (Table 17-2). -/
def imageHead (i : Image) : List Byte :=
  leBytes 4 i.magic ++ leBytes 2 i.format ++ leBytes 1 i.typ ++ leBytes 1 i.keySlot ++ leBytes 4 i.rollback ++ leBytes 4 i.body.length
    ++ leBytes 8 i.loadAddr ++ beBytes 48 i.bodyHash ++ beBytes 48 i.pubX ++ beBytes 48 i.pubY

/-- The key slot that may sign TYPE `typ` in life-cycle state `lc` (Tables 17-1 and 17-4). [DEDUCED: log entry 154] -/
def keyAllowed (lc typ k : Nat) : Bool :=
  k < 2 && (if typ = 1 then k == 0 else if typ = 3 then lc != 2 || k == 0 else k == (if lc = 2 then 0 else 1))

/-- An image is valid as TYPE `typ` (R631, R642). [DESIGN CHOICE: log entry 150] [DEDUCED: log entry 154] -/
def imageOk (s : State) (typ lc intKey : Nat) (i : Image) : Bool :=
  i.magic == 0x4D494742 && i.format == 1 && i.typ == typ && keyAllowed lc typ i.keySlot && i.body.length + 384 ≤ i.dirLength
    && (mget s.boot.flash.minVer typ).getD 0 ≤ i.rollback
    && ofBe (sha384 i.body) == i.bodyHash
    && ofBe (sha384 (beBytes 48 i.pubX ++ beBytes 48 i.pubY)) == (if i.keySlot = 0 then s.silicon.aumalenHash else intKey)
    && ecdsaOk i.pubX i.pubY (sha384 (imageHead i)) i.sigR i.sigS

/-- The images of TYPE `typ` in slots A and B. -/
def slotA (f : Flash) (typ : Nat) : Option Image := if f.dirOk then mget f.imageA typ else none
def slotB (f : Flash) (typ : Nat) : Option Image := if f.dirOk then mget f.imageB typ else none

/-- The first of two slots whose content is good, and whether it is slot B (R632). -/
def firstSlot {α : Type} (ok : α → Bool) (a b : Option α) : Option (α × Bool) :=
  match a.filter ok, b.filter ok with
  | some x, _ => some (x, false)
  | none, some y => some (y, true)
  | none, none => none

/-- The island image in use. -/
def islandImage (s : State) : Option (Image × Bool) :=
  firstSlot (imageOk s 1 0 0) (slotA s.boot.flash 1) (slotB s.boot.flash 1)

/-- The image of TYPE 2 or 4 in use; none without a configuration record (R638). -/
def bootImage (s : State) (typ : Nat) : Option (Image × Bool) := match s.boot.cfg with
  | none => none
  | some c => firstSlot (imageOk s typ c.lc c.intKeyHash) (slotA s.boot.flash typ) (slotB s.boot.flash typ)

/-- The images of a TYPE with that one replaced. -/
def putImage (l : List (Nat × Image)) (typ : Nat) (i : Image) : List (Nat × Image) := mset l typ i

/-- The flash after island ROM has examined the update area (R644). With no valid island image there is no V to compare
with, and nothing is done. [DEDUCED: log entry 156] -/
def installUpdate (s : State) : Flash :=
  let f := s.boot.flash
  match f.update, islandImage s with
  | some u, some (v, _) =>
    if imageOk s 1 0 0 u && v.rollback < u.rollback then
      { f with imageA := putImage f.imageA 1 u, imageB := if mget f.imageB 1 = some v then f.imageB else putImage f.imageB 1 v, update := none }
    else { f with update := none }
  | _, _ => f

/-! ### Identity and records (R633 to R643) -/

/-- DEVICE_ID of a device secret (R634). [PRESUMED: log entry 151] -/
def deviceIdOf (secret : Nat) : Nat :=
  le (sha384 (publicKey (ofBe (hkdf384 (beBytes 32 secret) [1#8]) % n384))) 0 8

/-- DEVICE_ID of the part. -/
def deviceId (s : State) : Nat := (s.silicon.keyStore.map deviceIdOf).getD 0

/-- A configuration record is valid (R636, R637). -/
def cfgOk (s : State) (x : Image × CfgRecord) : Bool :=
  let c := x.2
  c.lc ≤ 2 && s.boot.flash.lcMin ≤ c.lc && c.factoryOk && c.integratorOk
    && (if c.lc = 2 then c.integratorByAumalen else c.integratorKeyHash == c.intKeyHash)
    && c.deviceId == deviceId s && imageOk s 3 c.lc c.intKeyHash x.1

/-- An image with the record that it carries. -/
def withRecord (i : Option Image) (c : Option CfgRecord) : Option (Image × CfgRecord) := match i, c with
  | some i, some c => some (i, c)
  | _, _ => none

/-- The configuration record in use. -/
def bootCfg (s : State) : Option ((Image × CfgRecord) × Bool) :=
  let f := s.boot.flash
  firstSlot (cfgOk s) (withRecord (slotA f 3) f.cfgA) (withRecord (slotB f 3) f.cfgB)

/-- The health record in use: the valid copy with the larger SEQ (R639). [DEDUCED: log entry 164] -/
def bootHealth (f : Flash) : Option (HealthSlot × Bool) :=
  match f.healthA.filter (fun h => h.macOk), f.healthB.filter (fun h => h.macOk) with
  | some a, some b => if a.seq < b.seq then some (b, true) else some (a, false)
  | some a, none => some (a, false)
  | none, some b => some (b, true)
  | none, none => none

/-- The firewall windows of a configuration record (R353, R655). -/
def cfgWindows (c : Option CfgRecord) : SMap Win := match c with
  | none => []
  | some c => (c.windows.take 256).zipIdx.map fun x => (x.2, ⟨x.1.1, x.1.2.1, x.1.2.2.1, x.1.2.2.2⟩)

/-- The window table as the configuration record gives it. [DEDUCED: log entry 174] -/
def loadWindows (s : State) : State := { s with fw := ⟨cfgWindows s.boot.cfg, cfgWindows s.boot.cfg⟩ }

/-- MIN_VER and LC_MIN raised to what is in use (R643), and the flash locked (R641). [DEDUCED: log entry 155] -/
def raiseAndLock (cfgVer : Nat) (c : CfgRecord) : Act := withS fun s =>
  let use (typ : Nat) : Option Nat :=
    if typ = 1 then (islandImage s).map (fun x => x.1.rollback) else if typ = 3 then some cfgVer
    else (bootImage s typ).map fun x => x.1.rollback
  let up (m : List (Nat × Nat)) (typ : Nat) : List (Nat × Nat) := match use typ with
    | some v => mset m typ (max v ((mget m typ).getD 0))
    | none => m
  updBoot fun b => { b with locked := true, flash := if c.raise.isEmpty then b.flash else { b.flash with minVer := (c.raise.filter fun t => 1 ≤ t && t ≤ 4).foldl up b.flash.minVer, lcMin := max b.flash.lcMin c.lc } }

/-! ### Loading LD fields (R636, R713) -/

/-- V_MIN and V_SET of AVS rail `n` (R596, R597). -/
def loadVset (c : CfgRecord) (n : Nat) : Act := withS fun s =>
  let vm := vMinAt (dieTemp s n) (c.vMin.getD n [])
  let want := ceilDiv (vm + 60) 5 * 5
  seq [setF (PW_VSET_V_MIN n) vm, setF (PW_VSET_V_SET n) (min 850 want), whenA (850 < want) (assertWire 9 n)]

/-- The fields of the hub's pages that the configuration record loads. -/
def loadHub : Act := withS fun s => match s.boot.cfg with
  | none => skip
  | some c => seq [setF PW_CTRL_PKG_CAP c.pkgCap,
      setF PW_MEM_EPB_P_IDLE_M (field c.epbMem 31 16), setF PW_MEM_EPB_EPB_M (field c.epbMem 15 0),
      setF PW_LINK_EPB_P_IDLE_L (field c.epbLink 31 16), setF PW_LINK_EPB_EPB_L (field c.epbLink 15 0),
      forA (List.range 13) (fun r =>
        let x := c.rails.getD r (0, 0, 0)
        seq [setF (PW_RAIL_CFG_PMB_ADDR r) x.1, setF (PW_RAIL_CFG_ILIM_HARD r) x.2.1, setF (PW_RAIL_CFG_ILIM r) x.2.2]),
      loadVset c 4, setF FW_TKT_ALLOW_HARTS_0_7 c.tktAllowLo, setF FW_TKT_ALLOW_HARTS_8_15 c.tktAllowHi]

/-- Base of the net records, and the bytes they take: the island's own choice, at the base of island SRAM (log entry 21). [DESIGN CHOICE: log entry 21] -/
def netTabBase : Nat := 0xE40C000000

/-- The island's fields that the configuration record loads, but for ARM; the net table starts with no record (R636, R654). [DEDUCED: log entry 158] -/
def loadIsland : Act := withS fun s =>
  seq [setF EL_NET_TAB_ADDR netTabBase, (fun _ => [.fill netTabBase 8192 0#8]),
    match s.boot.cfg with
    | none => skip
    | some c => seq [setF EL_NET_CFG_MODE (field c.netCfg 58 57), setF EL_NET_CFG_IMU_STREAM (field c.netCfg 54 49),
        setF EL_NET_CFG_IMU_EN (field c.netCfg 48 48), setF EL_NET_TIME_NET_OFS (field c.netTime 63 44),
        setF EL_NET_TIME_T1_MAX (field c.netTime 43 24), setF EL_NET_VZ_VZ c.netVz,
        setF EL_WDOG_CFG_HOST_EN (field c.wdog 8 8), setF EL_WDOG_CFG_HOST_TO (field c.wdog 7 0)]]

/-- What the health record, or a list of changes to it, says of stack `k`: its remap entries, and its retired pages. -/
def remapsOf (h : List HealthEntry) (k : Nat) : Nat := (h.filter fun e => match e with | .remap j _ _ => j == k | _ => false).length
def retiredOf (h : List HealthEntry) (k : Nat) : List Nat := h.filterMap fun e => match e with
  | .retired j p => if j = k then some p else none
  | _ => none

/-- FAIL_COUNT of engine `g` in the health record. -/
def failCount (h : List HealthEntry) (g : Nat) : Nat :=
  (h.findSome? fun e => match e with | .engine x n => if x = g then some n else none | _ => none).getD 0

/-- The fields of die `d`'s pages that the configuration record, the health record and the part's state load. -/
def loadDie (d : Nat) : Act := withS fun s =>
  let h := s.boot.health
  seq [match s.boot.cfg with
    | none => skip
    | some c => seq [loadVset c d,
        forA (List.range 20) (fun i => seq [setF (KV_GOLD_SIG_SIG d i) (c.kvGold.getD i 0),
          forA (List.range 9) fun k => setF (TE_GOLD_SIG_SIG (9 * d + k) i) (c.teGold.getD i 0)])],
    setF (BT_HBM_HEALTH_PPR_LEFT d) (satU 10 (s.boot.env.spare.getD d 0)),
    setF (BT_HBM_HEALTH_REMAP_USED d) (min 4096 (remapsOf h d + remapsOf s.wear.unrecorded d)),
    setF (BT_HBM_CAP_USABLE_PAGES d) (1179520 - ((mget s.wear.retired d).getD []).length),
    forA (List.range 9) (fun k => setF (TE_HEALTH_FAIL_COUNT (9 * d + k)) (min 3 (failCount h (9 * d + k))))]

/-! ### Positions (R177, R320) -/

/-- A position or KV unit is retired: backup mode, DEGRADED, and for a position RETIRE (R174, R317, R320). [DEDUCED: log entry 177] -/
def retireUnit (u : Nat) : Act := withS fun s =>
  if s.is (RM_UNIT_STAT_BACKUP_MODE u) then skip else
  seq [setF (RM_UNIT_STAT_BACKUP_MODE u) 1, setF RM_STATUS_DEGRADED 1,
    updPlan (fun p => { p with backupMode := p.backupMode ++ [u] }),
    whenA (u < 36) (seq [raiseInt pageRM 4,
      reportNow 6 (u / 9) 0x151 (pageELd (u / 9)) u 0xFFF 0 false none (u + 256 * (u % 9))])]

/-- ACTIVE_ON_DIE and SPARE_FREE of die `d` follow the engines. -/
def refreshCap (d : Nat) : Act := withS fun s =>
  let n := ((List.range 9).filter fun k => s.get (TE_STATUS_STATE (9 * d + k)) == 1).length
  forA (List.range 9) fun k => seq [setF (TE_CAP_ACTIVE_ON_DIE (9 * d + k)) n,
    setF (TE_CAP_SPARE_FREE (9 * d + k)) (ofBool (s.get (TE_STATUS_STATE (9 * d + 8)) == 2))]

/-- Engine `k` of die `d` in a state of Table 4-15, serving position `e`. -/
def putEngine (d k st e : Nat) : Act := seq [setF (TE_STATUS_STATE (9 * d + k)) st, setF (TE_STATUS_SERVES (9 * d + k)) e]

/-- Positions of die `d` are assigned (R177); a spare that takes one over sets SUBST (R320). -/
def assignDie (d : Nat) : Act := withS fun s =>
  let failed (k : Nat) : Bool := s.eng.failedEng.contains (9 * d + k)
  let lost := (List.range 8).filter failed
  let spareOk := !(failed 8)
  seq [forA (List.range 8) (fun k => if failed k then putEngine d k 3 0xF else putEngine d k 1 k),
    if !spareOk then putEngine d 8 3 0xF else match lost with
      | e :: _ => seq [putEngine d 8 1 e, raiseInt pageRM 3]
      | [] => putEngine d 8 2 0xF,
    refreshCap d,
    setF (KV_STATUS_STATE d) (if s.eng.failedKv.contains d then 3 else 1),
    forA (if spareOk then lost.drop 1 else lost) (fun e => retireUnit (9 * d + e)),
    whenA (s.eng.failedKv.contains d) (retireUnit (36 + d))]

/-- The outcome of the 20 golden steps of a power-on: what each gave, with the steps that do not match `want`. -/
def testSteps (right : Nat → Nat) (want : Nat → Nat) (wrong : List (Nat × Option Nat)) : List (Nat × Option Nat) × List Nat :=
  let got := (List.range 20).map fun i => (i, shownSig (right i) (wrongAt wrong i))
  (got, (got.filter fun x => x.2 != some (want x.1)).map Prod.fst)

/-- The golden tests of a power-on on engine `g` (R176): all 20 steps, compared as in a GOLDEN descriptor. [DEDUCED: log entry 161] -/
def testEngine (g : Nat) : Act := withS fun s =>
  let n := failCount s.boot.health g
  let t := testSteps goldenSig (fun i => s.get (TE_GOLD_SIG_SIG g i)) ((s.boot.env.teWrong.filter fun x => x.1 == g).map Prod.snd)
  if 3 ≤ n then updEng fun e => { e with failedEng := g :: e.failedEng }
  else seq [forA t.1 (goldenRan g),
    if t.2.isEmpty then updEng fun e => { e with passed := g :: e.passed.filter fun y => y != g }
    else seq [goldenFailed g t.2.length, updEng fun e => { e with failedEng := g :: e.failedEng },
      updWear fun w => { w with unrecorded := w.unrecorded ++ [.engine g (n + 1)] }]]

/-- The test of a KV unit at a power-on (R264). [DEDUCED: log entry 161] -/
def testKv (d : Nat) : Act := withS fun s =>
  let t := testSteps kvSig (fun i => s.get (KV_GOLD_SIG_SIG d i)) ((s.boot.env.kvWrong.filter fun x => x.1 == d).map Prod.snd)
  if t.2.isEmpty then skip
  else seq [kvGoldFailed d t.1 t.2.length, updEng fun e => { e with failedKv := d :: e.failedKv },
    updWear fun w => { w with unrecorded := w.unrecorded ++ [.kvFailed d] }]

/-- The golden tests of a power-on on die `d` (R176, R264). [DEDUCED: log entry 161] -/
def goldenTests (d : Nat) : Act := seq [forA (List.range 9) (fun k => testEngine (9 * d + k)), testKv d]

/-- Die `d` comes out of reset; at a power-on its engines and KV unit are tested. -/
def dieUp (test : Bool) (d : Nat) : Act := seq [
  updBoot (fun b => { b with resetRunning := clearBit b.resetRunning d }), updPw (fun p => { p with parked := p.parked.filter fun x => x != d }),
  loadDie d, whenA test (goldenTests d), assignDie d]

/-- Die `d` is left off (Table 17-5 step 9). -/
def leaveOff (d : Nat) : Act := seq [bootErr 6,
  updPw fun p => { p with enables := p.enables.filter (fun x => x != d), good := p.good.filter (fun x => x != d), parked := p.parked.filter fun x => x != d }]

/-! ### Spare rows and post-package repair (R61, R89, R91) -/

/-- Of the granules on record, in order, those for which the spare rows of their MiB, eight each, do not last. `m` counts
the rows used. [DEDUCED: log entry 159] -/
def unrepaired : List Nat → SMap Nat → List Nat
  | [], _ => []
  | g :: r, m =>
    let n := mgetD m (g / 0x100000) 0
    if n < 8 then unrepaired r (mset m (g / 0x100000) (n + 1)) else g :: unrepaired r m

/-- The fenced granules of a list of entries. -/
def fencedIn (h : List HealthEntry) : List Nat := h.filterMap fun e => match e with
  | .fenced g => some g
  | _ => none

/-- The SRAM spare rows are applied from the health record to the granules that `sel` names: the fence of a granule with a
failure that no spare row repairs, or that is not on record, stays; a granule repaired counts its errors anew. [DEDUCED: log entry 159] -/
def applySpares (sel : Nat → Bool) : Act := withS fun s => updWear fun w =>
  { w with fenced := w.fenced.filter (fun g => !(sel g)) ++ unrepaired ((fencedIn s.boot.health).filter sel) [] ++ (fencedIn w.unrecorded).filter sel, sramErrors := mdelIf w.sramErrors fun k => sel (k / 64 * 65536) && w.fenced.contains (k / 64 * 65536) }

/-- A granule lies in die `d`'s scratch pool. -/
def inScratch (d : Nat) (g : Nat) : Bool := match region g with
  | .scratch e _ => e == d
  | _ => false

/-- The health record without the first `n` remap entries of stack `k`. -/
def dropRemaps (k : Nat) : Nat → List HealthEntry → List HealthEntry
  | 0, h => h
  | _, [] => []
  | n + 1, e :: r => match e with
    | .remap j _ _ => if j = k then dropRemaps k n r else e :: dropRemaps k (n + 1) r
    | _ => e :: dropRemaps k (n + 1) r

/-- Remap entries of stack `k` turn into post-package repairs while its spare rows last (R89). [DESIGN CHOICE: log entry 160] -/
def packageRepair (k : Nat) : Act := withS fun s =>
  let left := s.boot.env.spare.getD k 0
  let n := min left (remapsOf s.boot.health k)
  if n = 0 then skip else
  seq [putHealth (dropRemaps k n s.boot.health),
    updBoot fun b => { b with env := { b.env with spare := b.env.spare.set k (left - n) } }]

/-! ### Steps 5 to 12 -/

/-- Where boot keeps the identity record and the plan image, in hub shared SRAM (log entry 21). [DESIGN CHOICE: log entry 21] -/
def identBuf : Nat := 0xE401DFE000
/-- Where boot keeps the plan image. [DESIGN CHOICE: log entry 21] -/
def planArea : Nat := 0xE401E00000

/-- The island stores `bs` in hub shared SRAM at `a`, if that is possible; `ok` or `bad` follows. -/
def islandStore (a : Nat) (bs : List Byte) (ok bad : Act) : Act := withS fun s =>
  let fits := 0xE400000000 ≤ a && a + bs.length ≤ 0xE402000000
  if fits && (checkRange s 0x091 0 1 ⟨[], []⟩ a bs.length).1 == 0 then seq [writeRange a bs, ok] else bad

/-- Step 11: the frame plan image is verified, and STAGE reads it. -/
def bootPlan : Act := withS fun s => match bootImage s 4 with
  | none => seq [bootErr 7, bootStop]
  | some (i, b) => islandStore planArea i.body
      (seq [bootSlot 4 b, setF RM_PLAN_ADDR_ADDR planArea, bootWait 11, stageStart]) (seq [bootErr 7, bootStop])

/-- STAGE's read has ended: ACTIVATE, then the first boundary is awaited (steps 11 and 12). -/
def bootStaged : Act := whenS (fun s => s.boot.step == 11 && s.plan.reading.isNone) (seq [activatePlan, withS fun s =>
  if s.plan.next.isSome then seq [bootPhase 11, bootWait 12] else seq [bootErr 7, bootStop]])

/-- Steps 9 and 10: memory and compute dies. [DESIGN CHOICE: log entry 3] -/
def bootDies : Act := withS fun s =>
  let po := s.boot.kind == 1
  seq [whenA po (forA (List.range 4) packageRepair), whenA (s.boot.kind != 3) (applySpares fun _ => true),
    forA (List.range 4) (fun d => if s.boot.env.trained.contains d && s.pw.good.contains d
      then dieUp po d else leaveOff d),
    bootPhase 10, bootPlan]

/-- Boot goes on from step 9 once every rail whose enable is high is good. -/
def bootRails : Act := whenS (fun s => s.boot.step == 9 && s.boot.kind != 3 && s.pw.enables.all fun e => s.pw.good.contains e) bootDies

/-- Step 8, control ready; then memory and dies are powered (step 9), on an exit from P3 memory alone. Without verified hub
firmware boot ends here (R638, Table 17-5 step 6). -/
def bootReady : Act := withS fun s => seq [bootPhase 8,
  if !s.boot.firmware then bootStall
  else seq [bootWait 9, updPw (fun p => { p with enables := if s.boot.kind = 3 then [4, 5] else [0, 1, 2, 3, 4, 5] }), bootRails]]

/-- An operation of step 7 starts. -/
def bootOpStart : BootOp → Act
  | .enumRing r => enumStart r
  | .axis m => withS fun s => if s.boot.badRings.contains m.ring then skip else readStart m.ring m.node m.axis

/-- An operation of step 7 has ended: a ring with a failed ENUM is noted, and a module read is configured when it is the
mapped one (R646). [DEDUCED: log entries 125, 157] -/
def bootOpEnd : BootOp → Act
  | .enumRing r => whenS (fun s => s.get TT_CMD_STAT_RESULT != 0) (updBoot fun b => { b with badRings := r :: b.badRings })
  | .axis m => withS fun s =>
    let id := s.mem.bytes (phys s identBuf) 16
    if s.boot.badRings.contains m.ring || s.get TT_CMD_STAT_RESULT != 0 || le id 8 4 != m.vendor || le id 12 4 != m.model then bootErr 5
    else seq [setF (TT_AXIS_CFG_RING m.axis) m.ring, setF (TT_AXIS_CFG_NODE m.axis) m.node, setF (TT_AXIS_CFG_RATE m.axis) m.rate,
      configStart m.axis ⟨[], []⟩, whenS (fun s => s.get TT_CMD_STAT_RESULT != 0) (bootErr 5)]

/-- Step 7 goes on with a list of operations until one has to wait. -/
def bootOps : List BootOp → Act
  | [] => seq [updBoot (fun b => { b with todo := [] }), bootPhase 7, bootReady]
  | o :: r => seq [updBoot (fun b => { b with todo := o :: r }), bootOpStart o,
      whenS (fun s => s.tt.cmd.isNone) (seq [bootOpEnd o, bootOps r])]

/-- A TT_CMD command of step 7 may have ended. -/
def bootResume : Act := whenS (fun s => s.boot.step == 7 && s.tt.cmd.isNone) (withS fun s => match s.boot.todo with
  | [] => skip
  | o :: r => seq [bootOpEnd o, bootOps r])

/-- The operations of step 7: for each ring in the axis map, ENUM, then READ and CONFIG of each mapped axis (R645). [DEDUCED: log entry 157] -/
def identOps (s : State) : List BootOp := (List.range 4).flatMap fun r =>
  match (axisMaps s).filter fun m => m.ring == r with
  | [] => []
  | ms => .enumRing r :: ms.map .axis

/-- Step 6: hub firmware; steps 7 and 8 run in either case. [DEDUCED: log entry 162] -/
def bootFirmware : Act := withS fun s =>
  let go (ok : Bool) : Act := seq [updBoot (fun b => { b with firmware := ok, step := 7, badRings := [] }),
    setF TT_IDENT_BUF_ADDR identBuf, withS fun s => bootOps (identOps s)]
  match bootImage s 2 with
  | none => seq [updBoot (fun b => { b with harts := 0 }), go false]
  | some (i, b) => if i.loadAddr % 4096 != 0 then seq [updBoot (fun b => { b with harts := 0 }), go false] else
      islandStore i.loadAddr i.body
        (seq [bootSlot 2 b, bootPhase 6, updBoot (fun x => { x with harts := 1, hartsAt := i.loadAddr }), go true])
        (seq [updBoot (fun b => { b with harts := 0 }), go false])

/-- Step 5 ends: the hub is out of reset, and the island configures its queues (R558). [DESIGN CHOICE: log entry 3] [DEDUCED: log entry 162] -/
def bootHub : Act := whenS (fun s => s.boot.step == 5 && s.pw.good.contains 4)
  (seq [bootPhase 5, loadHub, setupPass, bootFirmware])

/-- Step 5 begins: PWREN_H goes high. -/
def bootHubPower : Act := seq [bootWait 5, updPw (fun p => { p with enables := if p.enables.contains 4 then p.enables else p.enables ++ [4] }), bootHub]

/-! ### Steps 1 to 4 -/

/-- Island firmware starts on both pairs (R534, R562). [DEDUCED: log entries 162, 172, 201] -/
def firmwareStart : Act := withS fun s => seq [setF EL_NET_STAT_PAIR_OK 3, setF EL_NET_STAT_NET_PAIR 0,
  forA carEntries (fun e => setF (EL_CAR_LAST_PASS e) s.timestamp), updIsl fun i => { i with hostAt := s.grid.now }]

/-- The health record comes into use (R639). [DEDUCED: log entry 164] -/
def useHealth : Act := withS fun s => match bootHealth s.boot.flash with
  | none => seq [bootErr 3, updBoot fun b => { b with health := [], healthSeq := 0, healthSlotB := true }]
  | some (h, b) => updBoot fun x => { x with health := h.entries, healthSeq := h.seq, healthSlotB := b }

/-- What a power-on takes from the health record: retired pages and fences. -/
def wearFromHealth : Act := withS fun s => updWear fun w =>
  { w with retired := (List.range 4).map (fun k => (k, retiredOf s.boot.health k)), fenced := fencedIn s.boot.health }

/-- Step 4 with a valid configuration record (R636, R641, R643, R659). -/
def useCfg (i : Image) (c : CfgRecord) (b : Bool) (s : State) : State :=
  let s := s.act (seq [updBoot (fun x => { x with cfg := some c }), bootSlot 3 b,
    setF BT_LC_CFG_VER i.rollback, setF BT_LC_LC c.lc, setF BT_DEVICE_ID_ID c.deviceId,
    setF BT_DBG_STAT_OPEN (if c.lc = 0 then 3 else 0), raiseAndLock i.rollback c, bootPhase 4])
  loadWindows { s with dbg := { s.dbg with levels := if c.lc = 0 then 3 else 0 } }

/-- Steps 2 to 4, and step 5 begins. -/
def bootIsland (s : State) : State := match s.boot.env.secret with
  | none => s.act (seq [bootErr 0, bootStop])
  | some k =>
    let s := { s with silicon := { s.silicon with keyStore := some k } }
    let s := s.act (seq [bootPhase 2, updBoot fun b => { b with flash := installUpdate s }])
    match islandImage s with
    | none => s.act (seq [bootErr 1, bootStop])
    | some (_, b) =>
      let s := s.act (seq [bootSlot 1 b, bootPhase 3, firmwareStart])
      let s := match bootCfg s with
        | none => s.act (seq [bootErr 2, updBoot fun b => { b with locked := true }])
        | some (x, b) => useCfg x.1 x.2 b s
      s.act (seq [useHealth, wearFromHealth, loadIsland, bootHubPower])

/-- The core PLL locks: boot goes on from step 1 (R359, R645). -/
def execPllLock (s : State) : Host.Outcome State Fault Refusal :=
  if s.boot.step = 1 then .next (bootIsland (s.act (seq [bootPhase 1, setF TM_STATUS_PLL_LOCK 1]))) else .next s

/-! ### Power-good inputs (R594, R595) -/

/-- A power-good input goes high: the boot step or the exit that waits for it goes on. [DEDUCED: log entry 163] -/
def execPwrgdAssert (input : Nat) (s : State) : Host.Outcome State Fault Refusal :=
  perform (Instr.wellFormed (.pwrgdAssert input)) (seq [
    updPw (fun p => { p with good := if p.good.contains input then p.good else p.good ++ [input] }),
    whenA (s.pw.enables.contains input) (seq [bootHub, bootRails])]) s

/-- What the loss of a power-good input means for a boot step or an exit that waits for power: step 5 stops with RAIL, step 9
leaves the die off, an exit has RESULT RAIL (Tables 16-3 and 17-5). [DEDUCED: log entry 163] -/
def bootPowerLost (input : Nat) : Act := withS fun s =>
  seq [whenA (s.boot.step == 5 && input == 4) (seq [bootErr 4, bootStall]),
    whenA (s.boot.step == 9 && s.boot.kind != 3 && input < 4) (seq [leaveOff input, bootRails]),
    whenA (s.boot.step == 9 && s.boot.kind != 3 && input == 5) (seq [bootErr 6, bootStop]),
    match s.pw.transition with
      | some (n, _) => whenA (decide (n < s.get PW_STATUS_STATE)) (setF PW_STATE_STAT_RESULT 4)
      | none => skip]

/-- A power-good input goes low, or a regulator reports a fault: doubt while its enable is high (R595). [DEDUCED: log entry 163] -/
def execPwrgdLoss (input : Nat) (s : State) : Host.Outcome State Fault Refusal :=
  perform (Instr.wellFormed (.pwrgdLoss input)) (seq [
    updPw (fun p => { p with good := p.good.filter fun x => x != input }),
    whenA (s.pw.enables.contains input) (seq [assertWire 9 (railDie input), bootPowerLost input])]) s

/-! ### Received frames and the ends of start-up commands (R519, R520, R529, R530) -/

/-- A feedback frame arrives (R520). [DEDUCED: log entry 221] -/
def execFbFrame (ring : Nat) (frame : List Byte) (s : State) : Host.Outcome State Fault Refusal :=
  perform (Instr.wellFormed (.fbFrame ring frame)) (seq [rxFrame ring frame, bootResume]) s

/-- Another frame arrives (R519). [DEDUCED: log entries 124, 221] -/
def execAxisFrameOther (ring : Nat) (frame : List Byte) (s : State) : Host.Outcome State Fault Refusal :=
  perform (Instr.wellFormed (.axisFrameOther ring frame)) (seq [rxFrame ring frame, bootResume]) s

/-- A response to DISCOVER arrives (R529). -/
def execDiscRsp (ring : Nat) (frame : List Byte) (s : State) : Host.Outcome State Fault Refusal :=
  perform (Instr.wellFormed (.discRsp ring frame)) (seq [rxFrame ring frame, bootResume]) s

/-- A response to IDENT_REQ arrives (R530). -/
def execIdentRsp (ring : Nat) (frame : List Byte) (s : State) : Host.Outcome State Fault Refusal :=
  perform (Instr.wellFormed (.identRsp ring frame)) (seq [rxFrame ring frame, bootResume]) s

/-- ENUM's millisecond has passed (R529). [DESIGN CHOICE: log entry 220] -/
def execEnumDone (s : State) : Host.Outcome State Fault Refusal :=
  perform (Instr.wellFormed .enumDone) (seq [enumDone, bootResume]) s

/-- A request of READ has had no response within 100 µs (R530). [DESIGN CHOICE: log entry 220] -/
def execIdentReqTimeout (s : State) : Host.Outcome State Fault Refusal :=
  perform (Instr.wellFormed .identReqTimeout) (seq [identTimeout, bootResume]) s

/-- The image read of a STAGE ends (R285). [DEDUCED: log entry 221] -/
def execStageReadDone (ecc : Ecc) (s : State) : Host.Outcome State Fault Refusal :=
  perform (Instr.wellFormed (.stageReadDone ecc)) (withS fun s => match s.plan.reading with
    | some a => seq [updPlan (fun p => { p with reading := none }), stageRead a ecc, bootStaged]
    | none => skip) s

end Sys2Proof.Machine
end

