-- ==== Sys2Proof/Machine/Debug.lean ====
section
/-! DEFINITION. Debug and test access through the TAP (R656 to R659). -/

namespace Sys2Proof.Machine

/-- An attempt is accepted: the island runs, and fewer than 16 attempts have failed since power-on (R656). [DEDUCED: log entry 175] -/
def unlockOpen (s : State) : Bool := s.silicon.keyStore.isSome && s.dbg.fails < 16

/-- A new nonce, of four free values (R657). [DESIGN CHOICE: log entry 176] -/
def newNonce (s : State) : State :=
  let w (i : Nat) : Nat := (Config.freeWord (s.fresh + i)).toNat
  { s with dbg := { s.dbg with nonce := w 0 + 2 ^ 64 * w 1 + 2 ^ 128 * w 2 + 2 ^ 192 * w 3 }, fresh := s.fresh + 4 }

/-- An attempt has failed. [DEDUCED: log entry 175] -/
def unlockFailed (s : State) : State :=
  newNonce ({ s with dbg := { s.dbg with fails := s.dbg.fails + 1 } }.act (countF BT_DBG_STAT_FAILS 1))

/-- An attempt opens the levels `ls` (bits 0 APP, 1 ISL, 2 TEST); ISL and TEST latch SOFT (R658). -/
def unlockLevels (ls : Nat) (s : State) : State :=
  let v := Nat.lor s.dbg.levels (ls % 8)
  let t := newNonce ({ s with dbg := { s.dbg with levels := v } }.act (setF BT_DBG_STAT_OPEN v))
  if ls % 8 / 2 = 0 then t else t.act (latchOwn 14)

/-- The password opens APP (R656). [DEDUCED: log entry 153] -/
def passwordOk (s : State) (password : Nat) : Bool := match s.boot.cfg with
  | some c => c.lc == 1 && (sha384 (leBytes 8 (deviceId s) ++ leBytes 16 password)).take 16 == leBytes 16 c.pwTag
  | none => false

/-- A password is written to UNLOCK_PW (R656). -/
def execUnlockPw (password : Nat) (s : State) : Host.Outcome State Fault Refusal :=
  if !(Instr.wellFormed (.unlockPw password)) || !(unlockOpen s) then .next s
  else .next (if passwordOk s password then unlockLevels 1 s else unlockFailed s)

/-- Instruction NONCE shifts the nonce out (R657). -/
def execNonce (s : State) : Host.Outcome State Fault Refusal :=
  perform (Instr.wellFormed .nonce) (withS fun s => send 8 0 (leBytes 32 s.dbg.nonce)) s

/-- The message that a response signs: NONCE, DEVICE_ID, LEVELS, seven bytes of 0. [DEDUCED: log entry 153] -/
def unlockMessage (s : State) (levels : Nat) : List Byte :=
  leBytes 32 s.dbg.nonce ++ leBytes 8 (deviceId s) ++ leBytes 8 levels

/-- The response is right: signed by the Aumalen debug key, and ISL and TEST asked for only with no plan in force and no ring
running (R657, R658). [DESIGN CHOICE: log entry 150] -/
def responseOk (s : State) (levels pubX pubY sigR sigS reserved : Nat) : Bool :=
  reserved == 0 && (levels % 8 / 2 == 0 || !(s.planOn || s.someRun))
    && ofBe (sha384 (beBytes 48 pubX ++ beBytes 48 pubY)) == s.silicon.debugHash
    && ecdsaOk pubX pubY (sha384 (unlockMessage s levels)) sigR sigS

/-- A response is written to UNLOCK_CR: LEVELS, the seven bytes after it, and the signature; the public key is the one that the
island checks against its ROM hash (R657). [DEDUCED: log entry 175] [DESIGN CHOICE: log entry 176] -/
def execUnlockCr (levels pubX pubY sigR sigS reserved : Nat) (s : State) : Host.Outcome State Fault Refusal :=
  if !(Instr.wellFormed (.unlockCr levels pubX pubY sigR sigS reserved)) || !(unlockOpen s) then .next s
  else .next (if responseOk s levels pubX pubY sigR sigS reserved then unlockLevels levels s else unlockFailed s)

end Sys2Proof.Machine
end

