-- ==== Sys2Proof/Machine/Resets.lean ====
section
/-! DEFINITION. The resets of Table 17-7 and what each keeps (R14, R178, R536, R650 to R655, Table 17-8). -/

namespace Sys2Proof.Machine

/-- Every page, and the pages of die `d`. -/
def allPages : List Nat := List.range 256
def diePages (d : Nat) : List Nat := (List.range 16).map fun i => 16 + 16 * d + i

/-- The events of the Restored by column in the encoding of the register map. -/
def evWR : Nat := 1
def evDIE : Nat := 2
def evENG : Nat := 4
def evISL : Nat := 8
def evP1 : Nat := 16
def evP2 : Nat := 32
def evP3 : Nat := 64

/-- The fields that name event `ev` return to reset, on the pages `ps` (R13). -/
def restoreFields (ev : Nat) (ps : List Nat) : Act := fun _ => [.restore ev ps]

/-! ### Power-on -/

/-- The part right after PORST_N rises again: every field at reset, every memory lost, the flash kept (R14, Table 17-8). [DESIGN CHOICE: log entry 178] -/
def powerOn (env : BootEnv) (s : State) : State :=
  { State.reset with
    mem := ⟨[], [⟨0, 2 ^ 48, s.fresh⟩], []⟩
    silicon := { s.silicon with keyStore := none }
    dbg := ⟨0, 0, env.nonce⟩
    boot := { State.reset.boot with flash := env.flash.getD s.boot.flash, env := { env with flash := none } }
    bus := { State.reset.bus with sent := s.bus.sent }
    fresh := s.fresh + 1
    pending := s.pending }

/-- PORST_N is asserted and rises: boot waits for the core PLL (R645). [DESIGN CHOICE: log entry 178] -/
def execPorstN (env : BootEnv) (s : State) : Host.Outcome State Fault Refusal := .next (powerOn env s)

/-! ### What a die loses -/

/-- Content of die `d`'s local SRAMs and scratch pool. [DEDUCED: log entry 165] -/
def loseDieMem (d : Nat) : Act := seq [lose (0xE000000000 + d * 0x100000000) (9 * 0x400000), lose (0xE004000000 + d * 0x100000000) 0x3000000]

/-- Row keys of stack `d`, and SRAM rows of die `d`, in the corrected-error counts of the scrub period. -/
def dieRowKey (d k : Nat) : Bool := k / 2 ^ 40 == d
def dieSramKey (d k : Nat) : Bool := match addrDie (k * 1024) with
  | some e => e == d
  | none => false

/-- What die `d` holds beside its registers and memories returns to reset: lost-block list, row moves and counts of its
controller, comparator tests, buckets of its turnstiles. Failed states stay (Table 17-8), and so does what an engine's last golden step
gave. [DEDUCED: log entries 165, 238] -/
def resetDieState (d : Nat) : Act := withS fun s =>
  seq [updWear (fun w => { w with lost := mdel w.lost d, moves := mdel w.moves d, rowErrors := mdelIf w.rowErrors (dieRowKey d), sramErrors := mdelIf w.sramErrors (dieSramKey d) }),
    updEng (fun e => { e with sigTest := e.sigTest.filter (fun g => g / 9 != d), kvSigTest := e.kvSigTest.filter (fun k => k != d) }),
    forA (s.isl.awaiting.filter fun e => if 98 ≤ e then e - 98 == d else (e - 55) / 9 == d) (fun e => setF (EL_CAR_RUNNING e) 0),
    updIsl (fun i => { i with awaiting := i.awaiting.filter fun e => !(if 98 ≤ e then e - 98 == d else (e - 55) / 9 == d) }),
    updTs (fun t => { t with entries := mdelIf t.entries (fun k => (portPage (k / 64)).1 == d), classB := mdelIf t.classB (fun p => (portPage p).1 == d), lastB := mdelIf t.lastB fun p => (portPage p).1 == d })]

/-! ### Warm reset -/

/-- The units that hold a job. -/
def busyUnits (s : State) : List Nat := (List.range 109).filter fun u => (s.unit u).running.isSome || (s.unit u).suspended.isSome

/-- The output of a job that a reset ends without completing it. -/
def dropJob (u : Nat) (j : Option Job) : Act := match j with
  | some j => if j.status.isSome then skip else loseOuts u j
  | none => skip

/-- Every job vanishes: what it was writing is unpredictable. [DEDUCED: log entry 166] -/
def dropJobs : Act := withS fun s => forA (busyUnits s) fun u => seq [dropJob u (s.unit u).running, dropJob u (s.unit u).suspended]

/-- An axis as it is left with its cogging table, or without. -/
def keptAxis (cog : Bool) (x : AxisSt) : AxisSt := if cog then { AxisSt.reset with cog := x.cog } else AxisSt.reset

/-- What the hub's blocks hold beside registers and memories returns to reset: queues, units and groups, plans, fusion, the map
unit, axes (with or without their cogging tables), turnstiles, the record pipeline, Yelilo, register-access state, MTIME. [DEDUCED: log entry 166] -/
def resetHubState (cog : Bool) : Act := withS fun s =>
  seq [updRm (fun _ => State.reset.rm),
    updPlan (fun _ => State.reset.plan),
    updGrid (fun g => { g with running := false }),
    updHot (fun h => { State.reset.hot with spoiled := if cog then h.spoiled else [] }),
    updFu (fun _ => State.reset.fu),
    updMw (fun m => { State.reset.mw with dims0 := m.dims0, dims1 := m.dims1 }),
    updTt (fun t => { State.reset.tt with axes := t.axes.map fun x => (x.1, keptAxis cog x.2) }),
    updTs (fun _ => State.reset.ts),
    updFeed (fun _ => State.reset.feed),
    (fun _ => [.setYl []]),
    updBus (fun b => { State.reset.bus with gpio := b.gpio, sent := b.sent, resp := b.resp }),
    updTime (fun t => { t with mtime := 0, mtimecmp := [] }),
    updPw (fun p => { State.reset.pw with enables := p.enables, good := p.good, phases := if cog then p.phases else [], thermN := p.thermN, parked := if cog then [] else p.parked }),
    forA (s.isl.awaiting ++ s.isl.carousel.toList) (fun e => setF (EL_CAR_RUNNING e) 0),
    updIsl (fun i => { i with handoverAt := none, carousel := none, awaiting := [], reint := if i.reint = 3 then 2 else i.reint })]

/-- The rings stay with the island when it holds them. [DEDUCED: log entry 167] -/
def keepOwner : Act := withS fun s => setF TT_STATUS_OWNER_ISL (s.get EL_NET_STAT_OWNER)

/-- A pulse output that is high goes low. -/
def pulsesLow : Act := withS fun s => forA (s.time.pulses.filter fun p => p.2.level) fun p => drivePulse p.1 false

/-- A warm reset up to boot step 5 (R651, R653, Table 17-8). [DEDUCED: log entry 166] -/
def warmEffect (cause : Fld) : Act := seq [
  writeBackAll, dropJobs, pulsesLow,
  forA (List.range 4) loseDieMem,
  restoreFields evWR allPages,
  forA (List.range 4) resetDieState,
  resetHubState true,
  updTime (fun t => { t with syncs := 0, bestGm := 0, latched := none, lastEdge := [], pulses := [], pathDelay := [], ptpSeq := [], discarded := 0, rxPort := none }), adjFollowsI,
  keepOwner, armCheck,
  setF cause 1, bootPhase 4,
  updBoot fun b => { b with kind := 2, step := 5, resetRunning := 15, harts := 0, todo := [] }]

/-- A warm reset, and boot from step 5 (R652: ignored while a power-on or a warm reset is in progress; a low-power transition is
abandoned). When the island never started, nothing outside it has power. [DEDUCED: log entries 167, 168] -/
def warmReset (cause : Fld) (s : State) : State :=
  if s.boot.kind = 1 ∨ s.boot.kind = 2 ∨ s.get BT_BOOT_STAT_PHASE < 3 then s else (loadWindows (s.act (warmEffect cause))).act bootHubPower

/-- WRST_N is asserted (R651). [DEDUCED: log entry 169] -/
def execWrstN (s : State) : Host.Outcome State Fault Refusal :=
  .next (warmReset BT_RST_CAUSE_WR_PIN (s.act (seq [updIsl fun i => { i with sto := false }, latchOwn 14])))

/-- A write of WARM by `init` (R650). [DEDUCED: log entries 167, 169] -/
def execResetWarm (init tkt : Nat) (s : State) : Host.Outcome State Fault Refusal :=
  if !(Instr.wellFormed (.resetWarm init tkt)) then .next s
  else if isIsland init && !s.someRun then .next (warmReset BT_RST_CAUSE_WR_SW s)
  else .next (s.act (islandWrite init tkt 0 0x100 1 (errWindow 0 2 init tkt 0x100 1 true)))

/-! ### Steps between low-power states (R621, R625 to R627) -/

/-- The part begins to go from one state to the next, on the way to `target`: entry to P1 first writes back the dirty cache lines and the modified hot
contexts (R227, R625), stops the harts and exempts the SAFE slots of the dies; an exit raises the enables, from P3 through boot step 5. -/
def beginLeg (target : Nat) : Act := withS fun s =>
  let st := s.get PW_STATUS_STATE
  let n := if target < st then st - 1 else st + 1
  seq [whenA (st < n && n == 1) (seq [writeBackLines, writeBackAll]),
    updPw (fun p => { p with transition := some (n, target) }), setF PW_STATUS_TRANS 1,
    if st < n then whenA (n == 1) (seq [updPlan (fun p => { p with exempt := [0, 1, 2, 3] }),
        updBoot fun b => { b with harts := if b.harts = 1 then 2 else b.harts }])
    else if n = 2 then seq [updBoot (fun b => { b with kind := 3 }), bootHubPower]
    else whenA (n == 0) (updPw fun p => { p with enables := [0, 1, 2, 3] ++ p.enables.filter fun e => 4 ≤ e })]

/-- A reset requested during a transition abandons it: the part ends in A0 (R652). -/
def abandon : Act := withS fun s => match s.pw.transition with
  | none => skip
  | some (n, _) =>
    if n < s.get PW_STATUS_STATE then updPw fun p => { p with transition := some (n, 0) }
    else if s.get PW_STATUS_STATE = 0 then seq [updPw (fun p => { p with transition := none }), setF PW_STATUS_TRANS 0,
      updBoot fun b => { b with harts := if b.harts = 2 then 1 else b.harts }]
    else beginLeg 0

/-! ### Per-die and per-engine reset -/

/-- The units of die `d`: its positions, its KV unit, its copy engines. -/
def dieUnits (d : Nat) : List Nat := (List.range 104).filter fun u => unitDie u == d

/-- The jobs of unit `u` end with ABORTED (R82, R178). -/
def abortUnit (u : Nat) : Act := seq [stopRunning u stABORTED, stopSuspended u stABORTED]

/-- The links that join die `d` come up (R63). -/
def linksUp (d : Nat) : Act := forA ((List.range 4).filter fun e => e != d) fun e => setF (BT_LINK_STAT_DOWN e (linkIndex e d)) 0

/-- A reset that R652 does not ignore: no power-on or warm reset is in progress. -/
def narrowReset (a : Act) : Act := whenS (fun s => s.boot.kind != 1 && s.boot.kind != 2) (seq [abandon, a])

/-- A per-die reset, and boot from step 9 for that die (R653, Table 17-8). A die that is off or in reset stays so. [DEDUCED: log entry 165] -/
def dieReset (d : Nat) : Act := whenS (fun s => !(dieOff s d)) (seq [
  forA (dieUnits d) abortUnit,
  loseDieMem d,
  restoreFields evDIE (diePages d),
  resetDieState d, linksUp d,
  applySpares (inScratch d),
  dieUp false d])

/-- A write of bit `d` of DIE by `init` (R653). -/
def execResetDie (init tkt d : Nat) (s : State) : Host.Outcome State Fault Refusal :=
  perform (Instr.wellFormed (.resetDie init tkt d)) (islandWrite init tkt 0 0x100 (2 ^ (8 + d)) (narrowReset (dieReset d))) s

/-- The unit that engine `g` serves, if it serves one. -/
def servedUnit (s : State) (g : Nat) : Option Nat :=
  if s.get (TE_STATUS_STATE g) == 1 then some (9 * (g / 9) + s.get (TE_STATUS_SERVES g)) else none

/-- A per-engine reset: jobs end with ABORTED; the position and the failed state stay (R178). A requested comparator test is
cancelled (R170). -/
def engineReset (g : Nat) : Act := withS fun s => seq [
  match servedUnit s g with
    | some u => abortUnit u
    | none => skip,
  restoreFields evENG [pageTE g],
  updEng (fun e => { e with sigTest := e.sigTest.filter fun x => x != g }),
  whenA (s.isl.awaiting.contains (55 + g)) (seq [setF (EL_CAR_RUNNING (55 + g)) 0,
    updIsl fun i => { i with awaiting := i.awaiting.filter fun e => e != 55 + g }])]

/-- A write of bit `g` of ENG by `init` (R178). -/
def execResetEng (init tkt g : Nat) (s : State) : Host.Outcome State Fault Refusal :=
  perform (Instr.wellFormed (.resetEng init tkt g)) (islandWrite init tkt 0 0x100 (2 ^ (28 + g)) (narrowReset (engineReset g))) s

/-! ### Island reset -/

/-- What an island reset loses and sets (R555, R654). [DEDUCED: log entry 170] -/
def islandFall : Act := seq [
  lose 0xE40C000000 0x400000,
  restoreFields evISL allPages,
  updIsl (fun _ => { State.reset.isl with stopDone := true }),
  setF TT_STATUS_OWNER_ISL 1, setF EL_NET_STAT_OWNER 1, setF EL_NET_STAT_STOPPED 1,
  setF BT_RST_CAUSE_ISL 1]

/-- ARM of the configuration record, and its check (R551, R654). [DEDUCED: log entry 158] -/
def armFromCfg : Act := withS fun s => match s.boot.cfg with
  | some c => seq [setF EL_NET_CFG_ARM (field c.netCfg 63 63), armCheck]
  | none => skip

/-- The island is up again after step 3 (R654). [DEDUCED: log entry 169] -/
def islandRise : Act := withS fun s => seq [firmwareStart, useHealth, loadIsland,
  forA (axes.filter fun a => s.get (TT_AXIS_ST_STATE a) == 1 || s.get (TT_AXIS_ST_STATE a) == 2) writeNetRecord,
  setupPass, armFromCfg]

/-- Step 4 of an island reset: the configuration record is verified again. -/
def reverify (s : State) : State := match bootCfg s with
  | none => s.act (seq [bootErr 2, updBoot fun b => { b with cfg := none }])
  | some (x, b) => s.act (seq [updBoot (fun y => { y with cfg := some x.2 }), bootSlot 3 b])

/-- The island is reset (R654); doubt reads START (R540). Without a valid image neither pair runs. Before the core PLL has locked
the island is in reset anyway. [DEDUCED: log entries 168, 170] -/
def islandReset (s : State) : State :=
  let t := s.act islandFall
  let t := { t with doubt := ⟨0x2000, 0xD, 5, t.timestamp⟩ }
  match islandImage t with
  | none => t.act (seq [bootErr 1, setF EL_NET_STAT_PAIR_OK 0])
  | some (_, b) => (reverify (t.act (bootSlot 1 b))).act islandRise

/-- Neither pair kicks for 10 ms (Table 14-4, R654). -/
def execIslandWatchdogExpiry (s : State) : Host.Outcome State Fault Refusal :=
  .next (if s.boot.step = 1 then s else islandReset s)

end Sys2Proof.Machine
end

