-- ==== Sys2Proof/Machine/Lowpower.lean ====
section
/-! DEFINITION. The low-power states A0, P1, P2 and P3: requests, the entries and exits, wake events (R621 to R628). -/

namespace Sys2Proof.Machine

/-- A unit of 0 to 103 holds a started or suspended job (R622). -/
def jobsHeld (s : State) : Bool := (List.range 104).any fun u =>
  (s.unit u).suspended.isSome || (match (s.unit u).running with | some j => j.started | none => false)

/-- The RESULT of a request for `target` (R622, Table 16-3). [DEDUCED: log entry 171] -/
def requestResult (s : State) (target : Nat) : Nat :=
  if s.pw.transition.isSome then 1
  else if 1 ≤ target && jobsHeld s then 2
  else if target = 3 && (s.planOn || s.someRun) then 3 else 0

/-- A write of TARGET `target` to PW_STATE_REQ by `init` (R621, R622). [DEDUCED: log entry 171] -/
def stateRequest (init tkt target : Nat) : Act := islandWrite init tkt pagePW 0x100 target (withS fun s =>
  let r := requestResult s target
  seq [setF PW_STATE_STAT_LAST_TARGET target, setF PW_STATE_STAT_RESULT r,
    if r != 0 then raiseInt pagePW 2 else whenA (s.get PW_STATUS_STATE != target) (beginLeg target)])

/-- A request for A0. -/
def execStateReqA0 (init tkt : Nat) (s : State) : Host.Outcome State Fault Refusal :=
  perform (Instr.wellFormed (.stateReqA0 init tkt)) (stateRequest init tkt 0) s

/-- A request for P1. -/
def execStateReqP1 (init tkt : Nat) (s : State) : Host.Outcome State Fault Refusal :=
  perform (Instr.wellFormed (.stateReqP1 init tkt)) (stateRequest init tkt 1) s

/-- A request for P2. -/
def execStateReqP2 (init tkt : Nat) (s : State) : Host.Outcome State Fault Refusal :=
  perform (Instr.wellFormed (.stateReqP2 init tkt)) (stateRequest init tkt 2) s

/-- A request for P3. -/
def execStateReqP3 (init tkt : Nat) (s : State) : Host.Outcome State Fault Refusal :=
  perform (Instr.wellFormed (.stateReqP3 init tkt)) (stateRequest init tkt 3) s

/-! ### Entries and exits -/

/-- P1 is entered: the dies lose power, with their memories and the fields that name P1 (R625, Table 17-8). [DEDUCED: log entry 174] -/
def enterP1 : Act := seq [
  updPw (fun p => { p with enables := p.enables.filter (fun e => 4 ≤ e), good := p.good.filter (fun e => 4 ≤ e), parked := p.good.filter fun e => e < 4 }),
  updBoot (fun b => { b with resetRunning := 15 }),
  forA (List.range 4) loseDieMem,
  restoreFields evP1 allPages,
  forA (List.range 4) resetDieState]

/-- P2 is entered: the clusters and L3 lose power, with their lines, the harts' state and their ticket CSRs (R327, R626). -/
def enterP2 : Act := seq [
  restoreFields evP2 allPages,
  updBus (fun b => { b with hartTkt := [], lines := [] }),
  updBoot fun b => { b with harts := if b.harts = 2 then 3 else b.harts }]

/-- P3 is entered: memory and hub lose power, with their contents and the fields that name P3 (R607, R627, Table 17-8). A unit
that R719 calls failed stays so. [DEDUCED: log entry 174] -/
def enterP3 : Act := withS fun s =>
  let failed := s.rm.units.filter fun u => u.2.failed
  seq [updPw (fun p => { p with enables := [], good := [] }),
    lose 0 0x2400000000, lose 0xE400000000 0x2000000, lose mapBase 0x3000000, lose 0xE408000000 0x20000,
    restoreFields evP3 allPages,
    resetHubState false,
    updRm (fun r => { r with units := failed.map fun u => (u.1, { UnitSt.idle with failed := true }) }),
    updBoot (fun b => { b with harts := 0 }),
    keepOwner, armCheck]

/-- A0 is entered: the dies are out of reset and HBM is back; the harts go on, at PW_RESUME when they lost their state (R625).
After P3 boot goes on with step 11. [DEDUCED: log entry 172] -/
def enterA0 (env : BootEnv) : Act := withS fun s => if s.boot.kind = 3 then
    seq [updBoot (fun b => { b with env := { b.env with trained := env.trained } }), bootDies, updBoot fun b => { b with kind := 0 }]
  else seq [forA (List.range 4) (fun d => whenA (s.pw.good.contains d) (dieUp false d)),
    updBoot fun b => { b with harts := if 2 ≤ b.harts then 1 else b.harts, hartsAt := if b.harts = 3 then s.get PW_RESUME_ADDR else b.hartsAt }]

/-- The step that runs can end: every rail that it asked for is good, and the hub is ready on the way out of P3. -/
def legReady (s : State) : Bool :=
  s.pw.enables.all (fun e => s.pw.good.contains e) && (s.boot.kind != 3 || s.boot.step == 9)

/-- What wakes the part: event kind (0 GPIO, 1 TCAP, 2 CAN) and number. -/
def wakeField (kind : Nat) : Fld × Fld :=
  if kind = 0 then (PW_WAKE_EN_GPIO, PW_WAKE_SRC_GPIO) else if kind = 1 then (PW_WAKE_EN_TCAP, PW_WAKE_SRC_TCAP)
  else (PW_WAKE_EN_CAN, PW_WAKE_SRC_CAN)

/-- A wake event takes effect in a low-power state in which no step runs (R628). [DEDUCED: log entry 173] -/
def wakeNow (kind i : Nat) : Act := withS fun s =>
  if s.get PW_STATUS_STATE = 0 || (kind = 2 && s.get PW_STATUS_STATE = 3) then skip else
  seq [setF (wakeField kind).2 (setBit (s.get (wakeField kind).2) i), raiseInt pagePW 0,
    whenA s.pw.transition.isNone (beginLeg 0)]

/-- The wake events that came during the entry take effect. [DEDUCED: log entry 173] -/
def wakeWaiting : Act := withS fun s => seq [updPw (fun p => { p with wakes := [] }), forA s.pw.wakes fun w => wakeNow w.1 w.2]

/-- The step to state `n` on the way to `target` ends; with P3's exit the hart timers return to 0 (R678). [DEDUCED: log entry 172] -/
def legDone (env : BootEnv) (n target : Nat) : Act := withS fun s =>
  let entry := s.get PW_STATUS_STATE < n
  seq [if entry then (if n = 1 then enterP1 else if n = 2 then enterP2 else enterP3)
      else if n = 0 then enterA0 env else whenA (n == 2) (updTime fun t => { t with mtime := 0, mtimecmp := [] }),
    setF PW_STATUS_STATE n,
    raiseInt pagePW 1,
    updPw (fun p => { p with transition := none }), setF PW_STATUS_TRANS 0,
    if n = target then whenA entry wakeWaiting else beginLeg target]

/-- The step that runs ends, if its rails are good. The window table of P3's exit is the configuration record's (R353). [DEDUCED: log entry 171] -/
def execStateDone (env : BootEnv) (s : State) : Host.Outcome State Fault Refusal := match s.pw.transition with
  | none => .next s
  | some (n, target) =>
    if !(legReady s) then .next s
    else .next (if n = 3 then (loadWindows s).act (legDone env n target) else s.act (legDone env n target))

/-- A wake event of a kind (0 a rising edge of GPIO[i], 1 a captured edge of TCAP[i], 2 a frame matched by CAN controller i) that
PW_WAKE_EN enables (R628). [DEDUCED: log entry 173] -/
def execWakeEvent (kind i : Nat) (s : State) : Host.Outcome State Fault Refusal :=
  perform (Instr.wellFormed (.wakeEvent kind i)) (whenS (fun s => bit (s.get (wakeField kind).1) i) (withS fun s =>
    match s.pw.transition with
    | some (n, _) => if s.get PW_STATUS_STATE < n then updPw fun p => { p with wakes := p.wakes ++ [(kind, i)] } else skip
    | none => wakeNow kind i)) s

end Sys2Proof.Machine
end

