-- ==== Sys2Proof/Machine/MidwayMap.lean ====
section
/-! DEFINITION. Midway's map: clearing, commit and copy, and the update jobs MAP_CELLS and MAP_FUSE (R430 to R442). -/

namespace Sys2Proof.Machine

/-- Page, unit and initiator of Midway. [DEDUCED: log entry 91] -/
def pageMW : Nat := 6
def unitMW : Nat := 106

/-- SDF_R, NX, NY, NZ as they act (Table 11-9). -/
def mwDims (s : State) : List Nat :=
  let one (v lim : Nat) : Nat := min lim (max 1 v)
  [one (s.get MW_MAP_CFG_SDF_R) 31, one (s.get MW_MAP_CFG_NX) 512, one (s.get MW_MAP_CFG_NY) 512, one (s.get MW_MAP_CFG_NZ) 64]

/-- The front and the back buffer. -/
def mwFront (s : State) : Nat := s.get MW_STATUS_FRONT
def mwBack (s : State) : Nat := 1 - mwFront s

/-- Midway waits: the map is being cleared, or, for an update job, copied (R435, R436). -/
def mwClearing (s : State) : Bool := s.is MW_STATUS_CLEARING
/-- The map is being cleared or copied: update jobs wait (R435, R436). [DEDUCED: log entry 90] -/
def mwBusyMap (s : State) : Bool := mwClearing s || s.is MW_STATUS_COPY_PEND

/-- A cell is within the configured dimensions. [DEDUCED: log entry 77] -/
def inMap (s : State) (x y z : Nat) : Bool :=
  let ds := mwDims s
  x < ds.getD 1 0 && y < ds.getD 2 0 && z < ds.getD 3 0

/-- The cell index of a cell. [DEDUCED: log entry 77] -/
def cellIndex (x y z : Nat) : Nat := z * 2 ^ 18 + y * 2 ^ 9 + x

/-! ### Midway's own accesses to the map SRAM -/

/-- Midway reads `n` bytes at offset `off` of the map SRAM: only fences and uncorrectable blocks stop it. -/
def mapReadE (s : State) (ecc : Ecc) (off n : Nat) : Except Stop (List Byte) :=
  let a := mapBase + off
  match s.wear.fenced.find? fun g => g < a + n && a < g + 65536 with
  | some g => .error ⟨stFENCED, 0, (stFENCED, max a g, 0)⟩
  | none => match firstBlock ecc.uncorr a n 8 with
    | some b => .error ⟨stUNCORR, 0, (stUNCORR, b, 0)⟩
    | none => .ok (tab n fun i => s.stored (a + i))

/-- Midway may access every one of a list of offsets of the map SRAM, and met no uncorrectable block in it. [DEDUCED: log entry 92] -/
def mapMeetsE (s : State) (ecc : Ecc) (offs : List Nat) : Except Stop Unit :=
  match ecc.uncorr.find? fun b => mapBase ≤ b && b < mapBase + 0x3000000 with
  | some b => .error ⟨stUNCORR, 0, (stUNCORR, b, 0)⟩
  | none => match offs.find? fun o => s.wear.fenced.contains ((mapBase + o) / 65536 * 65536) with
    | some o => .error ⟨stFENCED, 0, (stFENCED, mapBase + o, 0)⟩
    | none => .ok ()

/-- What a job of Midway met: corrected errors in the map SRAM, then what its reading procedure `f` met elsewhere, with its charges. -/
def mapCorr {α : Type} (tkt : Nat) (ecc : Ecc) (f : Ecc → Rd α) : Act := seq [
  noteCorr unitMW tkt ecc mapBase 0x3000000,
  runsE unitMW tkt { ecc with corr := ecc.corr.filter fun b => !(mapBase ≤ b && b < mapBase + 0x3000000) } f]

/-! ### An update in progress -/

/-- An update of the back buffer: the bits of the cells it touches, and the cells in the order in which their occupied state
first changed. [DEDUCED: log entry 79] -/
structure Upd where
  bits : SMap Nat
  order : List Nat

/-- The bits of a cell in an update. -/
def Upd.get (u : Upd) (s : State) (cell : Nat) : Nat := (mget u.bits cell).getD (cellBits s (mwBack s) cell)

/-- A cell takes new bits. -/
def Upd.set (u : Upd) (s : State) (cell v : Nat) : Upd :=
  let was := cellBits s (mwBack s) cell != 0
  ⟨mset u.bits cell v, if was != (v != 0) && !(u.order.contains cell) then u.order ++ [cell] else u.order⟩

/-- S of a cell becomes 1 or 0, D stays; D becomes 1 or 0, S stays. -/
def Upd.setS (u : Upd) (s : State) (cell : Nat) (on : Bool) : Upd := u.set s cell (u.get s cell / 2 * 2 + ofBool on)
def Upd.setD (u : Upd) (s : State) (cell : Nat) (on : Bool) : Upd := u.set s cell (u.get s cell % 2 + 2 * ofBool on)

/-- The cells whose occupied state at the end differs from that at the start (R438). -/
def Upd.changed (u : Upd) (s : State) : List Nat :=
  u.order.filter fun c => (u.get s c != 0) != (cellBits s (mwBack s) c != 0)

/-- The offsets in the map SRAM that an update writes: occupancy bytes of cells it touches, codes of cells that change. -/
def Upd.offsets (u : Upd) (s : State) : List Nat :=
  let b := 0x1400000 * mwBack s
  u.bits.map (fun q => b + q.1 / 4) ++ (u.changed s).map fun c => b + 0x400000 + c

/-- Ring entries by generation, newest first, with one more of generation `g`; without the oldest one; and their number. -/
def pushRun (g : Nat) : List (Nat × Nat) → List (Nat × Nat)
  | (h, n) :: r => if h = g then (g, n + 1) :: r else (g, 1) :: (h, n) :: r
  | [] => [(g, 1)]
def dropRun : List (Nat × Nat) → List (Nat × Nat)
  | [] => []
  | [(h, n)] => if n ≤ 1 then [] else [(h, n - 1)]
  | x :: y :: r => x :: dropRun (y :: r)
def runLength (rs : List (Nat × Nat)) : Nat := (rs.map Prod.snd).foldl (· + ·) 0

/-- One entry of the changed-cell ring (R438, R439). -/
def appendRing (cell : Nat) : Act := withS fun s =>
  let head := s.get MW_CHG_HEAD_CHG_HEAD
  let gen := s.get MW_GEN_FRONT_GEN + 1
  let full := 65536 ≤ runLength s.mw.ring
  seq [whenA full (seq [setF MW_LOST_GEN_LOST_GEN (max (s.get MW_LOST_GEN_LOST_GEN) ((s.mw.ring.getLast?.map Prod.fst).getD 0)), countF MW_CNT2_CHG_LOST 1, raiseInt pageMW 2]),
    store (mapBase + 0x2C00000 + 4 * (head % 65536)) (leBytes 4 (cell + gen % 256 * 2 ^ 24)),
    setF MW_CHG_HEAD_CHG_HEAD (head + 1),
    updMw fun m => { m with ring := pushRun gen (if full then dropRun m.ring else m.ring) }]

/-- Every distance code of buffer `b` is computed: from here on `State.stored` gives it by R432, in place of anything stored before
(R433, R435). -/
def computeCodes (b : Nat) (ds : List Nat) : Act := fun _ => [.fill (mapDist b) 0x1000000 (BitVec.ofInt 8 (-(4 * ds.getD 0 1 : Nat)))]

/-- An update ends: bits written, distance codes recomputed, ring entries appended (R433, R438). -/
def applyUpd (u : Upd) : Act := withS fun s =>
  let b := mwBack s
  let ds := mwDims s
  seq [forA u.bits (fun q => withS fun s =>
      let a := mapBuf b + q.1 / 4
      let k := 4 ^ (q.1 % 4)
      let v := (s.mem.byte a).toNat
      store a [BitVec.ofNat 8 (v - v / k % 4 * k + q.2 * k)]),
    updMw (fun m => if b = 0 then { m with dims0 := ds } else { m with dims1 := ds }),
    computeCodes b ds,
    forA (u.changed s) appendRing]

/-! ### MAP_CELLS -/

/-- The entries of a MAP_CELLS list applied in order; the count of those outside the map (R440). [DEDUCED: log entry 77] -/
def cellsUpd (s : State) (n : Nat) (bs : List Byte) : Upd × Nat :=
  (List.range n).foldl (fun r i =>
    let e := le bs (4 * i) 4
    let c := e % 2 ^ 24
    if inMap s (c % 512) (c / 512 % 512) (c / 2 ^ 18) then (r.1.setS s c (bit e 24), r.2) else (r.1, r.2 + 1)) (⟨[], []⟩, 0)

/-- MAP_CELLS (R440). [DEDUCED: log entries 91, 92] -/
def execMapCells (u : Nat) (ecc : Ecc) (s : State) : Host.Outcome State Fault Refusal :=
  perform (Instr.wellFormed (.mapCells u ecc)) (withS fun s => match workingJob s unitMW 0x90 with
    | none => skip
    | some j => if mwBusyMap s then skip else
      let n := dField j.desc 2 31 0
      seq [mapCorr j.ticket ecc (fun c => readE s unitMW j.ticket c (dField j.desc 1 47 0) (4 * n)), match readOk s unitMW j.ticket ecc (dField j.desc 1 47 0) (4 * n) with
      | .error x => seq [noteStop unitMW j.ticket x, failJob unitMW x.st j]
      | .ok bs =>
        let r := cellsUpd s n bs
        match mapMeetsE s ecc (r.1.offsets s) with
        | .error x => seq [noteStop unitMW j.ticket x, failJob unitMW x.st j]
        | .ok _ => seq [applyUpd r.1, countF MW_CNT2_OUT_OF_MAP r.2, endRunning unitMW stDONE]]) s

/-! ### MAP_FUSE -/

/-- An angle in FP32 radians as a 32-bit phase: the nearest integer to angle × 2³² / 2π (R442). [DESIGN CHOICE: log entry 88] [DEDUCED: log entry 89] -/
def phaseOf (s : State) (a : Nat) : Nat := match f32Val a with
  | .fin n m e =>
    let q := ratio m (e + 32 + fixBits)
    ofSigned 32 (if n then -(rne q.1 (q.2 * (2 * piFix)) : Int) else rne q.1 (q.2 * (2 * piFix)))
  | _ => (Config.freeWord s.fresh).toNat % 2 ^ 32

/-- The rotation by a phase about z (R408, R442). -/
def rotZ (ph : Nat) : List (List Nat) :=
  let sn := ropeLut ph
  let cs := ropeLut (ph + 0x40000000)
  [[cs, fneg sn, 0], [sn, cs, 0], [0, 0, fOne]]

/-- The centre of cell coordinate `i` on axis `a`. -/
def cellCentre (s : State) (a i : Nat) : Nat := fadd (s.get (MW_MAP_ORG_ORG a)) (fmul (f32 (.fin false (2 * i + 1) (-1))) (s.get MW_MAP_RES_RES))

/-- A MAP_FUSE parameter block (Table 11-2). -/
structure FusePar where
  bmpOff : Nat
  gridOff : Nat
  gy0 : Nat
  gx0 : Nat
  zHi : Nat
  zLo : Nat
  gs : Nat
  c : Nat
  gy : Nat
  gx : Nat
  occLo : Nat
  occHi : Nat
  b : List Nat
  yaw : Nat
  sig : Nat
  pad : Nat

/-- The parameter block in 64 bytes. [DEDUCED: log entry 93] -/
def fusePar (bs : List Byte) : FusePar :=
  let f (i : Nat) : Nat := le bs (4 * i) 4
  let w1 := le bs 8 8
  ⟨f 1, f 0, field w1 58 50, field w1 49 41, field w1 40 35, field w1 34 29, field w1 28 25, field w1 24 18, field w1 17 9, field w1 8 0,
    f 5, f 4, [f 6, f 7, f 8], f 9, f 11, f 10⟩

/-- The block has no reserved bit set and no field out of range (R463). -/
def fuseParOk (bs : List Byte) (p : FusePar) : Bool :=
  field (le bs 8 8) 63 59 == 0 && le bs 48 16 == 0 && p.zLo ≤ p.zHi && 1 ≤ p.gs && p.gs ≤ 8 && 1 ≤ p.c && p.c ≤ 64
    && 1 ≤ p.gx && p.gx ≤ 256 && 1 ≤ p.gy && p.gy ≤ 256

/-- The numbers from `a` to `b`. -/
def span (a b : Nat) : List Nat := (List.range (b + 1 - a)).map fun i => a + i

/-- The map cells of grid cell (gx, gy), within the configured dimensions. [DEDUCED: log entries 80, 81] -/
def gridCells (s : State) (p : FusePar) (gx gy : Nat) : List Nat :=
  (span p.zLo p.zHi).flatMap fun z => (List.range p.gs).flatMap fun j => (List.range p.gs).filterMap fun i =>
    let x := p.gx0 + gx * p.gs + i
    let y := p.gy0 + gy * p.gs + j
    if inMap s x y z then some (cellIndex x y z) else none

/-- Step 2 of R442: the grid and the dispute bitmap. [DEDUCED: log entry 81] -/
def gridUpd (s : State) (p : FusePar) (grid bmp : List Byte) (u : Upd) : Upd :=
  (List.range (p.gx * p.gy)).foldl (fun u k =>
    let o := f32 (decodeFloat (floatFmt 2) (le grid (2 * p.c * k) 2))
    let cs := gridCells s p (k % p.gx) (k / p.gx)
    if bit (le bmp (k / 8) 1) (k % 8) || fle p.occHi o then cs.foldl (fun u c => u.setS s c true) u
    else if fle o p.occLo then cs.foldl (fun u c => u.setS s c false) u
    else u) u

/-- The cells that a track covers (step 3 of R442), in ascending cell index. [DEDUCED: log entries 79, 80] -/
def trackCells (s : State) (p : FusePar) (rec : List Byte) : List Nat :=
  let f (i : Nat) : Nat := le rec (4 * i) 4
  let c := List.zipWith fadd (matVec (rotZ (phaseOf s p.yaw)) [f 2, f 3, f 4]) p.b
  let axis (a n : Nat) : List Nat := (List.range n).filter fun i =>
    fle (fabs (fsub (cellCentre s a i) (c.getD a 0))) (fadd (fmul p.sig (fsqrt (f (8 + a)))) p.pad)
  let ds := mwDims s
  let xs := axis 0 (ds.getD 1 0)
  let ys := axis 1 (ds.getD 2 0)
  (axis 2 (ds.getD 3 0)).flatMap fun z => ys.flatMap fun y => xs.map fun x => cellIndex x y z

/-- Step 3: each cell that is not dynamic yet becomes so and joins the list, while there is room. [DEDUCED: log entry 79] -/
def trackUpd (s : State) (cs : List Nat) (r : Upd × List Nat × Nat) : Upd × List Nat × Nat :=
  cs.foldl (fun r c =>
    if 2 ≤ r.1.get s c then r
    else if 32768 ≤ r.2.1.length then (r.1, r.2.1, r.2.2 + 1)
    else (r.1.setD s c true, r.2.1 ++ [c], r.2.2)) r

/-- What a MAP_FUSE job reads: parameters, grid, bitmap, tracks, the dynamic cells to clear. -/
structure FuseIn where
  p : FusePar
  grid : List Byte
  bmp : List Byte
  tracks : List Byte
  nTrk : Nat
  old : List Nat

/-- The reads of a MAP_FUSE job (R441, R442, R463). -/
def fuseReadE (s : State) (ecc : Ecc) (j : Job) : Rd FuseIn :=
  let res := dField j.desc 1 47 0
  do
    let pb ← readE s unitMW j.ticket ecc (dField j.desc 2 47 0) 64
    needE (fuseParOk pb (fusePar pb)) stILLEGAL
    let p := fusePar pb
    let h ← readE s unitMW j.ticket ecc res 64
    let n := le h 22 2
    let grid ← readE s unitMW j.ticket ecc (res + p.gridOff) (2 * p.gx * p.gy * p.c)
    let bmp ← readE s unitMW j.ticket ecc (res + p.bmpOff) (ceilDiv (p.gx * p.gy) 8)
    let tr ← readE s unitMW j.ticket ecc (res + 64) (64 * n)
    let dyn ← mapReadE s ecc 0x2C80000 (4 * s.mw.dynCount)
    return ⟨p, grid, bmp, tr, n, tab s.mw.dynCount fun i => le dyn (4 * i) 3⟩

/-- MAP_FUSE (R442). [DEDUCED: log entries 92, 247] -/
def execMapFuse (u : Nat) (ecc : Ecc) (s : State) : Host.Outcome State Fault Refusal :=
  perform (Instr.wellFormed (.mapFuse u ecc)) (withS fun s => match workingJob s unitMW 0x91 with
    | none => skip
    | some j => if mwBusyMap s then skip else
      seq [mapCorr j.ticket ecc (fun c => fuseReadE s c j), match result (fuseReadE s ecc j) with
      | .error x => seq [noteStop unitMW j.ticket x, if x.st = stILLEGAL then endRunning unitMW stILLEGAL else failJob unitMW x.st j]
      | .ok f =>
        let u1 := f.old.foldl (fun u c => u.setD s c false) ⟨[], []⟩
        let u2 := gridUpd s f.p f.grid f.bmp u1
        let r := (chunks 64 f.nTrk f.tracks).foldl (fun r t => trackUpd s (trackCells s f.p t) r) (u2, [], 0)
        match mapMeetsE s ecc (r.1.offsets s) with
        | .error x => seq [noteStop unitMW j.ticket x, failJob unitMW x.st j]
        | .ok _ => seq [applyUpd r.1,
            store (mapBase + 0x2C80000) (r.2.1.flatMap (leBytes 4)),
            updMw (fun m => { m with dynCount := r.2.1.length, genDyn := m.genDyn + f.old.length + r.2.1.length }),
            countF MW_CNT2_DYN_FULL r.2.2, whenA (r.2.2 != 0) (raiseInt pageMW 5),
            fun _ => [.bump],
            endRunning unitMW stDONE]]) s

/-! ### Clearing, commit and copy -/

/-- Setting MW_CTRL.EN clears the map (R435). [DESIGN CHOICE: log entry 78] -/
def clearMap : Act := withS fun s => if s.is MW_CTRL_EN then skip else seq [
  setF MW_CTRL_EN 1, setF MW_STATUS_CLEARING 1, setF MW_GEN_FRONT_GEN 0, setF MW_STATUS_MAP_VALID 0, setF MW_LOST_GEN_LOST_GEN 0,
  setF MW_CHG_HEAD_CHG_HEAD 0, setF MW_STATUS_SET_VALID 0, setF MW_STATUS_COPY_PEND 0,
  updMw (fun m => { m with dynCount := 0, genDyn := 0, ring := [], nCand := 0, startBad := false }),
  lose (mapBuf 0) 0x2800000]

/-- A write that sets MW_CTRL.EN (R435). [DESIGN CHOICE: log entry 78] -/
def execMapClear (init : Nat) (s : State) : Host.Outcome State Fault Refusal :=
  perform (Instr.wellFormed (.mapClear init)) (withS fun s => openWrite init (ticketOf s init) pageMW 0x010 8 clearMap) s

/-- The clear ends: every cell is occupied, with code −4 × SDF_R (R435). -/
def execMapClearDone (s : State) : Host.Outcome State Fault Refusal :=
  perform (Instr.wellFormed .mapClearDone) (withS fun s => if !(mwClearing s) then skip else
    let ds := mwDims s
    let fillAll (b : Nat) : Act := seq [fun _ => [.fill (mapBuf b) 0x400000 0x55#8], computeCodes b ds]
    seq [fillAll 0, fillAll 1, updMw (fun m => { m with dims0 := ds, dims1 := ds }), setF MW_STATUS_CLEARING 0]) s

/-- Midway writes to memory: to the map SRAM through its own port (R430). -/
def ownWrite (a : Nat) (bs : List Byte) : Act := forA (pieces a bs.length) fun q =>
  let part := (bs.drop (q.1 - a)).take q.2
  if ownMap unitMW q.1 then store q.1 part else writeRange q.1 part

/-- A suspended PLAN or EMIT loses its snapshot to the commit (R437). [DESIGN CHOICE: log entry 78] -/
def loseSnapshot : Act := withS fun s => match (s.unit unitMW).suspended with
  | some j => if j.status.isNone && (dOpcode j.desc == 0x93 || dOpcode j.desc == 0x94) then
      seq [stopSuspended unitMW 0x59, countF MW_CNT_SNAP_LOST 1, raiseInt pageMW 1] else skip
  | none => skip

/-- MAP_COMMIT: the back buffer becomes the front, and its copy begins (R436, R437, R439). The counts of the dynamic list that it clears
are those of `genDyn`. [DESIGN CHOICE: log entry 78] [DEDUCED: log entries 90, 247] -/
def execMapCommit (u : Nat) (s : State) : Host.Outcome State Fault Refusal :=
  perform (Instr.wellFormed (.mapCommit u)) (withS fun s => match workingJob s unitMW 0x92 with
    | none => skip
    | some _ => if mwBusyMap s then skip else
      let gen := (s.get MW_GEN_FRONT_GEN + 1) % 2 ^ 32
      seq [setF MW_STATUS_FRONT (mwBack s), setF MW_GEN_FRONT_GEN gen, setF MW_STATUS_MAP_VALID 1,
        setF MW_LOST_GEN_LOST_GEN (max (s.get MW_LOST_GEN_LOST_GEN) (gen - 255)),
        setF MW_STATUS_COPY_PEND 1, updMw (fun m => { m with genDyn := 0 }),
        loseSnapshot,
        lose (mapBuf (mwFront s)) 0x1400000,
        endRunning unitMW stDONE]) s

/-- The copy of the new front buffer into the new back buffer ends (R436). [DEDUCED: log entry 247] -/
def execMapCopyDone (s : State) : Host.Outcome State Fault Refusal :=
  perform (Instr.wellFormed .mapCopyDone) (withS fun s => if !(s.is MW_STATUS_COPY_PEND) then skip else
    let f := mwFront s
    seq [(fun _ => [.copyMem (mapBuf f) (mapBuf (1 - f)) 0x1400000]),
      updMw (fun m => if f = 0 then { m with dims1 := m.dims0 } else { m with dims0 := m.dims1 }),
      setF MW_STATUS_COPY_PEND 0]) s

end Sys2Proof.Machine
end

