-- ==== Sys2Proof/Machine/Trapeze.lean ====
section
/-! DEFINITION. Trapeze: Q32 sums (R468 to R473), problems (R465 to R478), the solve (R479 to R481), warm starts, outputs and
deadlines (R482 to R492), and CMD (R493 to R495). -/

namespace Sys2Proof.Machine

/-- Page and unit of Trapeze. -/
def pageTP : Nat := 5
def unitTP : Nat := 104

/-! ### Q32 arithmetic (R470 to R472) -/

/-- A term of a sum: an exact value and its fractional bits. -/
abbrev QTerm := Int × Nat

/-- The signed 64-bit range. -/
def in64 (i : Int) : Bool := -(2 ^ 63 : Int) ≤ i && i < 2 ^ 63
def lim64 (i : Int) : Int := if i < 0 then -(2 ^ 63 : Int) else 2 ^ 63 - 1

/-- The terms added in order at `pc` fractional bits; a term or a sum out of range takes the limit, which then stays. -/
def qAccum (pc : Nat) : List QTerm → Int → Int × Bool
  | [], acc => (acc, false)
  | t :: r, acc =>
    let v := t.1 * 2 ^ (pc - t.2)
    if !(in64 v) then (lim64 v, true)
    else if !(in64 (acc + v)) then (lim64 (acc + v), true)
    else qAccum pc r (acc + v)

/-- The largest fractional bit count among terms. -/
def qPoint (ts : List QTerm) : Nat := ts.foldl (fun p t => max p t.2) 0

/-- S(dst; terms) with the point `pd` of dst: value and saturation (R470). -/
def qSum (pd : Nat) (ts : List QTerm) : Int × Bool :=
  let a := qAccum (qPoint ts) ts 0
  let k := rescale 32 (qPoint ts) pd a.1
  (k.1, a.2 || k.2)

/-- div(a, b, dst) (R471). -/
def qDiv (a : Int) (pa : Nat) (b : Int) (pb pd : Nat) : Int × Bool :=
  if b = 0 then (if a = 0 then 0 else if a < 0 then -(2 ^ 31 : Int) else 2 ^ 31 - 1, true)
  else
    let m := rne (a.natAbs * 2 ^ (pb + pd)) (b.natAbs * 2 ^ pa)
    let v : Int := if decide (a < 0) != decide (b < 0) then -(m : Int) else m
    (satS 32 v, decide (satS 32 v ≠ v))

/-- sqrt(s, dst) of a sum with twice the fractional bits of dst (R472). -/
def qSqrt (v : Int) : Int :=
  let n := v.toNat
  let r := sqrtNat n
  min (2 ^ 31 - 1) ((if r * r + r < n then r + 1 else r : Nat) : Int)

/-- Values with their saturations. -/
def vals (xs : List (Int × Bool)) : List Int := xs.map Prod.fst
def anySat (xs : List (Int × Bool)) : Bool := xs.any Prod.snd

/-- Element `i`, and row `i`. -/
def at_ (xs : List Int) (i : Nat) : Int := xs.getD i 0
def row_ (xs : List (List Int)) (i : Nat) : List Int := xs.getD i []
def at2 (xs : List (List Int)) (i j : Nat) : Int := at_ (row_ xs i) j

/-! ### Problems (R465, R466, R469, R475, R476) -/

/-- A problem header (Table 12-4) with the dimensions it gives. -/
structure Hdr where
  pivLim : Nat
  dlLim : Nat
  iters : Nat
  warm : Bool
  best : Bool
  mpc : Bool
  n : Nat
  m : Nat
  mEq : Nat
  nh : Nat
  nx : Nat
  nu : Nat
  mi : Nat
  deadline : Nat
  sigma : Int
  rhoEq : Int
  rhoIn : Int
  pivThr : Int
  eps : Int
  addr : List Nat
  pt : List Nat

def Hdr.nw (h : Hdr) : Nat := h.nx + h.nu
def Hdr.p (h : Hdr) (i : Nat) : Nat := h.pt.getD i 0

/-- Entries of the point table (Table 12-2). -/
def ptP : Nat := 0
def ptQ : Nat := 1
def ptA : Nat := 2
def ptZ : Nat := 3
def ptX : Nat := 4
def ptY : Nat := 5
def ptRHO : Nat := 6
def ptRI : Nat := 7
def ptK : Nat := 8
def ptL : Nat := 9
def ptD : Nat := 10
def ptDI : Nat := 11
def ptW : Nat := 12
def ptH : Nat := 13
def ptRES : Nat := 14

/-- The header in 128 bytes. -/
def hdrOf (b : List Byte) : Hdr :=
  let w (i : Nat) : Nat := le b (8 * i) 8
  let q (i : Nat) : Int := toSigned 32 (le b (4 * i) 4)
  let mpc := bit (w 0) 32
  let nh := field (w 2) 5 0
  let nx := field (w 2) 13 8
  let nu := field (w 2) 21 16
  let mi := field (w 2) 29 24
  let mEq := field (w 1) 23 16
  { pivLim := field (w 0) 63 56, dlLim := field (w 0) 55 48, iters := field (w 0) 47 40, warm := bit (w 0) 34, best := bit (w 0) 33,
    mpc := mpc, n := if mpc then nh * (nx + nu) else field (w 1) 8 0, m := if mpc then nh * (nx + mi) else mEq + field (w 1) 41 32,
    mEq := if mpc then 0 else mEq, nh := nh, nx := nx, nu := nu, mi := mi, deadline := field (w 3) 19 0, sigma := q 8, rhoEq := q 9, rhoIn := q 10,
    pivThr := q 11, eps := q 12, addr := tab 5 fun i => w (7 + i), pt := tab 15 fun i => le b (96 + i) 1 % 32 }

/-- The bits of number `v` outside the fields listed as (hi, lo) are 0. -/
def onlyBits (v : Nat) (fs : List (Nat × Nat)) : Bool := (List.range 64).all fun b => fs.any (fun f => f.2 ≤ b && b ≤ f.1) || !(bit v b)

/-- The header passes the checks of R477 that come before the sizes. [DEDUCED: log entry 94] -/
def hdrOk (b : List Byte) (h : Hdr) : Bool :=
  let w (i : Nat) : Nat := le b (8 * i) 8
  onlyBits (w 0) [(63, 40), (34, 32)] && onlyBits (w 1) [(41, 32), (23, 16), (8, 0)]
    && onlyBits (w 2) [(29, 24), (21, 16), (13, 8), (5, 0)] && onlyBits (w 3) [(19, 0)] && onlyBits (w 6) [(31, 0)]
    && h.addr.all (fun a => a < 2 ^ 48) && (List.range 15).all (fun i => le b (96 + i) 1 < 32) && le b 111 17 == 0
    && 8 ≤ h.iters && h.iters ≤ 64 && h.deadline ≤ 550000 && 0 < h.sigma && 0 < h.rhoEq && 0 < h.rhoIn && 0 < h.eps
    && (if h.mpc then w 1 == 0 && (h.addr.drop 2).all (fun a => a == 0) && h.nh ≤ 32 && h.mi ≤ 48 && h.nx ≤ 32 && h.nu ≤ 32 && h.nw ≤ 48
          && (h.nh == 0 || (1 ≤ h.nx && 1 ≤ h.nu))
        else w 2 == 0 && h.n ≤ 384 && h.mEq ≤ 128 && h.m - h.mEq ≤ 768)

/-- Words of an MPC stage, and its bytes (R476). -/
def Hdr.words (h : Hdr) : Nat := h.nw * (h.nw + 1) / 2 + h.nw + h.nx * h.nx + h.nx * h.nu + h.nx + h.mi * h.nw + 2 * h.mi
def Hdr.stageBytes (h : Hdr) : Nat := ceilDiv (4 * h.words) 64 * 64

/-- The shape fields of a state block: NH, MI, NU, NX, M_EQ. [DEDUCED: log entry 94] -/
def Hdr.shape (h : Hdr) : List Nat := if h.mpc then [h.nh, h.mi, h.nu, h.nx, 0] else [0, 0, 0, 0, h.mEq]

/-- The problem in the operand store: P and A by rows, q, bounds, equality rows, ρ. -/
structure Prob where
  p : List (List Int)
  q : List Int
  a : List (List Int)
  lo : List Int
  hi : List Int
  eq : List Bool
  rho : List Int

/-- `n` signed 32-bit values from offset `o` of a byte string. -/
def q32s (b : List Byte) (o n : Nat) : List Int := tab n fun i => toSigned 32 (le b (o + 4 * i) 4)

/-- Element (i, j) of a symmetric matrix stored as its lower triangle. -/
def tri (t : List Int) (i j : Nat) : Int := at_ t (max i j * (max i j + 1) / 2 + min i j)

/-- A dense problem from its arrays P, q, A, l, u (R476). -/
def denseProb (h : Hdr) (bs : List (List Byte)) : Prob :=
  let t := q32s (bs.getD 0 []) 0 (h.n * (h.n + 1) / 2)
  let lo := q32s (bs.getD 3 []) 0 h.m
  let hi := q32s (bs.getD 4 []) 0 h.m
  let eq := tab h.m fun r => decide (r < h.mEq)
  { p := tab h.n fun i => tab h.n fun j => tri t i j, q := q32s (bs.getD 1 []) 0 h.n, a := tab h.m fun r => q32s (bs.getD 2 []) (4 * r * h.n) h.n,
    lo := lo, hi := tab h.m fun r => if eq.getD r false then at_ lo r else at_ hi r, eq := eq,
    rho := tab h.m fun r => if r < h.mEq then h.rhoEq else h.rhoIn }

/-- The arrays of one stage (R476). -/
structure Stage where
  hk : List Int
  g : List Int
  a : List Int
  b : List Int
  c : List Int
  gm : List Int
  lo : List Int
  hi : List Int

/-- Stage `k` in the stage blocks; A, B and G by rows. [DEDUCED: log entry 99] -/
def stageOf (h : Hdr) (bs : List Byte) (k : Nat) : Stage :=
  let w := q32s bs (k * h.stageBytes) h.words
  let o1 := h.nw * (h.nw + 1) / 2
  let o2 := o1 + h.nw
  let o3 := o2 + h.nx * h.nx
  let o4 := o3 + h.nx * h.nu
  let o5 := o4 + h.nx
  let o6 := o5 + h.mi * h.nw
  let sub (o n : Nat) : List Int := (w.drop o).take n
  ⟨sub 0 o1, sub o1 h.nw, sub o2 (h.nx * h.nx), sub o3 (h.nx * h.nu), sub o4 h.nx, sub o5 (h.mi * h.nw), sub o6 h.mi, sub (o6 + h.mi) h.mi⟩

/-- The banded problem assembled as a dense one (R466, Table 12-1). [DEDUCED: log entry 99] -/
def mpcProb (h : Hdr) (stages x0 : List Byte) : Prob :=
  let st := tab h.nh (stageOf h stages)
  let s (k : Nat) : Stage := st.getD k ⟨[], [], [], [], [], [], [], []⟩
  let nw := h.nw
  let nr := h.nx + h.mi
  let one : Int := satS 32 (2 ^ h.p ptA)
  let neg (v : Int) : Int := satS 32 (-v)
  let x0s := q32s x0 0 h.nx
  let coef (r c : Nat) : Int :=
    let k := r / nr
    let i := r % nr
    let b := c / nw
    let j := c % nw
    if h.nx ≤ i then (if b = k then at_ (s k).gm ((i - h.nx) * nw + j) else 0)
    else if b = k then (if j = i then one else 0)
    else if b + 1 = k then (if j < h.nx then neg (at_ (s b).a (i * h.nx + j)) else neg (at_ (s b).b (i * h.nu + (j - h.nx))))
    else 0
  let bound (f : Stage → List Int) (r : Nat) : Int :=
    let k := r / nr
    let i := r % nr
    if h.nx ≤ i then at_ (f (s k)) (i - h.nx) else if k = 0 then at_ x0s i else at_ (s (k - 1)).c i
  { p := tab h.n fun i => tab h.n fun j => if i / nw = j / nw then tri (s (i / nw)).hk (i % nw) (j % nw) else 0, q := st.flatMap Stage.g,
    a := tab h.m fun r => tab h.n fun c => coef r c, lo := tab h.m (bound Stage.lo), hi := tab h.m (bound Stage.hi),
    eq := tab h.m fun r => decide (r % nr < h.nx), rho := tab h.m fun r => if r % nr < h.nx then h.rhoEq else h.rhoIn }

/-! ### The factorisation (R479) -/

/-- A factor: L by rows, 1/d, 1/ρ, flagged pivots, first of them, saturation. -/
structure Factor where
  l : List (List Int)
  w : List (List Int)
  d : List Int
  di : List Int
  ri : List Int
  nPiv : Nat
  first : Nat
  ovf : Bool

/-- K by rows of its lower triangle, with 1/ρ and saturation. -/
def formK (h : Hdr) (x : Prob) : List (List Int) × List Int × Bool :=
  let ri := x.rho.map fun v => qDiv 1 0 v (h.p ptRHO) (h.p ptRI)
  let ra := (x.a.zip x.rho).map fun q => q.1.map fun a => qSum (h.p ptA) [(q.2 * a, h.p ptRHO + h.p ptA)]
  let raV := ra.map vals
  let k := tab h.n fun i => tab (i + 1) fun j => qSum (h.p ptK) ((at2 x.p i j, h.p ptP) :: ((if i = j then h.sigma else 0), h.p ptRHO)
    :: tab h.m fun r => (at2 x.a r i * at2 raV r j, 2 * h.p ptA))
  (k.map vals, vals ri, anySat ri || ra.any anySat || k.any anySat)

/-- Column `j` of the factor. -/
def factorColumn (h : Hdr) (k : List (List Int)) (f : Factor) (j : Nat) : Factor :=
  let less (i : Nat) (pd : Nat) : Int × Bool := qSum pd ((at2 k i j, h.p ptK) :: tab j fun q => (-(at2 f.l i q) * at2 f.w j q, h.p ptL + h.p ptW))
  let d0 := less j (h.p ptD)
  let flag := decide (d0.1 < h.pivThr)
  let d := if flag then qSum (h.p ptD) [(max d0.1 0, h.p ptD), (h.eps, h.p ptD)] else (d0.1, false)
  let di := qDiv 1 0 d.1 (h.p ptD) (h.p ptDI)
  let ws := tab h.n fun i => if i ≤ j then (0, false) else less i (h.p ptW)
  let ls := ws.map fun w => qSum (h.p ptL) [(w.1 * di.1, h.p ptW + h.p ptDI)]
  let grow (old : List (List Int)) (new : List (Int × Bool)) : List (List Int) := old.zipIdx.map fun r => if r.2 ≤ j then r.1 else r.1 ++ [(new.getD r.2 (0, false)).1]
  ⟨grow f.l ls, grow f.w ws, f.d ++ [d.1], f.di ++ [di.1], f.ri, if flag then f.nPiv + 1 else f.nPiv,
    if flag && f.nPiv == 0 then j else f.first, f.ovf || d0.2 || d.2 || di.2 || anySat ws || anySat ls⟩

/-- The factor of a problem. -/
def factor (h : Hdr) (x : Prob) : Factor :=
  let k := formK h x
  (List.range h.n).foldl (factorColumn h k.1)
    ⟨List.replicate h.n [], List.replicate h.n [], [], [], k.2.1, 0, 0xFFFF, k.2.2⟩

/-! ### The iterations (R480) -/

/-- An iterate with its residuals and norms. -/
structure Iter where
  it : Nat
  x : List Int
  z : List Int
  y : List Int
  resP : Int
  resD : Int
  nrmP : Int
  nrmD : Int
  ovf : Bool

def Iter.res (i : Iter) : Int := max i.resP i.resD

/-- Forward substitution h[i] = S(H; h[i], −l[i][0] h[0], …). -/
def forwardSub (h : Hdr) (l : List (List Int)) (v : List Int) : List (Int × Bool) :=
  (List.range h.n).foldl (fun acc i => acc ++ [qSum (h.p ptH) ((at_ v i, h.p ptH) :: tab i fun k => (-(at2 l i k) * (acc.getD k (0, false)).1, h.p ptL + h.p ptH))]) []

/-- Backward substitution x[i] = S(X; h[i], −l[i+1][i] x[i+1], …). -/
def backSub (h : Hdr) (l : List (List Int)) (v : List Int) : List (Int × Bool) :=
  (List.range h.n).foldr (fun i acc => qSum (h.p ptX) ((at_ v i, h.p ptH)
    :: acc.zipIdx.map fun q => (-(at2 l (i + 1 + q.2) i) * q.1.1, h.p ptL + h.p ptX)) :: acc) []

/-- The largest magnitude of residuals, as a Q32 code. -/
def maxRes (xs : List Int) : Int := xs.foldl (fun m v => max m (min (v.natAbs : Int) (2 ^ 31 - 1))) 0

/-- The norm of residuals. -/
def normRes (h : Hdr) (xs : List Int) : Int := qSqrt (qAccum (2 * h.p ptRES) (xs.map fun v => (v * v, 2 * h.p ptRES)) 0).1

/-- One iteration. -/
def iterate (h : Hdr) (x : Prob) (f : Factor) (v : Iter) : Iter :=
  let t := tab h.m fun r => qSum (h.p ptY) [(at_ x.rho r * at_ v.z r, h.p ptRHO + h.p ptZ), (-(at_ v.y r), h.p ptY)]
  let tV := vals t
  let h0 := tab h.n fun i => qSum (h.p ptH) ((h.sigma * at_ v.x i, h.p ptRHO + h.p ptX) :: (-(at_ x.q i), h.p ptQ)
    :: tab h.m fun r => (at2 x.a r i * at_ tV r, h.p ptA + h.p ptY))
  let h1 := forwardSub h f.l (vals h0)
  let h2 := (h1.zip f.di).map fun q => qSum (h.p ptH) [(q.1.1 * q.2, h.p ptH + h.p ptDI)]
  let xs := backSub h f.l (vals h2)
  let xV := vals xs
  let vs := x.a.map fun r => qSum (h.p ptZ) ((r.zip xV).map fun q => (q.1 * q.2, h.p ptA + h.p ptX))
  let zs := tab h.m fun r => qSum (h.p ptZ) [((vs.getD r (0, false)).1, h.p ptZ), (at_ v.y r * at_ f.ri r, h.p ptY + h.p ptRI)]
  let zV := tab h.m fun r => if x.eq.getD r false then at_ x.lo r else min (max (zs.getD r (0, false)).1 (at_ x.lo r)) (at_ x.hi r)
  let ys := tab h.m fun r => qSum (h.p ptY) [(at_ v.y r, h.p ptY), (at_ x.rho r * (vs.getD r (0, false)).1, h.p ptRHO + h.p ptZ),
    (-(at_ x.rho r) * at_ zV r, h.p ptRHO + h.p ptZ)]
  let yV := vals ys
  let e := tab h.m fun r => (qSum (h.p ptRES) [((vs.getD r (0, false)).1, h.p ptZ), (-(at_ zV r), h.p ptZ)]).1
  let g := tab h.n fun i => (qSum (h.p ptRES) (((row_ x.p i).zip xV).map (fun q => (q.1 * q.2, h.p ptP + h.p ptX)) ++ [(at_ x.q i, h.p ptQ)]
    ++ tab h.m fun r => (at2 x.a r i * at_ yV r, h.p ptA + h.p ptY))).1
  { it := v.it + 1, x := xV, z := zV, y := yV, resP := maxRes e, resD := maxRes g, nrmP := normRes h e, nrmD := normRes h g,
    ovf := v.ovf || anySat t || anySat h0 || anySat h1 || anySat h2 || anySat xs || anySat vs || anySat zs || anySat ys }

/-- Iterations from `v` on: at most `n` more, until `stop` holds at the end of one that is not the last: the last iterate
and the best. [DESIGN CHOICE: log entry 100] -/
def iterations (h : Hdr) (x : Prob) (f : Factor) (stop : Nat → Bool) : Nat → Iter → Option Iter → Iter × Option Iter
  | 0, v, best => (v, best)
  | n + 1, v, best =>
    let w := iterate h x f v
    let best := match best with
      | none => some w
      | some b => if w.res < b.res then some w else some b
    if w.it < h.iters && stop w.it then (w, best) else iterations h x f stop n w best

/-! ### Warm start and state block (R482, R483) -/

/-- A state block as a job takes it: the start, cold, the stored DL_RUN, and whether the point table has changed since it was written
(R484). -/
structure Start where
  x : List Int
  z : List Int
  y : List Int
  cold : Bool
  dlRun : Nat
  moved : Bool

/-- The values of stage k + 1 at stage k; the last stage keeps its own. -/
def shiftStages (per nh : Nat) (v : List Int) : List Int := (List.range nh).flatMap fun k =>
  (v.drop ((if k + 1 < nh then k + 1 else k) * per)).take per

/-- The start from the state block `b`, of which Trapeze wrote `was` last. [DEDUCED: log entry 96] -/
def startOf (h : Hdr) (was : Option TpBlock) (b : List Byte) : Start :=
  let w0 := le b 0 8
  let w3 := le b 24 8
  let shape := [le b 20 1, le b 19 1, le b 18 1, le b 17 1, le b 16 1]
  let ok := h.warm && bit w0 63 && bit w0 62 == h.mpc && field w0 15 0 == h.n && field w0 47 32 == h.m && shape == h.shape
  let sh (per : Nat) (v : List Int) : List Int := if h.mpc then shiftStages per h.nh v else v
  if ok then
    ⟨sh h.nw (q32s b 64 h.n), sh (h.nx + h.mi) (q32s b (64 + 4 * h.n) h.m), sh (h.nx + h.mi) (q32s b (64 + 4 * (h.n + h.m)) h.m), false,
      field w0 55 48, [field w3 4 0, field w3 9 5, field w3 14 10] != [h.p ptX, h.p ptZ, h.p ptY] || was.any (fun w => w.header == b.take 64 && w.table != h.pt)⟩
  else ⟨List.replicate h.n 0, List.replicate h.m 0, List.replicate h.m 0, true, 0, false⟩

/-! ### Time (R486, R487, R496) -/

/-- Latency of a path from the hub, and the turnstile ports it crosses (Table 2-8, Table 8-4, R718). [DEDUCED: log entry 98] -/
def hubPath (a : Nat) (write : Bool) : Nat × List Nat := match region a with
  | .stack k _ => (660, [k, (if write then 28 else 24) + k])
  | .sram d _ _ => (220, [(if write then 28 else 24) + d])
  | .scratch d _ => (220, [(if write then 28 else 24) + d])
  | .hubSram _ | .mapSram _ | .logRing _ => (330, [32])
  | _ => (330, [])

/-- ⌈1.1 × B / G⌉ with G in units of 0.1 GB/s. [DESIGN CHOICE: log entry 97] -/
def transferTime (b g : Nat) : Nat := ceilDiv (11 * b) g

/-- The smallest rate that a ticket holds at a list of ports; 140.8 GB/s with none (R83). [DESIGN CHOICE: log entry 97] [DEDUCED: log entry 98] -/
def pathRate (s : State) (tkt : Nat) (ports : List Nat) : Nat := match ports.map (fun p => tsRate s p tkt) with
  | [] => 1408
  | r :: rs => rs.foldl min r

/-- The formula times of a SOLVE: T_in, T_setup, T_it, T_out (R496). A ticket with rate 0 on a path gives no bound (R83):
a free value stands for it. -/
structure Times where
  tIn : Nat
  tSetup : Nat
  tIt : Nat
  tOut : Nat

/-- The data arrays of a problem: addresses and sizes in bytes. -/
def Hdr.arrays (h : Hdr) : List (Nat × Nat) :=
  if h.mpc then [(h.addr.getD 0 0, h.nh * h.stageBytes), (h.addr.getD 1 0, 4 * h.nx)]
  else [(h.addr.getD 0 0, 2 * h.n * (h.n + 1)), (h.addr.getD 1 0, 4 * h.n), (h.addr.getD 2 0, 4 * h.m * h.n), (h.addr.getD 3 0, 4 * h.m), (h.addr.getD 4 0, 4 * h.m)]

/-- The size of a state block and of an output record: header, x, z and y. -/
def Hdr.blockBytes (h : Hdr) : Nat := 64 + 4 * (h.n + 2 * h.m)

/-- The paths of ranges, in every granule that they touch; a range of no bytes has none. -/
def rangePaths (rs : List (Nat × Nat)) (write : Bool) : List (Nat × List Nat) :=
  (rs.flatMap fun r => (pieces r.1 r.2).map fun q => hubPath q.1 write).eraseDups

/-- The formula times. [DESIGN CHOICE: log entries 97, 227] -/
def timesOf (s : State) (h : Hdr) (tkt prob st out : Nat) : Times :=
  let reads := rangePaths ((prob, 128) :: (st, h.blockBytes) :: h.arrays) false
  let writes := rangePaths [(out, h.blockBytes), (st, h.blockBytes)] true
  let g := pathRate s tkt ((reads ++ writes).flatMap Prod.snd)
  let cs := (reads.map Prod.fst).foldl max 0
  let cd := (writes.map Prod.fst).foldl max 0
  let n := h.n
  let m := h.m
  let sb := 64 + 4 * (n + 2 * m)
  let arrays := if h.mpc then h.nh * h.stageBytes + 4 * h.nx else 4 * (n * (n + 1) / 2 + n + m * n + 2 * m)
  let b := 2 * h.nw - 1
  let zz := h.nx + (h.nh - 1) * h.nx * (h.nw + 1) + h.nh * h.mi * h.nw
  let s2 := h.nx + (h.nh - 1) * h.nx * (h.nw + 1) * (h.nw + 2) / 2 + h.nh * h.mi * h.nw * (h.nw + 1) / 2
  let move (b : Nat) : Nat := if g = 0 then (Config.freeWord s.fresh).toNat else transferTime b g
  { tIn := cs + move (128 + arrays + sb), tOut := 200 + cd + move (2 * sb),
    tSetup := if h.mpc then 40 + m + ceilDiv zz 256 + ceilDiv s2 256 + 25 * n + ceilDiv (n * b * (b + 1)) 256
      else 40 + m + ceilDiv (m * n) 256 + ceilDiv (n * (n + 1) * m) 512 + 25 * n + ceilDiv (n ^ 3 - n) 1536,
    tIt := 120 + 20 * n + (if h.mpc then ceilDiv (3 * zz + 2 * n * b + h.nh * h.nw * h.nw + n + 5 * m) 256
      else ceilDiv (3 * m * n + 2 * n * n + n + 5 * m) 256) }

/-! ### The output (R485, R488 to R492) -/

/-- The type of the slot that a job belongs to: 1 CTRL, 2 PERC, 0 none or SAFE. -/
def jobSlotType (s : State) (j : Job) : Nat := match j.slot.bind s.slot with
  | some t => if t.typ = 1 ∨ t.typ = 2 then t.typ else 0
  | none => 0

/-- What a SOLVE writes: x, z, y, residuals and norms, flags SHIFT and BEST, iterations run, best iteration, flagged
pivots, first of them, overflow. -/
structure Output where
  x : List Int
  z : List Int
  y : List Int
  resP : Nat
  resD : Nat
  nrmP : Nat
  nrmD : Nat
  shift : Bool
  best : Bool
  run : Nat
  bestIt : Nat
  nPiv : Nat
  first : Nat
  ovf : Bool

def Output.res (o : Output) : Nat := max o.resP o.resD

/-- A code as 32 bits. -/
def code32 (i : Int) : Nat := ofSigned 32 i

/-- The output of an iterate. [DEDUCED: log entry 101] -/
def outputOf (v : Iter) (best : Bool) (run bestIt : Nat) (f : Factor) (ovf : Bool) : Output :=
  ⟨v.x, v.z, v.y, v.resP.toNat, v.resD.toNat, v.nrmP.toNat, v.nrmD.toNat, false, best, run, bestIt, f.nPiv, f.first, ovf⟩

/-- The output of SHIFT: the warm start (R488). [DEDUCED: log entry 101] -/
def shiftOutput (st : Start) (run bestIt nPiv first : Nat) (ovf : Bool) : Output :=
  ⟨st.x, st.z, st.y, 0x7FFFFFFF, 0x7FFFFFFF, 0x7FFFFFFF, 0x7FFFFFFF, true, false, run, bestIt, nPiv, first, ovf⟩

/-- x, z, y as bytes. -/
def Output.vectors (o : Output) : List Byte := (o.x ++ o.z ++ o.y).flatMap fun v => leBytes 4 (code32 v)

/-- The flags of an output record. [DEDUCED: log entry 101] -/
def Output.flags (o : Output) (cold : Bool) : Nat :=
  ofBool (o.nPiv != 0) + 2 * ofBool o.ovf + 4 * ofBool o.shift + 8 * ofBool o.best + 16 * ofBool cold

/-- The output record's header (Table 12-6). -/
def recordHeader (time : Nat) (o : Output) (cold : Bool) : List Byte :=
  leBytes 8 time ++ leBytes 8 (o.nPiv * 2 ^ 48 + o.first * 2 ^ 32 + o.bestIt * 2 ^ 16 + o.run * 2 ^ 8 + o.flags cold)
    ++ leBytes 8 (o.resD * 2 ^ 32 + o.resP) ++ leBytes 8 (o.nrmD * 2 ^ 32 + o.nrmP) ++ leBytes 8 o.res ++ List.replicate 24 0#8

/-- The state block's header (Table 12-5). -/
def stateHeader (s : State) (h : Hdr) (o : Output) (dlRun : Nat) : List Byte :=
  let sh := h.shape
  leBytes 8 (2 ^ 63 + ofBool h.mpc * 2 ^ 62 + dlRun * 2 ^ 48 + h.m * 2 ^ 32 + h.n) ++ leBytes 8 (frameNumber s)
    ++ leBytes 8 (sh.getD 0 0 * 2 ^ 32 + sh.getD 1 0 * 2 ^ 24 + sh.getD 2 0 * 2 ^ 16 + sh.getD 3 0 * 2 ^ 8 + sh.getD 4 0)
    ++ leBytes 8 (o.res * 2 ^ 32 + h.p ptY * 2 ^ 10 + h.p ptZ * 2 ^ 5 + h.p ptX) ++ List.replicate 32 0#8

/-- A count or flag beyond policy in a CTRL slot raises doubt (R490). -/
def solverDoubt (chk : Fld) : Act := seq [setF chk 1, assertWire 6 4]

/-- A job set OVF: counted, reported and, in a CTRL slot, doubted (R490, R494). -/
def reportOvf (ctrl : Bool) : Act := seq [countF TP_CNT_OVF_JOBS 1, raiseInt pageTP 1, whenA ctrl (solverDoubt TP_CHK_OVF_SEEN)]

/-- The flags of a SOLVE that completes, whatever its status (R490, R492). -/
def reportFlags (h : Hdr) (o : Output) (ctrl : Bool) : Act := seq [
  whenA o.ovf (reportOvf ctrl),
  whenA (o.nPiv != 0) (seq [countF TP_CNT_PIV_JOBS 1, raiseInt pageTP 0]),
  whenA (ctrl && h.pivLim < o.nPiv) (solverDoubt TP_CHK_PIV_SEEN)]

/-- The counts, interrupts and checks of a SOLVE that wrote an output (R490, R492). -/
def reportSolve (h : Hdr) (o : Output) (cold : Bool) (status : Nat) (ctrl : Bool) : Act := seq [
  countF TP_CNT_SOLVES 1,
  reportFlags h o ctrl,
  whenA (o.shift || o.best) (seq [countF TP_CNT_DL_OUT 1, raiseInt pageTP 2]),
  whenA (status == 0x41) (raiseInt pageTP 3), whenA (status == 0x40) (raiseInt pageTP 4),
  setF TP_LAST_RES o.res, setF TP_LAST_BEST_IT o.bestIt, setF TP_LAST_ITERS_RUN o.run, setF TP_LAST_FLAGS (o.flags cold)]

/-- A SOLVE writes its output record and its state block, header last, and ends (R485, R489, R491). [DEDUCED: log entries 95, 96] -/
def finishSolve (h : Hdr) (j : Job) (st : Start) (o : Output) : Act := withS fun s =>
  let out := dField j.desc 3 47 0
  let sa := dField j.desc 2 47 0
  let size := h.blockBytes
  let dl := o.shift || o.best
  let dlRun := if dl then satU 8 (st.dlRun + 1) else 0
  let ctrl := jobSlotType s j == 1
  let status := if ctrl && dl && st.cold then 0x40 else if ctrl && h.dlLim < dlRun then 0x41 else stDONE
  accessAll unitTP j.ticket ⟨[], []⟩ [(1, out, size), (1, sa, size)]
    (seq [writeRange out (recordHeader j.beganTk o st.cold ++ o.vectors), writeRange (sa + 64) o.vectors, writeRange sa (stateHeader s h o dlRun),
      fun s => [.setTp (mset s.tp (phys s sa) ⟨stateHeader s h o dlRun, h.pt⟩)],
      whenA (st.moved || j.spoiled) (seq [loseRange out size, loseRange sa size]),
      reportSolve h o st.cold status ctrl,
      endRunning unitTP status])
    (fun bad => seq [reportFlags h o ctrl, endRunning unitTP bad])

/-- The job names the same state block as the suspended job of Trapeze: both become unpredictable (R495). -/
def stateBlockOf (d : List Byte) : Nat := if dOpcode d = 0xA0 then dField d 2 47 0 else dField d 1 47 0
def noteOverlap (j : Job) : Act := withS fun s => match (s.unit unitTP).suspended with
  | some k => if stateBlockOf k.desc == stateBlockOf j.desc && k.status.isNone then
      updUnit unitTP (fun t => { t with running := t.running.map (fun j => { j with spoiled := true }), suspended := some { k with spoiled := true } })
      else skip
  | none => skip

/-- The result of a SOLVE whose data are loaded: iterations end at `times`, or at their formula times where the list is
shorter (R480, R481, R487, R488). [DESIGN CHOICE: log entries 100, 224] -/
def solveAll (h : Hdr) (x : Prob) (st : Start) (start : Nat) (times : List Nat) (dl : Nat) (t : Times) : Output :=
  let f := factor h x
  let base := start + 300 + t.tIn + t.tSetup
  let stop (it : Nat) : Bool := dl != 0 && dl < (times[it - 1]?).getD (base + it * t.tIt) + t.tIt + t.tOut
  let v0 : Iter := ⟨0, st.x, st.z, st.y, 0, 0, 0, 0, f.ovf⟩
  let r := iterations h x f stop h.iters v0 none
  let bestIt := (r.2.map Iter.it).getD 0
  if r.1.it = h.iters then outputOf r.1 false r.1.it bestIt f r.1.ovf
  else match h.best, r.2 with
    | true, some b => outputOf b true r.1.it bestIt f r.1.ovf
    | _, _ => shiftOutput st r.1.it bestIt f.nPiv f.first r.1.ovf

/-- A read of the operand store cannot be corrected (R468). -/
def storeFails (j : Job) : Act := seq [whenA (j.ticket < 8) (assertWire 5 4), failJob unitTP stUNCORR j]

/-- A read of SOLVE fails: output record and state block stay (R485). -/
def solveStops (j : Job) (x : Stop) : Act := seq [noteStop unitTP j.ticket x, endRunning unitTP x.st]

/-- A SOLVE reads these ranges: their corrected errors and charges (R58, R332). -/
def solveReads (s : State) (j : Job) (ecc : Ecc) (rs : List (Nat × Nat)) : Act :=
  runsE unitTP j.ticket ecc fun c => mapE (fun a => readE s unitTP j.ticket c a.1 a.2) rs

/-- SOLVE (R477 to R492). [DESIGN CHOICE: log entries 23, 100] -/
def execSolve (u : Nat) (times : List Nat) (store : Bool) (ecc : Ecc) (s : State) : Host.Outcome State Fault Refusal :=
  perform (Instr.wellFormed (.solve u times store ecc)) (withS fun s => match workingJob s unitTP 0xA0 with
    | none => skip
    | some j =>
      let prob := dField j.desc 1 47 0
      let sa := dField j.desc 2 47 0
      match readOk s unitTP j.ticket ecc prob 128 with
      | .error x => solveStops j x
      | .ok b =>
        let h := hdrOf b
        let size := h.blockBytes
        seq [solveReads s j ecc [(prob, 128)],
        if !(hdrOk b h) then endRunning unitTP stILLEGAL
        else if (if h.mpc then h.nh else h.n) = 0 then endRunning unitTP stEMPTY
        else if store then storeFails j
        else seq [solveReads s j ecc [(sa, size)], match readOk s unitTP j.ticket ecc sa size with
          | .error x => solveStops j x
          | .ok sb =>
            let st := startOf h (mget s.tp (phys s sa)) sb
            let t := timesOf s h j.ticket prob sa (dField j.desc 3 47 0)
            let dl := if jobSlotType s j = 0 then 0 else h.deadline
            let start := j.began
            if dl != 0 && dl < start + 300 + t.tIn + t.tSetup + t.tIt + t.tOut then
              seq [noteOverlap j, withS fun s => match workingJob s unitTP 0xA0 with
                | some j => finishSolve h j st (shiftOutput st 0 0 0 0xFFFF false)
                | none => skip]
            else seq [solveReads s j ecc h.arrays, match mapE (fun a => readOk s unitTP j.ticket ecc a.1 a.2) h.arrays with
              | .error x => solveStops j x
              | .ok bs =>
                let x := if h.mpc then mpcProb h (bs.getD 0 []) (bs.getD 1 []) else denseProb h bs
                seq [noteOverlap j, fun _ => [.bump],
                  withS fun s => match workingJob s unitTP 0xA0 with
                    | some j => finishSolve h j st (solveAll h x st start times dl t)
                    | none => skip]]]]) s

/-! ### CMD (R493, R494) -/

/-- A map entry is legal for a state block with `n` and `m` elements. -/
def mapEntryOk (n m e : Nat) : Bool :=
  onlyBits e [(11, 0), (13, 12), (20, 16), (63, 32)] && field e 13 12 ≤ 2 && field e 63 32 % 4 == 0
    && field e 11 0 < (if field e 13 12 = 0 then n else m)

/-- The value that a map entry names, converted: Q32 code and saturation. -/
def mapValue (sb : List Byte) (n m e : Nat) : Int × Bool :=
  let src := field e 13 12
  let i := field e 11 0 + (if src = 0 then 0 else if src = 1 then n else n + m)
  let w3 := le sb 24 8
  let p := if src = 0 then field w3 4 0 else if src = 1 then field w3 9 5 else field w3 14 10
  rescale 32 p (field e 20 16) (toSigned 32 (le sb (64 + 4 * i) 4))

/-- The writes of a CMD: address and bytes, the seal last; and saturation. -/
structure CmdOut where
  writes : List (Nat × List Byte)
  ovf : Bool

/-- What a CMD does: none when the state block is not current (R493). -/
def cmdE (s : State) (ecc : Ecc) (j : Job) : Rd CmdOut :=
  let sa := dField j.desc 1 47 0
  let k := dField j.desc 5 8 0
  let frame := j.beganFrame
  do
    let hd ← readE s unitTP j.ticket ecc sa 64
    let n := le hd 0 2
    let m := le hd 4 2
    needE (bit (le hd 0 8) 63 && le hd 8 8 == frame) 0x40
    let mp ← readE s unitTP j.ticket ecc (dField j.desc 2 47 0) (8 * k)
    let es := tab k fun i => le mp (8 * i) 8
    needE (es.all (mapEntryOk n m)) stILLEGAL
    let ve ← readE s unitTP j.ticket ecc (sa + 64) (4 * (n + 2 * m))
    let vs := es.map fun e => (dField j.desc 3 47 0 + field e 63 32, mapValue (hd ++ ve) n m e)
    let sealAt := dField j.desc 4 47 0
    return ⟨vs.map (fun v => (v.1, leBytes 4 (code32 v.2.1))) ++ (if sealAt = 0 then [] else [(sealAt, leBytes 8 (frame + 1))]), vs.any fun v => v.2.2⟩

/-- CMD (R493 to R495). -/
def execCmd (u : Nat) (ecc : Ecc) (s : State) : Host.Outcome State Fault Refusal :=
  perform (Instr.wellFormed (.cmd u ecc)) (withS fun s => match workingJob s unitTP 0xA1 with
    | none => skip
    | some j => seq [runsE unitTP j.ticket ecc (fun c => cmdE s c j), match result (cmdE s ecc j) with
      | .error x =>
        if x.st = 0x40 then seq [raiseInt pageTP 4, endRunning unitTP 0x40]
        else if x.st = stILLEGAL then endRunning unitTP stILLEGAL
        else seq [noteStop unitTP j.ticket x, failJob unitTP x.st j]
      | .ok c =>
        let ctrl := jobSlotType s j == 1
        seq [noteOverlap j, whenA c.ovf (reportOvf ctrl), accessAll unitTP j.ticket ecc (c.writes.map fun w => (1, w.1, w.2.length))
          (seq [forA c.writes (fun w => writeRange w.1 w.2),
            withS (fun s => whenA (((workingJob s unitTP 0xA1).map Job.spoiled).getD false) (forA c.writes fun w => loseRange w.1 w.2.length)),
            endRunning unitTP stDONE])
          (fun st => failJob unitTP st j)]]) s

end Sys2Proof.Machine
end

