-- ==== Sys2Proof/Machine/RegRead.lean ====
section
/-! DEFINITION. Reading registers: fields as the tables give them (R8, R10), registers that show state held elsewhere, the
access widths of R662 to R664, message files and hart timer (R673, R677, R678), doorbells (R269). -/

namespace Sys2Proof.Machine

/-! ### Values -/

/-- Field `lo` of a word of queue state (Table 7-1). [DEDUCED: log entry 181] -/
def queueField (x : Queue) (off lo : Nat) : Nat :=
  if off = 0x148 then
    (if lo = 63 then ofBool x.enable else if lo = 62 then x.cls else if lo = 61 then x.mode else if lo = 56 then x.ringLog2
     else if lo = 51 then x.compLog2 else if lo = 50 then ofBool x.qlock else x.ringBase)
  else if off = 0x150 then (if lo = 54 then x.client else if lo = 48 then x.ticket else x.compBase)
  else if off = 0x158 then (if lo = 48 then x.irqHart else if lo = 33 then x.irqId else if lo = 32 then ofBool x.irqEn
    else if lo = 16 then x.unit else x.owner)
  else if off = 0x160 then (if lo = 32 then x.head else x.tail)
  else if off = 0x168 then (if lo = 32 then x.ctail else x.chead)
  else (if lo = 31 then ofBool x.fault else if lo = 30 then ofBool x.dbErr else if lo = 29 then ofBool x.dbDeny else x.dropped)

/-- Offset `off` of page `p` is a word of the selected queue's state. -/
def isQueueWord (p off : Nat) : Bool := p == pageRM && 0x148 ≤ off && off ≤ 0x170

/-- Unit `u` holds a job that works, and a suspended one. -/
def unitBusy (s : State) (u : Nat) : Bool := match (s.unit u).running with
  | some j => j.started && j.status.isNone
  | none => false
def unitSuspended (s : State) (u : Nat) : Bool := (s.unit u).suspended.isSome

/-- BUSY and SUSPENDED of the unit of a page (Tables 4-15, 6-11, 12-9, 15-8), of which unit. -/
def statusUnit (s : State) (p : Nat) : Option Nat :=
  if p = 5 then some 104 else if p = 9 then some 108
  else if 16 ≤ p && p < 80 then
    let d := (p - 16) / 16
    if p % 16 = 4 then some (36 + d)
    else if 6 ≤ p % 16 && p % 16 < 15 then servedUnit s (9 * d + (p % 16 - 6)) else none
  else none

/-- Records that the error log holds (R570). -/
def logLevel (s : State) : Nat := (s.get EL_LOG_HEAD_HEAD + 2 ^ 32 - s.get EL_LOG_TAIL_TAIL) % 2 ^ 32

/-- Entry `i` of die `d`'s lost-block list as its register shows it (Table 2-11). -/
def lostEntry (s : State) (d i : Nat) : Nat := match (lostBlocks s d)[i]? with
  | some b => 2 ^ 63 + b / 64 * 64
  | none => 0

/-- FW_TS_BUDGET LEVEL of entry `i` of page instance `n` (Table 8-11). -/
def budgetLevel (s : State) (n i : Nat) : Nat := (tsEntry s (portOf n (i / 64)) (i % 64)).level / 11

/-- NS and FRAC as TM_TIME_NS shows them: the latched value, or the present one when none is latched (R369). [DEDUCED: log entry 189] -/
def timeNs (s : State) : Nat := s.time.latched.getD (65536 * s.time.ns + s.time.frac)

/-- The value of a field that shows state held outside the register map. [DEDUCED: log entry 189] -/
def viewField (s : State) (p off : Nat) (f : FieldRow) : Option Nat :=
  let d := (p - 16) / 16
  if off < 0x100 then
    (if off ≠ 0x18 then none
     else if p < 80 && p % 16 == 1 && 16 ≤ p && f.lo = 0 then some ((List.range 16).foldl (fun v e => v + ofBool (unitBusy s (40 + 16 * d + e) || unitSuspended s (40 + 16 * d + e)) * 2 ^ e) 0)
     else if 99 ≤ p && p < 103 then some (if s.boot.harts = 1 then 15 else 0)
     else if f.lo = 8 then (statusUnit s p).map (fun u => ofBool (unitBusy s u))
     else if f.lo = 9 then (statusUnit s p).map (fun u => ofBool (unitSuspended s u))
     else none)
  else if p = 0 then (if 0x140 ≤ off then some (s.dbg.nonce / 2 ^ (64 * ((off - 0x140) / 8)) % 2 ^ 64) else none)
  else if p = 1 then
    (if off = 0x100 then some s.doubt.bits
     else if off = 0x128 then (if f.lo = 30 then some (ofBool (logLevel s == 4096)) else if f.lo = 0 then some (logLevel s) else none)
     else none)
  else if p = 2 then
    (if off = 0x100 then some s.doubt.bits
     else if off = 0x108 then some (if f.lo = 8 then s.doubt.firstOrigin else s.doubt.firstSrc)
     else if off = 0x110 then some s.doubt.firstTime else none)
  else if isQueueWord p off then some (queueField (s.queue (selected s)) off f.lo)
  else if p = 4 then (if off = 0x1A8 then some (ofSigned 32 (tabEntry s)) else none)
  else if p = 8 then
    (if off = 0x100 then some s.time.sec
     else if off = 0x108 then some (timeNs s / 2 ^ f.lo % 2 ^ (f.hi + 1 - f.lo))
     else if 0x300 ≤ off && off < 0x380 then
       let fifo := (mget s.time.fifo ((off - 0x300) / 16)).getD []
       (if off % 16 = 4 && f.lo = 16 then some fifo.length else if off % 16 = 8 then some (fifo.headD 0) else none)
     else none)
  else if p = 10 && 0x4000 ≤ off then
    let w := s.window ((off - 0x4000) / 32)
    let v := if off % 32 = 0 then w.w0 else if off % 32 = 8 then w.w1 else if off % 32 = 16 then w.w2 else w.w3
    some (field v f.hi f.lo)
  else if p = 12 then (if f.lo = 16 then some (pinnedCount s) else none)
  else if p = 145 then (if off = 0x110 then some s.bus.gpio else none)
  else if 16 ≤ p && p < 80 && p % 16 == 0 && 0x400 ≤ off then some (field (lostEntry s d ((off - 0x400) / 8)) f.hi f.lo)
  else if (p == 10 || (16 ≤ p && p < 80 && p % 16 == 2)) && 0x1000 ≤ off && off % 16 = 8 && f.lo = 32 then
    some (budgetLevel s (if p = 10 then 4 else d) ((off - 0x1000) / 16))
  else if 16 ≤ p && p < 80 && p % 16 == 5 && f.lo = 0 then some (s.log.queues.getD d []).length
  else none

/-- The value of a field as a read of its register shows it: 0 for a field that holds none (Table 0-4). -/
def fieldValue (s : State) (p off : Nat) (f : FieldRow) : Nat := match f.acc with
  | .wo => (viewField s p off f).getD 0
  | _ => (viewField s p off f).getD (s.get (rowFld p off f))

/-- The value of a register with fields `fs`: bits that no field has read 0 (R10). [DEDUCED: log entries 200, 201] -/
def composed (s : State) (p off : Nat) : List FieldRow → Nat
  | [] => 0
  | f :: fs => fieldValue s p off f % 2 ^ (f.hi + 1 - f.lo) * 2 ^ f.lo + composed s p off fs

/-- The value of the register at offset `off` of page `p`; 0 where there is none (R664). [DEDUCED: log entries 200, 201] -/
def regValue (s : State) (p off : Nat) : Nat := match findReg (allRows p) off with
  | some (_, fs) => composed s p off fs
  | none => 0

/-! ### The ways to access a register (R662 to R664) -/

/-- What an access of `w` bytes at offset `off` names: a whole register, the low or the high half of a 64-bit one, something
that R662 does not allow, or nothing. [DEDUCED: log entry 184] -/
inductive Reach
  | whole (off : Nat)
  | low (off : Nat)
  | high (off : Nat)
  | badWidth
  | reserved
  deriving DecidableEq, Repr

/-- How an access of `w` bytes reaches the registers `rs`. [DEDUCED: log entry 184] -/
def reachOf (rs : List RegRow) (off w : Nat) : Reach := match findReg rs off with
  | some (n, _) => if n = w then .whole off else if n = 8 ∧ w = 4 then .low off else .badWidth
  | none =>
    if w = 4 && 4 ≤ off && (findReg rs (off - 4)).map Prod.fst == some 8 then .high (off - 4)
    else if rs.any fun r => r.holds off then .badWidth else .reserved

/-- Key of the read latch of page `p`, initiator `init`, register `off` (R662). -/
def latchKey (p init off : Nat) : Nat := (p * 4096 + init) * 65536 + off

/-- The side effect of a read of a register (R369, R379, R533). [DEDUCED: log entry 189] -/
def readEffect (p off : Nat) : Act := withS fun s =>
  if p = 8 ∧ off = 0x100 then updTime fun t => { t with latched := some (65536 * t.ns + t.frac) }
  else if p = 8 ∧ 0x300 ≤ off ∧ off < 0x380 ∧ off % 16 = 8 then
    updTime fun t => { t with fifo := mset t.fifo ((off - 0x300) / 16) (((mget t.fifo ((off - 0x300) / 16)).getD []).drop 1) }
  else if p = 4 ∧ off = 0x1A8 then setF TT_TAB_SEL_INDEX ((s.get TT_TAB_SEL_INDEX + 1) % 1024)
  else skip

/-- The read latches without those of initiator `init` on page `p`. -/
def dropLatch (b : BusSt) (p init : Nat) : SMap Nat := mdelIf b.latches fun k => k / 65536 == p * 4096 + init

/-- A read of `w` bytes at offset `off` of page `p` by `init`, answered (R662 to R664). -/
def readReg (init tkt p off w : Nat) : Act := withS fun s => match reachOf (allRows p) off w with
  | .whole o => seq [readEffect p o, respond init 0 (leBytes w (regValue s p o))]
  | .low o => seq [readEffect p o,
      updBus (fun b => { b with latches := mset (dropLatch b p init) (latchKey p init o) (regValue s p o / 2 ^ 32) }),
      respond init 0 (leBytes 4 (regValue s p o))]
  | .high o => match mget s.bus.latches (latchKey p init o) with
    | some v => seq [updBus (fun b => { b with latches := mdel b.latches (latchKey p init o) }), respond init 0 (leBytes 4 v)]
    | none => respond init 0 (leBytes 4 (regValue s p o / 2 ^ 32))
  | .badWidth => seq [errWindow p 6 init tkt off 0 false, respond init 0 (leBytes w 0)]
  | .reserved => respond init 0 (leBytes w 0)

/-! ### Pages without the common layout, and doorbells -/

/-- Hart timer: MTIMECMP of hart h at 8h, MTIME at 0x7FF8 (R678). [PRESUMED: log entry 192] -/
def timerValue (s : State) (off : Nat) : Nat :=
  if off / 8 = 0xFFF then s.time.mtime else if off < 128 then (mget s.time.mtimecmp (off / 8)).getD 0 else 0

/-- A read of another page than those with the common layout: message files read 0; the debug module follows its own standard,
so what it returns is free. [PRESUMED: log entry 191] -/
def readOther (init p off w : Nat) : Act := withS fun s =>
  if p = 98 then respond init 0 (leBytes w (timerValue s off / 2 ^ (8 * (off % 8))))
  else if p = 97 then withFree fun n => respond init 0 (leBytes w (Config.freeWord n).toNat)
  else respond init 0 (leBytes w 0)

/-- A number with `w` bytes from byte `o` on replaced by those of `v`. -/
def spliced (old o w v : Nat) : Nat :=
  old % 2 ^ (8 * o) + v % 2 ^ (8 * w) * 2 ^ (8 * o) + old / 2 ^ (8 * (o + w)) * 2 ^ (8 * (o + w))

/-- Pages 80 to 96: `id` written to offset 0 (little-endian) or 4 (big-endian) of a 4 KiB file becomes pending there (R673,
R677); page 80 has a file for each hart, pages 81 to 96 a supervisor-level file and 15 guest files each. [PRESUMED: log entry 191] -/
def writeFile (p off w data : Nat) : Act :=
  let id := if off % 0x1000 = 4 then ofBe (leBytes 4 data) else data
  if w = 4 ∧ (off % 0x1000 = 0 ∨ off % 0x1000 = 4) ∧ 1 ≤ id ∧ id ≤ 2047 then pendMsg (0xF000000000 + p * 0x10000 + off / 0x1000 * 0x1000) id
  else skip

/-- A write of `w` bytes to another page than those with the common layout. [PRESUMED: log entries 191, 192] [DEDUCED: log entry 193] -/
def writeOther (p off w data : Nat) : Act :=
  if p = 98 then updTime fun t =>
    if off / 8 = 0xFFF then { t with mtime := spliced t.mtime (off % 8) w data % 2 ^ 64 }
    else if off < 128 then { t with mtimecmp := mset t.mtimecmp (off / 8) (spliced ((mget t.mtimecmp (off / 8)).getD 0) (off % 8) w data % 2 ^ 64) }
    else t
  else if p = 97 then skip
  else writeFile p off w data

/-- What a read of queue `q`'s doorbell returns (R269). [DEDUCED: log entry 193] -/
def doorbellValue (s : State) (q : Nat) : Nat :=
  let x := s.queue q
  x.head + (2 ^ x.ringLog2 + 2 ^ 32 - diff32 x.tail x.head) % 2 ^ 17 * 2 ^ 32

end Sys2Proof.Machine
end

