-- ==== Sys2Proof/Machine/RegWrite.lean ====
section
/-! DEFINITION. Writing registers: each field by its access code, locks, origins and states that refuse a write (R8 to R10, R266,
R328, R711, R715), the effects that go with a field (R365, R551, R607), writes in halves (R662, R663), writes that have a command
of their own, and the interrupt registers (R670, R672, R676). -/

namespace Sys2Proof.Machine

/-! ### Refusals -/

/-- The lock of the RWL fields of offset `off` on page `p` is 1 (R9; Tables 7-1, 8-8, 8-11, 13-10, 16-4, 18-6). [DESIGN CHOICE: log entry 120] -/
def locked (s : State) (p off : Nat) : Bool :=
  if off = 0x30 then s.is (INT_ROUTE_LOCK p)
  else if p = pageRM then (s.queue (selected s)).qlock
  else if p = 4 then s.is TT_CTRL_AX_LOCK
  else if p = 11 then s.is (PW_CTRL_PW_LOCK 4)
  else if p = 10 then (off - 0x1000) / 16 % 64 < 8 && s.is (FW_CTRL_SC_LOCK 4)
  else if p % 16 = 3 then s.is (PW_CTRL_PW_LOCK ((p - 16) / 16))
  else p % 16 == 2 && (off - 0x1000) / 16 % 64 < 8 && s.is (FW_CTRL_SC_LOCK ((p - 16) / 16))

/-- The state of the block refuses a write to field `lo` of offset `off` on page `p`: queue state while ENABLE is 1, except ENABLE
and QLOCK (R266); IO_MODE and the CAN timing while EN is 1, YL_SELF while a port's EN is 1 (R711); Midway's map and lattice
configuration while EN is 1 (Table 11-10). [DESIGN CHOICE: log entry 120] [DEDUCED: log entry 183] -/
def stateRefuses (s : State) (p off lo : Nat) : Bool :=
  if isQueueWord p off then (s.queue (selected s)).enable && !(off == 0x148 && (lo == 63 || lo == 50))
  else if p = 6 then s.is MW_CTRL_EN && ((0x110 ≤ off && off < 0x124) || off == 0x128 || off == 0x130)
  else if 112 ≤ p && p < 145 then s.is ⟨p * 0x10000 + 0x100, 63, 1, 0⟩ && (off == 0x100 || (0x110 ≤ off && off ≤ 0x130))
  else p == 176 && off == 0x100 && (List.range 4).any fun q => s.is (YL_CTRL_EN q)

/-- The kinds of Table 18-10 by which a field refuses the part `v` of a write. A 0 written to a field that a 0 does not change is
no write to it. [DESIGN CHOICE: log entry 120] [DEDUCED: log entry 182] -/
def refusals (s : State) (init p off : Nat) (f : FieldRow) (v : Nat) : List Nat :=
  if f.acc = .ro ∨ ((f.acc = .w1c ∨ f.acc = .w1s ∨ f.acc = .wo) ∧ v = 0) then []
  else (if !(isIsland init) && (f.isl == 1 || (f.isl == 2 && v < 8)) then [3] else [])
    ++ (if f.acc = .rwl ∧ locked s p off then [1] else [])
    ++ (if stateRefuses s p off f.lo then [2] else [])

/-! ### The write of one field -/

/-- Field `lo` of a word of queue state takes `v`. [DEDUCED: log entry 181] -/
def putQueueField (off lo v : Nat) : Act := withS fun s => updQueue (selected s) fun x =>
  if off = 0x148 then
    (if lo = 62 then { x with cls := v } else if lo = 61 then { x with mode := v } else if lo = 56 then { x with ringLog2 := v }
     else if lo = 51 then { x with compLog2 := v } else if lo = 50 then { x with qlock := v != 0 } else { x with ringBase := v })
  else if off = 0x150 then
    (if lo = 54 then { x with client := v } else if lo = 48 then { x with ticket := v } else { x with compBase := v })
  else if off = 0x158 then
    (if lo = 48 then { x with irqHart := v } else if lo = 33 then { x with irqId := v } else if lo = 32 then { x with irqEn := v != 0 }
     else if lo = 16 then { x with unit := v } else { x with owner := v })
  else if lo = 31 then { x with fault := v != 0 } else if lo = 30 then { x with dbErr := v != 0 }
  else if lo = 29 then { x with dbDeny := v != 0 } else { x with dropped := v }

/-- What a field with value `cur` holds after a write of `v` that it takes (Table 0-4). -/
def written (a : Acc) (cur v : Nat) : Nat := match a with
  | .rw | .rwl => v
  | .w1c => cur - Nat.land cur v
  | .w1s => Nat.lor cur v
  | .ro | .wo => cur

/-- A field takes `v`. TT_AXIS_CFG.EN takes 1 only on an axis that is configured; clearing FAULT bits has R510's effect. -/
def putField (p off : Nat) (f : FieldRow) (v : Nat) : Act := withS fun s =>
  if f.acc = .ro ∨ f.acc = .wo then skip
  else if isQueueWord p off then putQueueField off f.lo (written f.acc (queueField (s.queue (selected s)) off f.lo) v)
  else if p = 4 ∧ 0x1000 ≤ off ∧ off < 0x3000 ∧ off % 64 = 0 ∧ f.lo = 63 then
    setF (rowFld p off f) (if s.get (TT_AXIS_ST_STATE ((off - 0x1000) / 64)) = 0 then 0 else v)
  else if p = 4 ∧ 0x5000 ≤ off ∧ f.acc = .w1c then clearFault ((off - 0x5000) / 32) v
  else setF (rowFld p off f) (written f.acc (s.get (rowFld p off f)) v)

/-- The fields of a register without commands of their own take their parts of `v`, except those that refuse it in state `s0`. -/
def putFields (s0 : State) (init p off v : Nat) (fs : List FieldRow) : Act :=
  forA (fs.filter fun f => f.own == 0 && (refusals s0 init p off f (field v f.hi f.lo)).isEmpty) fun f =>
    putField p off f (field v f.hi f.lo)

/-- Every field of the register that a write can change is the island's alone. [DEDUCED: log entry 182] -/
def islandOnly (fs : List FieldRow) : Bool :=
  let ws := fs.filter fun f => f.acc != .ro
  !ws.isEmpty && ws.all fun f => f.isl == 1

/-- The kind under which a write is reported, if a field refuses it: one event for a write, ORIGIN before LOCKED before STATE
(log entry 120). -/
def reportedKind (s : State) (init p off v : Nat) (fs : List FieldRow) : Option Nat :=
  let ks := (fs.filter fun f => f.own == 0).flatMap fun f => refusals s init p off f (field v f.hi f.lo)
  if ks.contains 3 || (islandOnly fs && !(isIsland init)) then some 3
  else if ks.contains 1 then some 1 else if ks.contains 2 then some 2 else none

/-- What follows from a write to offset `off` of page `p` that found state `s0`. -/
def afterWrite (s0 : State) (p off : Nat) : Act := withS fun s =>
  if p = 8 then
    (if off = 0x118 ∨ off = 0x148 then whenA (s.is TM_CTRL_SERVO_EN) adjFollowsI
     else if off = 0x10 then (if !(s0.is TM_CTRL_SERVO_EN) && s.is TM_CTRL_SERVO_EN then adjFollowsI
       else seq [whenA (!(s.is TM_CTRL_SERVO_EN)) (setF TM_STATUS_LOCKED 0), refreshInc])
     else if off = 0x110 then refreshInc else skip)
  else if p = 11 ∧ off = 0x10 then whenA (s0.is PW_CTRL_LEARN_EN && !(s.is PW_CTRL_LEARN_EN)) discardPhases
  else if p = 2 ∧ off = 0x148 then whenA (!(s0.is EL_WDOG_CFG_HOST_EN) && s.is EL_WDOG_CFG_HOST_EN) (updIsl fun i => { i with hostAt := s.grid.now })
  else if p = pageRM ∧ 0x1000 ≤ off ∧ off < 0x2000 then refreshReady
  else skip

/-- The fields of a register that have no command of their own take a write by `init` of the value `v`. [DEDUCED: log entry 185] -/
def plainWrite (init tkt p off v : Nat) (fs : List FieldRow) : Act := withS fun s0 => seq [
  putFields s0 init p off v fs,
  match reportedKind s0 init p off v fs with
    | some k => errWindow p k init tkt off v true
    | none => skip,
  afterWrite s0 p off]

/-! ### Interrupt registers -/

/-- After a write to an interrupt register: a request that is not zero sends the page's message (R672). -/
def messageAgain (p : Nat) : Act := whenS (fun s => request s p != 0) (sendMsg p)

/-- A write to INT_STAT clears bits; one to INT_EN sets the enables (Table 18-1, R10, R671). -/
def writeIntStat (p v : Nat) : Act := seq [fun s => [.reg (INT_STAT p) (written .w1c (s.get (INT_STAT p)) v)], messageAgain p]
def writeIntEn (p v : Nat) : Act := seq [setF (INT_EN p) (Nat.land v (intMask p)), messageAgain p]

/-- A write to INT_FORCE sets bits of INT_STAT (R670). -/
def forceInt (p v : Nat) : Act := seq [fun s => [.reg (INT_STAT p) (Nat.lor (s.get (INT_STAT p)) (Nat.land v (intMask p)))], messageAgain p]

/-- A write to INT_ROUTE: refused whole when it would route to the island and is not the island's (R676); the RWL fields while
ROUTE_LOCK is 0 (R9); ROUTE_LOCK by the island alone (Table 18-6). -/
def routeInt (init tkt p v : Nat) : Act := withS fun s =>
  let isl := isIsland init
  if !isl && 2 ≤ field v 57 56 then errWindow p 3 init tkt 0x30 v true
  else seq [
    whenA (!(s.is (INT_ROUTE_LOCK p))) (seq [setF (INT_ROUTE_DEST p) (field v 57 56), setF (INT_ROUTE_LEVEL p) (field v 53 52),
      setF (INT_ROUTE_HART p) (field v 51 48), setF (INT_ROUTE_GUEST p) (field v 47 44), setF (INT_ROUTE_IDENT p) (field v 10 0)]),
    whenA (isl && bit v 63) (setF (INT_ROUTE_LOCK p) 1),
    if !isl && bit v 63 then errWindow p 3 init tkt 0x30 v true
    else if s.is (INT_ROUTE_LOCK p) then errWindow p 1 init tkt 0x30 v true else skip,
    messageAgain p]

/-- A write to INT_FORCE of page `page`. -/
def execIntForceWrite (init tkt page data : Nat) (s : State) : Host.Outcome State Fault Refusal :=
  perform (Instr.wellFormed (.intForceWrite init tkt page data)) (openWrite init tkt page 0x28 4 (forceInt page data)) s

/-- A write to INT_ROUTE of page `page`. -/
def execIntRouteWrite (init tkt page data : Nat) (s : State) : Host.Outcome State Fault Refusal :=
  perform (Instr.wellFormed (.intRouteWrite init tkt page data)) (openWrite init tkt page 0x30 8 (routeInt init tkt page data)) s

/-! ### Yelilo ports (R709, R712) -/

/-- Page number of YL_[p]. -/
def pageYL (p : Nat) : Nat := 176 + p

/-- The link of port `p` is down: UP and WIDTH are 0 and no request waits in it (R712). [DEDUCED: log entry 183] -/
def portDown (p : Nat) : Act := seq [setF (YL_STATUS_UP p) 0, setF (YL_STATUS_WIDTH p) 0,
  updPort p fun y => { y with window := 0, fails := 0, retry := [] }]

/-- EN of port `p` is set: training begins (R709). -/
def enablePort (p : Nat) : Act := withS fun s => if s.is (YL_CTRL_EN p) then skip
  else seq [setF (YL_CTRL_EN p) 1, updPort p fun y => { y with training := true }]

/-- EN of port `p` is cleared: a link that is up goes down, and nothing trains. -/
def disablePort (p : Nat) : Act := withS fun s => if !(s.is (YL_CTRL_EN p)) then skip
  else seq [setF (YL_CTRL_EN p) 0, portDown p, updPort p fun y => { y with training := false }]

/-! ### Writes that have commands of their own -/

/-- The state after a command; a command that cannot stand there changes nothing. -/
def afterCmd (o : State → Host.Outcome State Fault Refusal) (s : State) : State := match o s with
  | .next t => t
  | _ => s

/-- The states after commands one after another. -/
def afterCmds (os : List (State → Host.Outcome State Fault Refusal)) (s : State) : State := os.foldl (fun s o => afterCmd o s) s

/-- The numbers of the bits of `v` below `n` that are 1. -/
def bitsOf (n v : Nat) : List Nat := (List.range n).filter (bit v)

/-- BT_RESET: a warm reset ends every other; then the dies and engines in order. [DEDUCED: log entry 187] -/
def resetCmds (init tkt v : Nat) : List (State → Host.Outcome State Fault Refusal) :=
  if bit v 0 then [execResetWarm init tkt]
  else (bitsOf 4 (v / 2 ^ 8)).map (execResetDie init tkt) ++ (bitsOf 36 (v / 2 ^ 28)).map (execResetEng init tkt)

/-- A value that is none of a register's commands has no effect; from another initiator than the island's the write is refused all
the same (R715). [DEDUCED: log entry 186] -/
def noCommand (init tkt p off v : Nat) : State → Host.Outcome State Fault Refusal := fun s =>
  .next (s.act (if isIsland init then skip else errWindow p 3 init tkt off v true))

/-- The list of commands of a write, where the register has commands (none: it has none). -/
abbrev Cmds := Option (List (State → Host.Outcome State Fault Refusal))

/-- Commands of the error log's page: EL_DOUBT_REQ, EL_REINT, EL_HOST_KICK, EL_LOG_TAIL. -/
def cmdsEL (init tkt off v : Nat) : Cmds :=
  if off = 0x108 then some (if bit v 0 then [execDoubtRequest init] else [])
  else if off = 0x110 then some (if bit v 0 then [execReintRequest init] else [])
  else if off = 0x118 then some (if bit v 0 then [execHostKick init] else [])
  else if off = 0x124 then some [execLogTailWrite init tkt v] else none

/-- RM_PLAN_CMD. [DEDUCED: log entry 186] -/
def planCmds (init tkt v : Nat) : Cmds :=
  if v % 8 = 1 then some [execStage init tkt] else if v % 8 = 2 then some [execActivate init tkt]
  else if v % 8 = 3 then some [execStop init tkt] else if v % 8 = 4 then some [execDiscard init tkt]
  else some [noCommand init tkt pageRM 0x108 v]

/-- RM_SG_REQ. -/
def groupCmds (init v : Nat) : Cmds :=
  let g := field v 21 18
  let c := field v 17 0
  let q := field v 51 32
  if field v 23 22 = 0 then some [execSgJoin init g c q] else if field v 23 22 = 1 then some [execSgLeave init g c]
  else if field v 23 22 = 2 then some [execSgSetq init g c q] else some [fun s => .next (s.act (requestError init g))]

/-- Commands of RM_. -/
def cmdsRM (init tkt off v : Nat) : Cmds :=
  if off = 0x108 then planCmds init tkt v else if off = 0x480 then groupCmds init v
  else if off = 0x488 then some [execSgStep init (v % 2 ^ 16)] else none

/-- Commands of TT_: TT_CMD and TT_TAB_DATA. [DEDUCED: log entry 186] -/
def cmdsTT (init tkt off v : Nat) : Cmds :=
  if off = 0x180 then
    (if field v 31 28 = 1 then some [execEnum init tkt (field v 25 24)]
     else if field v 31 28 = 2 then some [execRead init tkt (field v 25 24) (field v 21 16) (field v 6 0)]
     else if field v 31 28 = 3 then some [execConfig init tkt (field v 6 0) (field v 25 24) (field v 21 16) ⟨[], []⟩]
     else some [noCommand init tkt 4 off v])
  else if off = 0x1A8 then some [execTabDataAccess init true v] else none

/-- Commands of TM_: TM_TIME_NS and the pulse outputs. -/
def cmdsTM (init tkt off v : Nat) : Cmds :=
  if off = 0x108 then some [execTimeLoad init tkt v]
  else if 0x400 ≤ off && off < 0x500 && off % 32 ≤ 16 then some [execPulseCfgWrite init ((off - 0x400) / 32) (off % 32 / 8) v] else none

/-- Commands of PW_: PW_STATE_REQ. [DEDUCED: log entry 186] -/
def cmdsPW (init tkt off v : Nat) : Cmds :=
  if off = 0x100 then
    (if v % 8 = 0 then some [execStateReqA0 init tkt] else if v % 8 = 1 then some [execStateReqP1 init tkt]
     else if v % 8 = 2 then some [execStateReqP2 init tkt] else if v % 8 = 3 then some [execStateReqP3 init tkt]
     else some [noCommand init tkt 11 off v]) else none

/-- Commands of a FW_ page: firewall windows and turnstile rates. -/
def cmdsFW (init tkt p off v : Nat) : Cmds :=
  if p = 10 ∧ 0x4000 ≤ off then some [execFwWindowWrite init tkt ((off - 0x4000) / 32) (off % 32 / 8) v]
  else if 0x1000 ≤ off && off % 16 = 0 then
    some [execFwTsRateWrite init tkt (if p = 10 then 4 else (p - 16) / 16) ((off - 0x1000) / 16 / 64) ((off - 0x1000) / 16 % 64) v]
  else none

/-- The commands that a write of `v` to a register all of whose fields are commands stands for; none where it is no such
register, an empty list where the value is none of its commands. -/
def wholeCmds (init tkt p off v : Nat) : Cmds :=
  if p = 0 then (if off = 0x100 ∧ isIsland init then some (resetCmds init tkt v) else none)
  else if p = 1 then cmdsEL init tkt off v
  else if p = pageRM then cmdsRM init tkt off v
  else if p = 4 then cmdsTT init tkt off v
  else if p = 7 then (if off = 0x230 then some ((bitsOf 64 v).map (execCalCommit init)) else none)
  else if p = 8 then cmdsTM init tkt off v
  else if p = 11 then cmdsPW init tkt off v
  else if p = 10 || (16 ≤ p && p < 80 && p % 16 == 2) then cmdsFW init tkt p off v
  else none

/-- ENABLE of the selected queue takes bit 63 of a write to RM_QCFG0 that found state `s0` (R266, R274). -/
def enableBit (s0 : State) (init tkt v : Nat) : Act :=
  if (s0.queue (selected s0)).qlock then skip
  else if bit v 63 then enableQueue init tkt (selected s0) v else disableQueue (selected s0)

/-- The commands that the other part of a write of `v` stands for, in registers where some fields have commands of their own. -/
def partCmds (s0 : State) (init tkt p off v : Nat) : List (State → Host.Outcome State Fault Refusal) :=
  let act (a : Act) : State → Host.Outcome State Fault Refusal := fun s => .next (s.act a)
  if 16 ≤ p && p < 80 && off = 0x10 then
    (if 6 ≤ p % 16 && bit v 1 then [execTeSigTest init tkt (9 * ((p - 16) / 16) + (p % 16 - 6))]
     else if p % 16 = 4 && bit v 1 && isIsland init then [execKvSigTest init tkt ((p - 16) / 16)] else [])
  else if p = pageRM then
    (if off = 0x148 then [act (enableBit s0 init tkt v)]
     else if 0x400 ≤ off && off < 0x480 then
      let g := (off - 0x400) / 8
      (if !(bit v 63) then [execSgDisable init tkt g]
       else if s0.is (RM_SG_CFG_ENABLE g) then [] else [act (seq [setF (RM_SG_CFG_ENABLE g) 1, updGroup g fun _ => ⟨[], [], 0, []⟩])])
     else [])
  else if p = 7 then
    (if 0x1000 ≤ off && off < 0x1800 && off % 32 = 0 then
      let i := (off - 0x1000) / 32
      (if bit v 63 then [act (enableStream init tkt i v)] else [act (setF (FU_STREAM_CFG_EN i) 0)])
     else if 0x2000 ≤ off && off < 0x2800 && off % 32 = 0 && bit v 30 then [execReinstate init ((off - 0x2000) / 32)]
     else if 0x3000 ≤ off && off < 0x3200 && off % 32 = 0 then
      let g := (off - 0x3000) / 32
      (if !(bit v 63) then [execGroupDisable init g]
       else if s0.is (FU_GROUP_CFG_EN g) then [] else [act (seq [setF (FU_GROUP_CFG_EN g) 1, enableFusionGroup g])])
     else [])
  else if p = 6 && off = 0x10 then (if bit v 0 then [execMapClear init] else [act (setF MW_CTRL_EN 0)])
  else if p = 4 && off = 0x10 then (bitsOf 4 v).map (execRingRun init tkt) ++ ((List.range 4).filter fun r => !(bit v r)).map fun r => act (stopRing r)
  else if p = 2 && off = 0x120 then
    (if !(isIsland init) then [] else if bit v 63 then [execNetArm init] else [act (seq [setF EL_NET_CFG_ARM 0, armCheck])])
  else if 176 ≤ p && p < 180 && off = 0x10 then [act (if bit v 63 then enablePort (p - 176) else disablePort (p - 176))]
  else []

/-- A page whose registers decide which clients are ready: Ringmaster's, and the credit counters' (R303, R306). -/
def readyPage (p : Nat) : Bool := p == pageRM || (16 ≤ p && p < 80 && p % 16 == 1)

/-- After a write on such a page the ready clients are found anew. -/
def readyAgain (p : Nat) (t : State) : State := if readyPage p then t.act refreshReady else t

/-- A write by `init` of the whole value `v` to the register at offset `off` of page `p` takes effect (R666). -/
def writeWhole (init tkt p off v : Nat) (s : State) : State :=
  if off = 0x20 then s.act (writeIntStat p v)
  else if off = 0x24 then s.act (writeIntEn p v)
  else if off = 0x28 then s.act (forceInt p v)
  else if off = 0x30 then s.act (routeInt init tkt p v)
  else match wholeCmds init tkt p off v with
    | some cs => readyAgain p (afterCmds cs s)
    | none => match findReg (allRows p) off with
      | some (_, fs) => readyAgain p (afterCmds (partCmds s init tkt p off v) (s.act (plainWrite init tkt p off v fs)))
      | none => s

/-! ### Writes in halves -/

/-- The staging word of page `p` is held by `init` for register `off` (R662). -/
def stagedFor (s : State) (p init off : Nat) : Option Nat := match mget s.bus.staging p with
  | some (i, o, v) => if i = init ∧ o = off then some v else none
  | none => none

/-- The page's staging word is held by another initiator (R663). -/
def stagedByOther (s : State) (p init : Nat) : Bool := match mget s.bus.staging p with
  | some (i, _, _) => i != init
  | none => false

def updStaging (f : SMap (Nat × Nat × Nat) → SMap (Nat × Nat × Nat)) : Act := updBus fun b => { b with staging := f b.staging }

/-- A write of `w` bytes at offset `off` of page `p` by `init` that has passed its checker (R662 to R664). [DEDUCED: log entry 185] -/
def writeReg (init tkt p off w data : Nat) (s : State) : State := match reachOf (allRows p) off w with
  | .whole o => writeWhole init tkt p o data s
  | .low o =>
    if stagedByOther s p init then s.act (seq [updStaging fun m => mdel m p, errWindow p 6 init tkt off data true])
    else s.act (updStaging fun m => mset m p (init, o, data))
  | .high o => match stagedFor s p init o with
    | some v => writeWhole init tkt p o (v + data * 2 ^ 32) (s.act (updStaging fun m => mdel m p))
    | none => s.act (errWindow p 6 init tkt off data true)
  | .badWidth => s.act (errWindow p 6 init tkt off data true)
  | .reserved => s.act (errWindow p 5 init tkt off data true)

/-- An access of `n` bytes at `a` is one that a register can take: 1, 4 or 8 bytes, naturally aligned (R662). -/
def regAccess (a n : Nat) : Bool := (n == 1 || n == 4 || n == 8) && a % n == 0

/-- A write to a register page that its checker allows. [PRESUMED: log entry 190] -/
def writePage (init tkt p off n data : Nat) (s : State) : State :=
  if isCommonPage p then
    (if regAccess off n then writeReg init tkt p off n data s else s.act (errWindow p 6 init tkt off data true))
  else s.act (writeOther p off n data)

/-- A write of `width` bytes to a register by `init` (R8, R346, R660 to R666): it takes effect when its checker allows it; an access that R662
does not allow is a width error, and a page that is not usable gives ADDR_FAULT. [DEDUCED: log entry 179] -/
def execRegisterWrite (init tkt : Nat) (addr width data : Nat) (s : State) : Host.Outcome State Fault Refusal :=
  if Instr.wellFormed (.registerWrite init tkt addr width data) then
    let t := carried s init tkt
    if (checkRequest s init t 1 ⟨[], []⟩ addr width).1 = 0 then
      .next ((writePage init t (pageOf addr) (offOf addr) width data s).act (respond init 0 []))
    else .next (s.act (reaching init t 1 addr width skip))
  else .next s

end Sys2Proof.Machine
end

