-- ==== Sys2Proof/Machine/Fabric.lean ====
section
/-! DEFINITION. Requests on the fabric and over Yelilo (R42 to R54, R58, R60, R84 to R86, R330, R346 to R356), and the Yelilo ports
(R709, R712). -/

namespace Sys2Proof.Machine

/-- The debug module's page is closed (Table 18-3). [PRESUMED: log entry 190] -/
def closedPage (s : State) (p : Nat) : Bool := p == 97 && !(bit s.dbg.levels 0)

/-- A read of a register page that its checker allows. [PRESUMED: log entry 190] -/
def readPage (init tkt p off n : Nat) : Act :=
  if isCommonPage p then
    (if regAccess off n then readReg init tkt p off n else seq [errWindow p 6 init tkt off 0 false, respond init 0 (leBytes n 0)])
  else readOther init p off n

/-- Requests that read: a read, an atomic and an instruction fetch. -/
def reads (acc : Nat) : Bool := acc != 1
/-- Requests that write: a write and an atomic. -/
def writes (acc : Nat) : Bool := acc == 1 || acc == 2

/-- A request to memory that its checkers allow: a read returns the bytes; an atomic returns them and stores `data`, what its
operation leaves (R65). [DESIGN CHOICE: log entries 7, 194, 225] -/
def memoryRequest (init tkt acc a n : Nat) (data : List Byte) (ecc : Ecc) : Act := withS fun s => seq [
  noteCorr init tkt ecc a n,
  respond init 0 (if reads acc then readRange s a n else []),
  whenA (writes acc) (writeRange a data)]

/-- A request by `init` under ticket `tkt` that has passed its checkers. [DESIGN CHOICE: log entry 194] -/
def performed (init tkt acc a n : Nat) (data : List Byte) (ecc : Ecc) (s : State) : State := match region a with
  | .page p off =>
    let t := if reads acc then s.act (readPage init tkt p off n) else s.act (respond init 0 [])
    if writes acc then writePage init tkt p off n (ofLe data) t else t
  | .doorbell q off =>
    if acc = 1 then (if n = 8 ∧ off = 0 then afterCmd (execDoorbellWrite init q (ofLe data)) s else s).act (respond init 0 [])
    else s.act (respond init 0 (leBytes n (doorbellValue s q / 2 ^ (8 * off))))
  | _ => s.act (memoryRequest init tkt acc a n data ecc)

/-- A request at a closed page finds no register there. -/
def toClosed (s : State) (a : Nat) : Bool := match region a with
  | .page p _ => closedPage s p
  | _ => false

/-- A request is checked once and performed, or fails: nowhere performed, with its status for the issuer and its records
(R43, R84, R346, R354). -/
def request_ (init tkt acc a n : Nat) (data : List Byte) (ecc : Ecc) (s : State) : State :=
  let r := checkRequest s init tkt acc ecc a n
  if r.1 ≠ 0 then s.act (seq [accessFailed init tkt acc r, respond init r.1 []])
  else if toClosed s a then s.act (respond init stADDR_FAULT [])
  else performed init tkt acc a n data ecc (s.act (seq [whenA (reads acc) (charge init tkt false a n), whenA (writes acc) (charge init tkt true a n)]))

/-- A hart's access to a range that it caches (Table 2-3): checked by its L2, hits included, and answered by the caches; a line that is
not there is fetched, and fails as the fetch fails (R84, R346). A held line with an error that its L2 cannot correct is lost, and the access
fails. An atomic returns the bytes and leaves `data`. [DESIGN CHOICE: log entries 226, 251] -/
def hartRequest (init tkt acc a n : Nat) (data : List Byte) (ecc : Ecc) (s : State) : State :=
  let deny := checkRequest s init tkt acc ⟨[], []⟩ a n
  let r := if deny.1 = stADDR_FAULT ∨ deny.1 = stFW_DENY then deny else fetchLines s init tkt (writes acc) ecc a n
  let bad := heldErrors s (writes acc) ecc.uncorr a n
  let good := heldErrors s (writes acc) ecc.corr a n
  if r.1 ≠ 0 then s.act (seq [accessFailed init tkt acc r, respond init r.1 []])
  else if !bad.isEmpty then s.act (seq [countL2 init false bad.length, updLines (fun m => mdelIf m fun k => bad.contains k),
    forA bad (fun b => loseRange (64 * b) 64), respond init stUNCORR []])
  else
    let missing := (blocksOf a n).filter fun b => (s.line b).isNone
    s.act (seq [whenA (!good.isEmpty) (countL2 init true good.length), forA missing (fun b => noteCorr init tkt ecc (64 * b) 64), forA missing fun b => charge init tkt false (64 * b) 64,
      respond init 0 (if reads acc then hartBytes s a n else []),
      whenA (writes acc) (writeLines init tkt a (blocksOf a n) data)])

/-- The unit under whose ID a request comes issues requests: a position that an engine serves (R325). [DESIGN CHOICE: log entry 225] -/
def issues (s : State) (init : Nat) : Bool := !(init < 36) || (serving s init).isSome

/-- The response carries the TAG of its request (Table 8-1). [DEDUCED: log entry 195] -/
def tagged (tag : Nat) : Act := updBus fun b => { b with resp := b.resp.map fun r => { r with tag := tag } }

/-- A fabric request of an initiator: access type `h.acc` (0 R, 1 W, 2 A, 3 X), `len` bytes at `addr`, under the ticket of the initiator's
source (R323 to R326). Under the ID of a position without an engine none is issued. [DESIGN CHOICE: log entries 194, 225, 226] -/
def execFabricRequest (init tkt : Nat) (h : ReqHeader) (addr : Nat) (len : Nat) (data : List Byte) (ecc : Ecc) (s : State) :
    Host.Outcome State Fault Refusal :=
  if Instr.wellFormed (.fabricRequest init tkt h addr len data ecc) && issues s init then
    let t := carried s init tkt
    .next ((if isHart init && cacheable addr then hartRequest init t h.acc addr len data ecc s else request_ init t h.acc addr len data ecc s).act (tagged h.tag))
  else .next s

/-- A request that arrives from joined part `p`, under initiator 0xC00 + p and the sender's ticket (R330). None arrives while no
port is up. [DEDUCED: log entry 198] -/
def execYeliloRequest (p tkt : Nat) (h : ReqHeader) (addr : Nat) (len : Nat) (data : List Byte) (ecc : Ecc) (s : State) :
    Host.Outcome State Fault Refusal :=
  if Instr.wellFormed (.yeliloRequest p tkt h addr len data ecc) && (portTo s p).isSome then
    .next ((request_ (0xC00 + p) tkt h.acc addr len data ecc s).act (tagged h.tag))
  else .next s

/-! ### Yelilo ports -/

/-- A write that sets EN of port `p` (R709). -/
def execYeliloEnable (init p : Nat) (s : State) : Host.Outcome State Fault Refusal :=
  perform (Instr.wellFormed (.yeliloEnable init p)) (withS fun s => openWrite init (ticketOf s init) (pageYL p) 0x10 8 (enablePort p)) s

/-- Lanes 0 to w − 1, counted from the other end when reversed, are among those that train. [DEDUCED: log entry 28] -/
def lanesTrain (trained w : Nat) (reversed : Bool) : Bool :=
  (List.range w).all fun i => bit trained (if reversed then 7 - i else i)

/-- The widest of 8, 4, 2 and 1 lanes that trains, with lane reversal where it allows a wider link; 0 when none does (R709). [DEDUCED: log entry 28] -/
def trainedWidth (trained : Nat) : Nat :=
  (([8, 4, 2, 1].find? fun w => lanesTrain trained w false || lanesTrain trained w true)).getD 0

/-- The training of port `p` ends: `trained` has a bit for each lane that trains, `peer` is the peer's part number (R709). -/
def execYeliloLinkUp (p trained peer : Nat) (s : State) : Host.Outcome State Fault Refusal :=
  perform (Instr.wellFormed (.yeliloLinkUp p trained peer)) (withS fun s =>
    let w := trainedWidth trained
    if !(s.is (YL_CTRL_EN p)) || !(s.port p).training then skip
    else seq [updPort p (fun y => { y with training := false }),
      whenA (2 ^ s.get (YL_CTRL_LANES_MIN p) ≤ w) (seq [setF (YL_STATUS_UP p) 1, setF (YL_STATUS_WIDTH p) w, setF (YL_STATUS_PEER p) peer])]) s

/-- A codeword that cannot be corrected: its flits are discarded, it counts, and a replay is asked for; more than 32 in one 10 µs
window take the link down (R712). [DESIGN CHOICE: log entry 231] -/
def execYeliloCodewordFail (p : Nat) (s : State) : Host.Outcome State Fault Refusal :=
  perform (Instr.wellFormed (.yeliloCodewordFail p)) (withS fun s =>
    let w := s.grid.now / 11000
    let n := if (s.port p).window = w then (s.port p).fails + 1 else 1
    if !(s.is (YL_STATUS_UP p)) then skip
    else seq [countF (YL_FEC_CNT_UNCORR p) 1, updPort p (fun y => { y with window := w, fails := n }),
      if 32 < n then portDown p else send 9 p []]) s

/-- Port `p` loses lock (R712). -/
def execYeliloLossOfLock (p : Nat) (s : State) : Host.Outcome State Fault Refusal :=
  perform (Instr.wellFormed (.yeliloLossOfLock p)) (whenS (fun s => s.is (YL_STATUS_UP p)) (portDown p)) s

/-- The peer asks for a replay from flit `n` of the retry buffer: the flits before it have arrived, the rest are sent again
(R712). [DEDUCED: log entry 199] -/
def execYeliloReplayRequest (p n : Nat) (s : State) : Host.Outcome State Fault Refusal :=
  perform (Instr.wellFormed (.yeliloReplayRequest p n)) (withS fun s =>
    let rest := (s.port p).retry.drop n
    if !(s.is (YL_STATUS_UP p)) then skip
    else seq [updPort p (fun y => { y with retry := rest }),
      updBus fun b => { b with sent := b.sent ++ rest.map fun f => ⟨1, s.get (YL_STATUS_PEER p), f⟩ }]) s

end Sys2Proof.Machine
end

