-- ==== Sys2Proof/Machine/Zstd.lean ====
section
/-! DEFINITION. The Zstandard decoder of the record pipeline (R577), by RFC 8878 (log entry 70): frames, blocks, literals,
Huffman and FSE tables, sequences, and the content checksum. -/

namespace Sys2Proof.Machine

/-! ### Bit streams -/

/-- A bit stream read from its end: the bits that are left, as a number and their count. -/
structure Rev where
  v : Nat
  n : Nat

/-- The reversed stream in a list of bytes: its highest set bit is the end mark. -/
def Rev.ofBytes (bs : List Byte) : Option Rev :=
  match bs.getLast? with
  | none => none
  | some b => if b = 0#8 then none else
    let v := ofLe bs
    let n := Nat.log2 v
    some ⟨v - 2 ^ n, n⟩

/-- The next `k` bits. -/
def Rev.read (r : Rev) (k : Nat) : Option (Nat × Rev) :=
  if r.n < k then none else some (r.v / 2 ^ (r.n - k), ⟨r.v % 2 ^ (r.n - k), r.n - k⟩)

/-- The next `k` bits without taking them; bits that are not there read 0. -/
def Rev.peek (r : Rev) (k : Nat) : Nat := if k ≤ r.n then r.v / 2 ^ (r.n - k) else r.v * 2 ^ (k - r.n)

/-! ### FSE tables -/

/-- A state of an FSE table: symbol, bits to read, base of the next state. -/
structure FseEntry where
  sym : Nat
  bits : Nat
  base : Nat

/-- An FSE table: accuracy log and states. -/
structure Fse where
  al : Nat
  tab : List FseEntry

/-- State `i`. -/
def Fse.at_ (t : Fse) (i : Nat) : FseEntry := t.tab.getD i ⟨0, 0, 0⟩

/-- A table that always gives one symbol. -/
def Fse.rle (sym : Nat) : Fse := ⟨0, [⟨sym, 0, 0⟩]⟩

/-- The position after `pos` in the spread of symbols, below `high`. -/
def spreadNext (size high step : Nat) : Nat → Nat → Nat
  | 0, pos => pos
  | fuel + 1, pos => let p := (pos + step) % size; if high ≤ p then spreadNext size high step fuel p else p

/-- Place `n` copies of symbol `sym` from position `pos` on: the placement and the next position. -/
def spreadSym (size high step sym : Nat) : Nat → List Nat × Nat → List Nat × Nat
  | 0, x => x
  | n + 1, x => spreadSym size high step sym n (x.1.set x.2 sym, spreadNext size high step size x.2)

/-- The table of a normalised distribution; −1 is a probability below 1. -/
def Fse.build (al : Nat) (norm : List Int) : Fse :=
  let size := 2 ^ al
  let low := (norm.zipIdx.filter fun q => q.1 == -1).map Prod.snd
  let high := size - low.length
  let start := low.zipIdx.foldl (fun t q => t.set (size - 1 - q.2) q.1) (List.replicate size 0)
  let step := size / 2 + size / 8 + 3
  let syms := (norm.zipIdx.foldl (fun x q => if 0 < q.1 then spreadSym size high step q.2 q.1.toNat x else x) (start, 0)).1
  let first := norm.map fun p => if p = -1 then 1 else p.toNat
  let r := syms.foldl (fun (x : List FseEntry × List Nat) sym =>
    let d := x.2.getD sym 1
    let nb := al - Nat.log2 d
    (⟨sym, nb, d * 2 ^ nb - size⟩ :: x.1, x.2.set sym (d + 1))) ([], first)
  ⟨al, r.1.reverse⟩

/-- Zero probabilities that follow a zero: runs of two-bit counts. -/
def zeroRuns : Nat → Nat → Nat → Nat → Nat × Nat
  | 0, _, pos, k => (k, pos)
  | fuel + 1, v, pos, k =>
    let r := v / 2 ^ pos % 4
    if r = 3 then zeroRuns fuel v (pos + 2) (k + 3) else (k + r, pos + 2)

/-- The probabilities of a table description in the number `v` from bit `pos` on. -/
def readNorm (maxSym : Nat) : Nat → Nat → Nat → Nat → List Int → Option (List Int × Nat)
  | 0, _, _, _, _ => none
  | fuel + 1, v, pos, remaining, acc =>
    if remaining = 0 then (if acc.length ≤ maxSym + 1 then some (acc, pos) else none)
    else if maxSym < acc.length then none
    else
      let bits := Nat.log2 (remaining + 1) + 1
      let raw := v / 2 ^ pos % 2 ^ bits
      let lower := raw % 2 ^ (bits - 1)
      let thr := 2 ^ bits - 1 - (remaining + 1)
      let small := decide (lower < thr)
      let val := if small then lower else if 2 ^ (bits - 1) ≤ raw then raw - thr else raw
      let pos := if small then pos + bits - 1 else pos + bits
      let p : Int := (val : Int) - 1
      if remaining < p.natAbs then none
      else if p = 0 then
        let z := zeroRuns fuel v pos 0
        readNorm maxSym fuel v z.2 remaining (acc ++ List.replicate (1 + z.1) 0)
      else readNorm maxSym fuel v pos (remaining - p.natAbs) (acc ++ [p])

/-- A table description: the table and the bytes it takes. -/
def readFse (maxAl maxSym : Nat) (bs : List Byte) : Option (Fse × Nat) :=
  let v := ofLe bs
  let al := v % 16 + 5
  if maxAl < al then none
  else match readNorm maxSym 600 v 4 (2 ^ al) [] with
    | none => none
    | some r =>
      let n := ceilDiv r.2 8
      if bs.length < n then none else some (Fse.build al r.1, n)

/-! ### Huffman -/

/-- A Huffman table: longest code, and by the next bits the symbol and its length. -/
structure Huf where
  bits : Nat
  tab : List (Nat × Nat)

/-- The weights of a compressed description, two states taking turns. -/
def weightLoop (t : Fse) : Nat → Nat → Nat → Rev → List Nat → Option (List Nat)
  | 0, _, _, _, _ => none
  | fuel + 1, a, b, r, acc =>
    let e := t.at_ a
    match r.read e.bits with
    | none => some (acc ++ [e.sym, (t.at_ b).sym])
    | some (k, r) => weightLoop t fuel b (e.base + k) r (acc ++ [e.sym])

/-- The symbols in the order in which codes are given out, by weight. -/
def hufRows (ws : List Nat) (maxBits : Nat) : List (Nat × Nat) :=
  (List.range maxBits).flatMap fun k => (ws.zipIdx.filter fun q => q.1 == k + 1).flatMap fun q =>
    List.replicate (2 ^ k) (q.2, maxBits - k)

/-- The table of a list of weights; the last weight is implied. -/
def Huf.build (ws : List Nat) : Option Huf :=
  let sum := ws.foldl (fun a w => if w = 0 then a else a + 2 ^ (w - 1)) 0
  if sum = 0 ∨ ws.any (fun w => 11 < w) ∨ 255 < ws.length then none
  else
    let mb := Nat.log2 sum + 1
    let left := 2 ^ mb - sum
    if 11 < mb ∨ left ≠ 2 ^ Nat.log2 left then none
    else some ⟨mb, hufRows (ws ++ [Nat.log2 left + 1]) mb⟩

/-- A tree description: the table and the bytes it takes. [PRESUMED: log entry 70] -/
def readHuf (bs : List Byte) : Option (Huf × Nat) :=
  match bs with
  | [] => none
  | h :: r =>
    let n := h.toNat
    if 128 ≤ n then
      let k := n - 127
      let m := ceilDiv k 2
      if r.length < m then none
      else (Huf.build (tab k fun i => let b := le r (i / 2) 1; if i % 2 = 0 then b / 16 else b % 16)).map fun t => (t, 1 + m)
    else if r.length < n then none
    else match readFse 6 255 (r.take n) with
      | none => none
      | some (t, k) => match Rev.ofBytes ((r.take n).drop k) with
        | none => none
        | some rv => match rv.read t.al with
          | none => none
          | some (a, rv) => match rv.read t.al with
            | none => none
            | some (b, rv) => ((weightLoop t 256 a b rv []).bind Huf.build).map fun t => (t, 1 + n)

/-- `n` symbols of a Huffman stream, which must end with them. -/
def hufSyms (t : Huf) : Nat → Rev → List Byte → Option (List Byte)
  | 0, r, acc => if r.n = 0 then some acc.reverse else none
  | k + 1, r, acc =>
    let e := t.tab.getD (r.peek t.bits) (0, 0)
    match r.read e.2 with
    | none => none
    | some (_, r) => hufSyms t k r (BitVec.ofNat 8 e.1 :: acc)

/-- One Huffman stream. -/
def hufStream (t : Huf) (n : Nat) (bs : List Byte) : Option (List Byte) := (Rev.ofBytes bs).bind fun r => hufSyms t n r []

/-- Four Huffman streams with their jump table. -/
def hufFour (t : Huf) (n : Nat) (bs : List Byte) : Option (List Byte) :=
  let a := le bs 0 2
  let b := le bs 2 2
  let c := le bs 4 2
  let k := (n + 3) / 4
  let d := bs.drop 6
  if bs.length < 6 + a + b + c ∨ n < 3 * k then none
  else match hufStream t k (d.take a), hufStream t k ((d.drop a).take b), hufStream t k ((d.drop (a + b)).take c),
      hufStream t (n - 3 * k) (d.drop (a + b + c)) with
    | some w, some x, some y, some z => some (w ++ x ++ y ++ z)
    | _, _, _, _ => none

/-! ### Literals -/

/-- What a frame carries from block to block: the Huffman table, the three FSE tables, the repeat offsets. -/
structure Carry where
  huf : Option Huf
  ll : Option Fse
  off : Option Fse
  ml : Option Fse
  rep : Nat × Nat × Nat

/-- The literals of a block, the carry, and the bytes taken. -/
def readLits (c : Carry) (bs : List Byte) : Option (List Byte × Carry × Nat) :=
  let w := le bs 0 5
  let typ := w % 4
  let sf := w / 4 % 4
  if bs.isEmpty then none
  else if typ < 2 then
    let hd := if sf % 2 = 0 then 1 else if sf = 1 then 2 else 3
    let n := if sf % 2 = 0 then w / 8 % 32 else if sf = 1 then w / 16 % 2 ^ 12 else w / 16 % 2 ^ 20
    let body := if typ = 0 then n else 1
    if bs.length < hd + body ∨ 131072 < n then none
    else some (if typ = 0 then (bs.drop hd).take n else List.replicate n (bs.getD hd 0#8), c, hd + body)
  else
    let hd := if sf < 2 then 3 else sf + 2
    let k := if sf < 2 then 10 else if sf = 2 then 14 else 18
    let n := w / 16 % 2 ^ k
    let size := w / 2 ^ (4 + k) % 2 ^ k
    let body := (bs.drop hd).take size
    if bs.length < hd + size ∨ 131072 < n then none
    else
      let tree : Option (Huf × Nat) := if typ = 2 then readHuf body else c.huf.map fun t => (t, 0)
      match tree with
      | none => none
      | some (t, m) => (if sf = 0 then hufStream t n (body.drop m) else hufFour t n (body.drop m)).map fun ls =>
          (ls, { c with huf := some t }, hd + size)

/-! ### Sequences -/

/-- Baseline and extra bits of a literal length code. -/
def llCode (c : Nat) : Nat × Nat :=
  if c < 16 then (c, 0)
  else [(16, 1), (18, 1), (20, 1), (22, 1), (24, 2), (28, 2), (32, 3), (40, 3), (48, 4), (64, 6), (128, 7), (256, 8), (512, 9),
    (1024, 10), (2048, 11), (4096, 12), (8192, 13), (16384, 14), (32768, 15), (65536, 16)].getD (c - 16) (0, 0)

/-- Baseline and extra bits of a match length code. -/
def mlCode (c : Nat) : Nat × Nat :=
  if c < 32 then (c + 3, 0)
  else [(35, 1), (37, 1), (39, 1), (41, 1), (43, 2), (47, 2), (51, 3), (59, 3), (67, 4), (83, 4), (99, 5), (131, 7), (259, 8),
    (515, 9), (1027, 10), (2051, 11), (4099, 12), (8195, 13), (16387, 14), (32771, 15), (65539, 16)].getD (c - 32) (0, 0)

/-- The default distributions of literal lengths, offsets and match lengths. -/
def llDefault : Fse := Fse.build 6
  [4, 3, 2, 2, 2, 2, 2, 2, 2, 2, 2, 2, 2, 1, 1, 1, 2, 2, 2, 2, 2, 2, 2, 2, 2, 3, 2, 1, 1, 1, 1, 1, -1, -1, -1, -1]
def ofDefault : Fse := Fse.build 5 [1, 1, 1, 1, 1, 1, 2, 2, 2, 1, 1, 1, 1, 1, 1, 1, 1, 1, 1, 1, 1, 1, 1, 1, -1, -1, -1, -1, -1]
def mlDefault : Fse := Fse.build 6
  ([1, 4, 3, 2, 2, 2, 2, 2, 2] ++ List.replicate 37 1 ++ List.replicate 7 (-1))

/-- The table of one kind of code, by its mode, and the bytes it takes. -/
def readMode (mode maxAl maxSym : Nat) (dflt : Fse) (old : Option Fse) (bs : List Byte) : Option (Fse × Nat) :=
  if mode = 0 then some (dflt, 0)
  else if mode = 1 then (match bs with
    | [] => none
    | b :: _ => if maxSym < b.toNat then none else some (Fse.rle b.toNat, 1))
  else if mode = 2 then readFse maxAl maxSym bs
  else old.map fun t => (t, 0)

/-- A sequence: literal length, match length, offset value. -/
structure Sq where
  ll : Nat
  ml : Nat
  ov : Nat

/-- The states of the three tables. -/
structure SqSt where
  a : Nat
  b : Nat
  c : Nat

/-- `n` sequences; the stream must end with them. -/
def readSeqs (tl tOf tm : Fse) : Nat → SqSt → Rev → List Sq → Option (List Sq)
  | 0, _, r, acc => if r.n = 0 then some acc.reverse else none
  | n + 1, st, r, acc =>
    let el := tl.at_ st.a
    let eo := tOf.at_ st.b
    let em := tm.at_ st.c
    let lc := llCode el.sym
    let mc := mlCode em.sym
    match r.read eo.sym with
    | none => none
    | some (xo, r) => match r.read mc.2 with
      | none => none
      | some (xm, r) => match r.read lc.2 with
        | none => none
        | some (xl, r) =>
          let q : Sq := ⟨lc.1 + xl, mc.1 + xm, 2 ^ eo.sym + xo⟩
          if n = 0 then (if r.n = 0 then some (q :: acc).reverse else none)
          else match r.read el.bits with
            | none => none
            | some (ka, r) => match r.read em.bits with
              | none => none
              | some (kc, r) => match r.read eo.bits with
                | none => none
                | some (kb, r) => readSeqs tl tOf tm n ⟨el.base + ka, eo.base + kb, em.base + kc⟩ r (q :: acc)

/-- The sequences section: sequences and carry. [PRESUMED: log entry 70] -/
def readSeqSection (c : Carry) (bs : List Byte) : Option (List Sq × Carry) :=
  let b0 := le bs 0 1
  let cnt := if b0 < 128 then (b0, 1) else if b0 < 255 then ((b0 - 128) * 256 + le bs 1 1, 2) else (le bs 1 2 + 0x7F00, 3)
  if bs.isEmpty then none
  else if b0 = 0 then (if bs.length = 1 then some ([], c) else none)
  else if bs.length < cnt.2 + 1 then none
  else
    let m := le bs cnt.2 1
    let r0 := bs.drop (cnt.2 + 1)
    if m % 4 ≠ 0 then none
    else match readMode (m / 64) 9 35 llDefault c.ll r0 with
      | none => none
      | some (tl, n1) => match readMode (m / 16 % 4) 8 31 ofDefault c.off (r0.drop n1) with
        | none => none
        | some (tOf, n2) => match readMode (m / 4 % 4) 9 52 mlDefault c.ml (r0.drop (n1 + n2)) with
          | none => none
          | some (tm, n3) => match Rev.ofBytes (r0.drop (n1 + n2 + n3)) with
            | none => none
            | some r => match r.read tl.al with
              | none => none
              | some (a, r) => match r.read tOf.al with
                | none => none
                | some (b, r) => match r.read tm.al with
                  | none => none
                  | some (k, r) => (readSeqs tl tOf tm cnt.1 ⟨a, b, k⟩ r []).map fun qs =>
                      (qs, { c with ll := some tl, off := some tOf, ml := some tm })

/-- The offset that a sequence names, and the repeat offsets after it. -/
def offsetOf (rep : Nat × Nat × Nat) (ll ov : Nat) : Nat × (Nat × Nat × Nat) :=
  let (r1, r2, r3) := rep
  if 3 < ov then (ov - 3, (ov - 3, r1, r2))
  else
    let i := ov - 1 + (if ll = 0 then 1 else 0)
    if i = 0 then (r1, rep)
    else if i = 1 then (r2, (r2, r1, r3))
    else if i = 2 then (r3, (r3, r1, r2))
    else (r1 - 1, (r1 - 1, r1, r2))

/-- `n` bytes copied from `off` back in the reversed output. -/
def copyBack (off : Nat) : Nat → List Byte → List Byte
  | 0, out => out
  | n + 1, out => copyBack off n (out.getD (off - 1) 0#8 :: out)

/-- The sequences carried out on the reversed output: output, literals left, repeat offsets. -/
def runSeqs (window : Nat) : List Sq → List Byte → List Byte → Nat × Nat × Nat → Option (List Byte × List Byte × (Nat × Nat × Nat))
  | [], out, lits, rep => some (out, lits, rep)
  | q :: r, out, lits, rep =>
    if lits.length < q.ll then none
    else
      let out := (lits.take q.ll).reverse ++ out
      let o := offsetOf rep q.ll q.ov
      if o.1 = 0 ∨ out.length < o.1 ∨ window < o.1 then none
      else runSeqs window r (copyBack o.1 q.ml out) (lits.drop q.ll) o.2

/-- A compressed block: the reversed output and the carry after it. [PRESUMED: log entry 70] -/
def compBlock (window : Nat) (c : Carry) (out bs : List Byte) : Option (List Byte × Carry) :=
  match readLits c bs with
  | none => none
  | some (lits, c, n) => match readSeqSection c (bs.drop n) with
    | none => none
    | some (qs, c) => (runSeqs window qs out lits c.rep).map fun x => (x.2.1.reverse ++ x.1, { c with rep := x.2.2 })

/-- The blocks of a frame: the reversed output and what follows the last block. -/
def readBlocks (window : Nat) : Nat → Carry → List Byte → List Byte → Option (List Byte × List Byte)
  | 0, _, _, _ => none
  | fuel + 1, c, out, bs =>
    let h := le bs 0 3
    let typ := h / 2 % 4
    let n := h / 8
    let lim := min window 131072
    let r := bs.drop 3
    let size := if typ = 1 then 1 else n
    if bs.length < 3 + size ∨ typ = 3 ∨ lim < n then none
    else
      let next : Option (List Byte × Carry) :=
        if typ = 0 then some ((r.take n).reverse ++ out, c)
        else if typ = 1 then some (List.replicate n (r.headD 0#8) ++ out, c)
        else compBlock window c out (r.take n)
      match next with
      | none => none
      | some (o, c) => if out.length + lim < o.length then none
        else if h % 2 = 1 then some (o, r.drop size) else readBlocks window fuel c o (r.drop size)

/-! ### XXH64 -/

def xP1 : Nat := 11400714785074694791
def xP2 : Nat := 14029467366897019727
def xP3 : Nat := 1609587929392839161
def xP4 : Nat := 9650029242287828579
def xP5 : Nat := 2870177450012600261

/-- 64-bit rotation to the left. -/
def rotl64 (v k : Nat) : Nat := (v * 2 ^ k + v / 2 ^ (64 - k)) % 2 ^ 64
def xRound (acc v : Nat) : Nat := rotl64 ((acc + v * xP2) % 2 ^ 64) 31 * xP1 % 2 ^ 64
def xMerge (h v : Nat) : Nat := (Nat.xor h (xRound 0 v) * xP1 + xP4) % 2 ^ 64

/-- The four lanes over the 32-byte stripes. -/
def xStripes : Nat → List Byte → Nat × Nat × Nat × Nat → Nat × Nat × Nat × Nat
  | 0, _, x => x
  | k + 1, bs, (a, b, c, d) => xStripes k (bs.drop 32)
    (xRound a (le bs 0 8), xRound b (le bs 8 8), xRound c (le bs 16 8), xRound d (le bs 24 8))

/-- The last bytes, fewer than 8. -/
def xTail : Nat → List Byte → Nat
  | h, [] => h
  | h, b :: r => xTail (rotl64 (Nat.xor h (b.toNat * xP5 % 2 ^ 64)) 11 * xP1 % 2 ^ 64) r

/-- The remaining words of 8 bytes, one of 4, and bytes. -/
def xRest : Nat → Nat → List Byte → Nat
  | 0, h, _ => h
  | k + 1, h, bs =>
    if 8 ≤ bs.length then xRest k ((rotl64 (Nat.xor h (xRound 0 (le bs 0 8))) 27 * xP1 + xP4) % 2 ^ 64) (bs.drop 8)
    else if 4 ≤ bs.length then xTail ((rotl64 (Nat.xor h (le bs 0 4 * xP1 % 2 ^ 64)) 23 * xP2 + xP3) % 2 ^ 64) (bs.drop 4)
    else xTail h bs

/-- XXH64 with seed 0. [PRESUMED: log entry 70] -/
def xxh64 (bs : List Byte) : Nat :=
  let n := bs.length
  let h := if n < 32 then xP5 else
    let (a, b, c, d) := xStripes (n / 32) bs ((xP1 + xP2) % 2 ^ 64, xP2, 0, 2 ^ 64 - xP1)
    xMerge (xMerge (xMerge (xMerge ((rotl64 a 1 + rotl64 b 7 + rotl64 c 12 + rotl64 d 18) % 2 ^ 64) a) b) c) d
  let h := xRest 5 ((h + n) % 2 ^ 64) (bs.drop (n / 32 * 32))
  let h := Nat.xor h (h / 2 ^ 33) * xP2 % 2 ^ 64
  let h := Nat.xor h (h / 2 ^ 29) * xP3 % 2 ^ 64
  Nat.xor h (h / 2 ^ 32)

/-! ### Frames -/

/-- A frame header: window size, content size, checksum present, bytes taken. -/
structure FrameHdr where
  window : Nat
  size : Nat
  sum : Bool
  bytes : Nat

/-- The header of a frame within the limits of R577. [PRESUMED: log entry 70] [DEDUCED: log entry 104] -/
def frameHdr (bs : List Byte) : Option FrameHdr :=
  let d := le bs 4 1
  let single := bit d 5
  let w := le bs 5 1
  let base := 2 ^ (10 + w / 8)
  let nW := if single then 0 else 1
  let nD := [0, 1, 2, 4].getD (d % 4) 0
  let nF := if d / 64 = 0 then (if single then 1 else 0) else 2 ^ (d / 64)
  let dict := le bs (5 + nW) nD
  let f := le bs (5 + nW + nD) nF
  let size := if nF = 2 then f + 256 else f
  let window := if single then size else base + base / 8 * (w % 8)
  let n := 5 + nW + nD + nF
  if bs.length < n ∨ le bs 0 4 ≠ 0xFD2FB528 ∨ bit d 3 ∨ nF = 0 ∨ dict ≠ 0 ∨ 8388608 < size ∨ 8388608 < window then none
  else some ⟨window, size, bit d 2, n⟩

/-- The content of a payload that is exactly one frame within the limits of R577. [PRESUMED: log entry 70] [DEDUCED: log entry 104] -/
def unzstd (bs : List Byte) : Option (List Byte) :=
  match frameHdr bs with
  | none => none
  | some h => match readBlocks h.window bs.length ⟨none, none, none, none, (1, 4, 8)⟩ [] (bs.drop h.bytes) with
    | none => none
    | some (o, rest) =>
      let out := o.reverse
      if out.length ≠ h.size then none
      else if h.sum then (if rest.length = 4 ∧ ofLe rest = xxh64 out % 2 ^ 32 then some out else none)
      else if rest.isEmpty then some out else none

end Sys2Proof.Machine
end

