-- ==== Sys2Proof/Machine/Feed.lean ====
section
/-! DEFINITION. The record pipeline: Ororex files (R573 to R579), the shuffle (R580), packing rows (R586 to R589), decode
budgets and replay (R590 to R592). -/

namespace Sys2Proof.Machine

/-- Page and unit of the record pipeline. -/
def pageRP : Nat := 9
def unitRP : Nat := 108

/-! ### The descriptor (Table 15-3) -/

def fdFile (d : List Byte) : Nat := dField d 1 47 0
def fdOut (d : List Byte) : Nat := dField d 2 47 0
def fdRows (d : List Byte) : Nat := dField d 3 47 32
def fdPos (d : List Byte) : Nat := dField d 3 31 0
def fdEpoch (d : List Byte) : Nat := dField d 4 63 32
def fdSeed (d : List Byte) : Nat := dField d 4 31 0
def fdSegMax (d : List Byte) : Nat := dField d 5 31 24
def fdElem (d : List Byte) : Nat := 2 ^ dField d 5 21 20
def fdElems (d : List Byte) : Nat := dField d 5 16 0
def fdCap (d : List Byte) : Nat := dField d 6 63 48
def fdSkip (d : List Byte) : Nat := dField d 6 47 0
def fdReplay (d : List Byte) : Bool := bit (dWord d 0) 8

/-! ### The shuffle (R580) -/

/-- The smallest h from `h` on with 4^h ≥ n, at most 16. -/
def halfBits : Nat → Nat → Nat → Nat
  | 0, h, _ => h
  | fuel + 1, h, n => if h < 16 ∧ 2 ^ (2 * h) < n then halfBits fuel (h + 1) n else h

/-- The four rounds over the two halves. -/
def feistel (h seed epoch x : Nat) : Nat :=
  let r := (List.range 4).foldl (fun (q : Nat × Nat) k =>
    let key := Nat.xor (Nat.xor seed (epoch * 0x9E3779B9 % 2 ^ 32)) (k * 0x85EBCA6B % 2 ^ 32)
    (q.2, Nat.xor q.1 (srBits key q.2 % 2 ^ h))) (x / 2 ^ h, x % 2 ^ h)
  r.1 * 2 ^ h + r.2

/-- Cycle walking into 0 to n − 1. -/
def walk (h seed epoch n : Nat) : Nat → Nat → Nat
  | 0, x => x
  | fuel + 1, x => let y := feistel h seed epoch x; if n ≤ y then walk h seed epoch n fuel y else y

/-- perm(p). The walk ends within the 4^h values of its domain. -/
def perm (p n seed epoch : Nat) : Nat :=
  let h := halfBits 16 1 n
  walk h seed epoch n (2 ^ (2 * h)) p

/-! ### Finding a record (R573 to R579) -/

/-- The fields of a file header that a FEED uses. -/
structure FileHdr where
  n : Nat
  chunks : Nat
  index : Nat

/-- A file header that passes the checks of R583. -/
def fileHdr (b : List Byte) : Option FileHdr :=
  if le b 0 4 = 0x5852524F ∧ le b 4 2 = 1 ∧ le b 6 2 = 64 ∧ 16 ≤ le b 8 1 ∧ le b 8 1 ≤ 26 ∧ le b 9 7 = 0 ∧ le b 48 12 = 0
      ∧ le b 60 4 = crc32c (b.take 60) ∧ le b 24 8 % 8 = 0 then some ⟨le b 16 4, le b 20 4, le b 24 8⟩
  else none

/-- What a record gives: its TYPE, FLAGS, sample length, and the sample unless the record is CORRUPT. A record that cannot
be located has length 1, so that it counts as CORRUPT. -/
structure Rec where
  typ : Nat
  flags : Nat
  len : Nat
  sample : Option (List Byte)

/-- A record without a place (R579). -/
def Rec.lost : Rec := ⟨0, 0, 1, none⟩

/-- The index entry that holds record `i`: chunk offset, FIRST_REC, N_REC. -/
def indexEntry (ix : List Byte) (n i : Nat) : Option (Nat × Nat × Nat) :=
  ((List.range n).map fun k => (le ix (16 * k) 8, le ix (16 * k + 8) 4, le ix (16 * k + 12) 4)).find? fun e => e.2.1 ≤ i && i < e.2.1 + e.2.2

/-- The record in bytes `b`, which begin at its header and hold all of it (R576, R577, R579). -/
def recOf (elem : Nat) (b : List Byte) : Rec :=
  let n := le b 0 4
  let flags := le b 6 2
  let payload := (b.drop 8).take n
  let zip := bit flags 0
  let crcOk := le b (8 + n) 4 == crc32c (b.take (8 + n)) && flags < 2
  let raw : Option (List Byte) := if zip then unzstd payload else some payload
  let len := if zip then ((frameHdr payload).map FrameHdr.size).getD 1 else n
  ⟨le b 4 2, flags, len, if crcOk && len % elem == 0 then raw else none⟩

/-- Record `i` of the file: a read that fails stops the job (R578, R579, R584). [DEDUCED: log entry 104] -/
def recordE (s : State) (tkt : Nat) (ecc : Ecc) (d : List Byte) (h : FileHdr) (i : Nat) : Rd Rec :=
  let rd (o n : Nat) : Rd (List Byte) := readE s unitRP tkt ecc (fdFile d + o) n
  do
    let ix ← rd h.index (16 * h.chunks)
    match indexEntry ix h.chunks i with
    | none => return Rec.lost
    | some (off, first, cnt) => do
      let c ← rd off 32
      if !(le c 0 4 == 0x4B43524F && le c 28 4 == crc32c (c.take 28) && le c 4 4 == cnt && le c 8 4 == first) then return Rec.lost
      else do
        let tab ← rd (off + le c 12 4 + 4 * (i - first)) 4
        let o := ofLe tab
        let hd ← rd (off + o) 8
        let n := le hd 0 4
        if le c 12 4 < o + n + 12 then return ⟨le hd 4 2, le hd 6 2, if bit (le hd 6 2) 0 then max n 1 else n, none⟩
        else do
          let b ← rd (off + o) (n + 12)
          return recOf (fdElem d) b

/-! ### Rows (R586) -/

/-- The bytes of a row: header, segment table, data, marks. -/
def rowBytesOf (d : List Byte) (x : FeedRun) (last : Bool) : List Byte :=
  let e := fdElems d
  let o := feedOffsets d
  let pad (n : Nat) (bs : List Byte) : List Byte := bs ++ List.replicate (n - bs.length) 0#8
  let head := leBytes 8 (x.pos * 2 ^ 32 + x.posFirst) ++ leBytes 8 (x.used * 2 ^ 32 + fdEpoch d)
    ++ leBytes 8 (x.logged % 2 ^ 16 * 2 ^ 48 + x.nSkip % 2 ^ 32 * 2 ^ 16 + ofBool last * 2 ^ 8 + x.segs.length) ++ leBytes 8 x.row
  let table := x.segs.flatMap fun g => leBytes 4 g.record ++ leBytes 2 g.typ ++ leBytes 2 g.flags ++ leBytes 4 g.start ++ leBytes 4 g.len
  let marks := x.segs.zipIdx.flatMap fun q => (List.replicate q.1.len (leBytes 2 (q.2 + 1))).flatten
  pad o.1 (pad 64 head ++ table) ++ pad (o.2.1 - o.1) x.data ++ pad (64 * ceilDiv (2 * e) 64) marks

/-- What a FEED has done: where it stands, rows closed, log entries written, the counts of RP_CNT, and the ranges it has read. [DEDUCED: log entry 102] -/
structure FeedOut where
  run : FeedRun
  rows : List (Nat × List Byte)
  logs : List (Nat × List Byte)
  zero : Nat
  corrupt : Nat
  tooLong : Nat
  skipped : Nat
  overrun : Bool
  reads : List Span

/-- A procedure has run: the ranges it read count. -/
def FeedOut.after {α : Type} (x : FeedOut) (f : Rd α) : FeedOut := { x with reads := x.reads ++ spans f }

/-- The row in progress is closed (R587). -/
def FeedOut.close (x : FeedOut) (d : List Byte) (last : Bool) : FeedOut :=
  let r := x.run
  { x with rows := x.rows ++ [(r.row, rowBytesOf d r last)], run := { r with row := r.row + 1, posFirst := r.pos, segs := [], data := [], used := 0, nSkip := 0, rowLog := r.logged } }

/-- The row in progress is closed, if it may be written (R584, R587). -/
def closeE (s : State) (tkt : Nat) (ecc : Ecc) (d : List Byte) (last : Bool) (x : FeedOut) : Except Stop FeedOut := do
  let rb := (feedOffsets d).2.2
  let _ ← writeOk s unitRP tkt ecc (fdOut d + x.run.row * rb) rb
  return x.close d last

/-- The position is consumed without a sample. -/
def FeedRun.skip (r : FeedRun) : FeedRun := { r with pos := r.pos + 1, nSkip := r.nSkip + 1 }

/-- The running mean A (R590). -/
def meanTime (s : State) (r : FeedRun) : Nat :=
  if r.times.isEmpty then s.get RP_BUDGET_A_INIT else (r.times.foldl (fun a b => a + b) 0) / r.times.length

/-- The decode budget B (R590). -/
def budget (s : State) (r : FeedRun) : Nat := max (s.get RP_BUDGET_BUDGET_MIN) (max 1 (s.get RP_BUDGET_BUDGET_X) * meanTime s r)

/-- The next entry of a replayed skip log from entry `k` on: its number, POS and REC. Before any entry is taken, those below
the job's POS are passed over (R592). [DEDUCED: log entries 102, 103] -/
def replayEntryE (s : State) (tkt : Nat) (ecc : Ecc) (d : List Byte) (pass : Bool) : Nat → Nat → Rd (Option (Nat × Nat × Nat))
  | 0, _ => pure none
  | fuel + 1, k =>
    if fdCap d ≤ k then pure none
    else do
      let b ← readE s unitRP tkt ecc (fdSkip d + 8 * k) 8
      if pass && le b 0 4 < fdPos d then replayEntryE s tkt ecc d pass fuel (k + 1) else return some (k, le b 0 4, le b 4 4)

/-- How the work on one position ends. -/
inductive FeedStep
  | go (x : FeedOut) (times : List Nat)
  | done (x : FeedOut) (status : Nat)
  | pause (x : FeedOut)
  | stop (x : FeedOut) (why : Stop)

/-- The record is abandoned, if its skip log entry has room and may be written (R584, R590, R591). -/
def abandonRec (s : State) (tkt : Nat) (ecc : Ecc) (d : List Byte) (x : FeedOut) (rec : Nat) (forced : Bool) (times : List Nat) : FeedStep :=
  if x.run.logged = fdCap d then .done x 0x63
  else match writeOk s unitRP tkt ecc (fdSkip d + 8 * x.run.logged) 8 with
    | .error e => .stop x e
    | .ok _ =>
      let y := { x with run := { x.run.skip with logged := x.run.logged + 1 }, logs := x.logs ++ [(x.run.logged, leBytes 4 x.run.pos ++ leBytes 4 rec)], skipped := x.skipped + 1, overrun := true }
      if forced then .pause y else .go y (times.drop 1)

/-- A located record at the current position: placed, or skipped (R587, R590, R591). `forced`: its decode overruns. [DEDUCED: log entry 105] -/
def placeRec (s : State) (tkt : Nat) (ecc : Ecc) (d : List Byte) (x : FeedOut) (rec : Nat) (r : Rec) (forced : Bool) (times : List Nat) : FeedStep :=
  let el := fdElem d
  let e := fdElems d
  let n := r.len / el
  if r.len = 0 then .go { x with run := x.run.skip, zero := x.zero + 1 } times
  else match r.sample with
    | none => .go { x with run := x.run.skip, corrupt := x.corrupt + 1 } times
    | some bs =>
      if e < n then .go { x with run := x.run.skip, tooLong := x.tooLong + 1 } times
      else
        let full := decide (e < x.run.used + n) || x.run.segs.length == fdSegMax d
        match (if full then closeE s tkt ecc d false x else .ok x) with
        | .error e => .stop x e
        | .ok x =>
          let t := times.headD 0
          if full && fdRows d ≤ x.run.row then .done x stDONE
          else if !(fdReplay d) && (forced || budget s x.run < t) then abandonRec s tkt ecc d x rec forced times
          else
            let g : Seg := ⟨rec, r.typ, r.flags, x.run.used, n⟩
            .go { x with run := { x.run with pos := x.run.pos + 1, segs := x.run.segs ++ [g], data := x.run.data ++ bs, used := x.run.used + n, times := (t :: x.run.times).take 64 } } (times.drop 1)

/-- One position (R587, R588, R592). [DEDUCED: log entry 105] -/
def feedStep (s : State) (tkt : Nat) (ecc : Ecc) (d : List Byte) (h : FileHdr) (forced : Bool) (x : FeedOut) (times : List Nat) : FeedStep :=
  let p := x.run.pos
  let rec_ := perm p h.n (fdSeed d) (fdEpoch d)
  if h.n ≤ p then
    match (if x.run.segs.isEmpty && x.run.nSkip == 0 then .ok x else closeE s tkt ecc d true x) with
    | .error e => .stop x e
    | .ok y => .done y 0x61
  else
    let next := if fdReplay d then replayEntryE s tkt ecc d (x.run.logged == 0) (fdCap d + 1) x.run.replayAt else pure none
    let found := recordE s tkt ecc d h rec_
    let x := x.after next
    match result next with
    | .error e => .stop x e
    | .ok (some (k, q, r)) =>
      if q < p ∨ (q = p ∧ r ≠ rec_) then .done x 0x62
      else if q = p then .go { x with run := { x.run.skip with logged := x.run.logged + 1, replayAt := k + 1 }, skipped := x.skipped + 1 } times
      else (match result found with
        | .error e => .stop ({ x with run := { x.run with replayAt := k } }.after found) e
        | .ok r => placeRec s tkt ecc d ({ x with run := { x.run with replayAt := k } }.after found) rec_ r forced times)
    | .ok none => match result found with
      | .error e => .stop (x.after found) e
      | .ok r => placeRec s tkt ecc d (x.after found) rec_ r forced times

/-- Positions one after another. [DESIGN CHOICE: log entry 106] -/
def feedLoop (s : State) (tkt : Nat) (ecc : Ecc) (d : List Byte) (h : FileHdr) (forced : Bool) : Nat → FeedOut → List Nat → FeedStep
  | 0, x, _ => .pause x
  | fuel + 1, x, times => match feedStep s tkt ecc d h forced x times with
    | .go y ts => feedLoop s tkt ecc d h forced fuel y ts
    | r => r

/-- A FEED at its start. -/
def FeedRun.start (j : Job) : FeedRun := ⟨j.queue, j.index, fdPos j.desc, 0, fdPos j.desc, [], [], 0, 0, 0, 0, 0, []⟩

/-- Where the working FEED stands. -/
def feedRun (s : State) (j : Job) : FeedRun := match s.feed.run with
  | some r => if r.queue == j.queue && r.index == j.index then r else FeedRun.start j
  | none => FeedRun.start j

/-- A job that ends leaves the row in progress and the skip log entries after those of its last row unpredictable (R584). -/
def feedFails (j : Job) (x : FeedOut) (st : Nat) : Act := seq [
  loseRange (fdOut j.desc + x.run.row * (feedOffsets j.desc).2.2) (feedOffsets j.desc).2.2,
  whenA (!(fdReplay j.desc)) (loseRange (fdSkip j.desc + 8 * x.run.rowLog) (8 * (fdCap j.desc - x.run.rowLog))),
  endRunning unitRP st]

/-- The job ends: its running mean stands in RP_LAST_A. -/
def feedEnds (x : FeedOut) : Act := withS fun s => seq [setF RP_LAST_A_A (meanTime s x.run), updFeed fun _ => ⟨none⟩]

/-- The counts and interrupts of a FEED. -/
def feedCounts (x : FeedOut) : Act := seq [countF RP_CNT_ZERO x.zero, countF RP_CNT_CORRUPT x.corrupt, countF RP_CNT_TOO_LONG x.tooLong,
  countF RP_CNT_SKIPPED x.skipped, whenA (x.corrupt != 0) (raiseInt pageRP 1), whenA x.overrun (raiseInt pageRP 0)]

/-- The writes of a FEED: skip log entries, and rows, header last. -/
def feedWrites (j : Job) (x : FeedOut) : Act :=
  let rb := (feedOffsets j.desc).2.2
  forA (x.logs.map (fun l => (fdSkip j.desc + 8 * l.1, l.2)) ++ x.rows.map fun r => (fdOut j.desc + r.1 * rb, r.2)) fun w => seq [
    charge unitRP j.ticket true w.1 w.2.length, writeRange (w.1 + 64) (w.2.drop 64), writeRange w.1 (w.2.take 64)]

/-- The access that stopped a FEED, if one did, and the ranges it has read. -/
def FeedStep.reading : FeedStep → Rd Unit
  | .stop x e => do
    modify fun l => l ++ x.reads
    throw e
  | .go x _ | .done x _ | .pause x => modify fun l => l ++ x.reads

/-- The FEED goes on to its end, or, when `forced`, to the record whose decode overruns. [DEDUCED: log entry 102] -/
def feedOn (j : Job) (ecc : Ecc) (forced : Bool) (times : List Nat) : Act := withS fun s =>
  let d := j.desc
  let x0 : FeedOut := ⟨feedRun s j, [], [], 0, 0, 0, 0, false, []⟩
  let loop (h : FileHdr) (ecc : Ecc) : FeedStep := feedLoop s j.ticket ecc d h forced (h.n + 1 - x0.run.pos + 1) x0 times
  let all (ecc : Ecc) : Rd Unit := do
    let b ← readE s unitRP j.ticket ecc (fdFile d) 64
    match fileHdr b with
    | none => return ()
    | some h => (loop h ecc).reading
  seq [runsE unitRP j.ticket ecc all, match readOk s unitRP j.ticket ecc (fdFile d) 64 with
  | .error x => seq [noteStop unitRP j.ticket x, feedFails j x0 x.st, feedEnds x0]
  | .ok b => match fileHdr b with
    | none => seq [endRunning unitRP 0x60, feedEnds x0]
    | some h => match loop h ecc with
      | .go x _ => feedCounts x
      | .pause x => seq [feedWrites j x, feedCounts x, updFeed fun _ => ⟨some x.run⟩]
      | .done x st => seq [feedWrites j x, feedCounts x, whenA (st == 0x63) (raiseInt pageRP 2), feedEnds x, endRunning unitRP st]
      | .stop x e => seq [feedWrites j x, feedCounts x, noteStop unitRP j.ticket e, feedFails j x e.st, feedEnds x]]

/-- FEED (R583 to R592). [DESIGN CHOICE: log entry 23] -/
def execFeed (u : Nat) (times : List Nat) (ecc : Ecc) (s : State) : Host.Outcome State Fault Refusal :=
  perform (Instr.wellFormed (.feed u times ecc)) (withS fun s => match workingJob s unitRP 0xB0 with
    | some j => feedOn j ecc false times
    | none => skip) s

/-- The decode of the next record that a running FEED places passes its budget (R590); a replay has none. [DESIGN CHOICE: log entry 106] -/
def execDecodeBudgetOverrun (u : Nat) (ecc : Ecc) (s : State) : Host.Outcome State Fault Refusal :=
  perform (Instr.wellFormed (.decodeBudgetOverrun u ecc)) (withS fun s => match workingJob s unitRP 0xB0 with
    | some j => if fdReplay j.desc then skip else feedOn j ecc true []
    | none => skip) s

end Sys2Proof.Machine
end

