-- ==== Sys2Proof/Machine/Fuse.lean ====
section
/-! DEFINITION. FUSE: the result of one closed cycle of an alignment group (R407 to R423, R429). -/

namespace Sys2Proof.Machine

/-- The group that a FUSE descriptor names (R419). [DEDUCED: log entry 76] -/
def fuseGroup (d : List Byte) : Nat := dOpx d % 16

/-- Where the result of cycle `n` of group `g` goes (R423). [DEDUCED: log entries 65, 71] -/
def resultBase (s : State) (g n : Nat) : Nat := s.get (FU_GROUP_RES_RES_BASE g) + n % 2 * (s.get (FU_GROUP_RES_RES_STRIDE g) * 4096)

/-! ### Sums -/

/-- A sum left to right from its first term; an empty sum is 0. [DEDUCED: log entry 65] -/
def fsum : List Nat → Nat
  | [] => 0
  | a :: r => r.foldl fadd a

/-- Seconds from nanoseconds: fp32(t) × 10⁻⁹ (R410). -/
def fSeconds (t : Int) : Nat := fmul (f32Int t) 0x3089705F

/-! ### STATE groups (R407) -/

/-- The value of channel `ch` at `tRef` from a history, newest first. -/
def stateValue (h : History) (tRef ch : Nat) (extrap : Bool) (last : Nat) : Nat :=
  let v (x : Nat × List Nat) : Nat := x.2.getD ch 0
  let dt (a b : Nat) : Nat := f32Int ((a : Int) - b)
  let sorted := h.mergeSort fun x y => y.1 ≤ x.1
  let older := sorted.filter fun x => x.1 ≤ tRef
  let b := (sorted.filter fun x => tRef < x.1).getLast?
  match older, b with
  | a :: _, some b => fadd (v a) (fmul (fsub (v b) (v a)) (fdiv (dt tRef a.1) (dt b.1 a.1)))
  | a :: a1 :: _, none => if extrap then fadd (v a) (fmul (fsub (v a) (v a1)) (fdiv (dt tRef a.1) (dt a.1 a1.1))) else v a
  | [a], none => v a
  | [], _ => last

/-- The 256 values of a STATE cycle, by member and channel; 0 for a channel not in use. [DEDUCED: log entry 248] -/
def stateValues (s : State) (g : Nat) (h : Held) : List (Nat × List Nat) := (members s g).map fun m =>
  let used := match channelMap s g m.1 with
    | some es => es.map channelUsed
    | none => List.replicate 16 true
  (m.1, tab 16 fun ch => if !(used.getD ch false) then 0 else
    stateValue ((mget h.hist m.1).getD []) h.info.tRef ch (s.is (FU_GROUP_CFG_EXTRAP g)) (((mget (s.fgroup g).emitted m.1).getD []).getD ch 0))

/-! ### SCENE groups: what is read -/

/-- The parameter block of a SCENE group (Table 10-5). -/
structure ScenePar where
  assoc : Nat
  gate : Nat
  velGain : Nat
  q : Nat
  zmin : Nat
  projMin : Nat
  occLo : Nat
  occHi : Nat
  dispMax : Nat
  newMax : Nat
  dropCyc : Nat
  ds : Nat
  c : Nat
  gy : Nat
  gx : Nat
  w : List Nat

/-- The parameter block in 128 bytes. -/
def scenePar (b : List Byte) : ScenePar :=
  let f (i : Nat) : Nat := le b (4 * i) 4
  let w4 := le b 32 8
  ⟨f 1, f 0, f 3, f 2, f 5, f 4, f 7, f 6, field w4 55 46, field w4 45 36, field w4 35 28, field w4 27 25, field w4 24 18, field w4 17 9,
    field w4 8 0, tab 16 fun m => f32 (decodeFloat (floatFmt 1) (le b (40 + 2 * m) 2))⟩

/-- A snapshot sample that takes part: its member, stream, content and payload. -/
structure Seen where
  member : Nat
  stream : Nat
  content : Nat
  payload : List Byte

/-- The payload of a snapshot sample of stream `i`, if its slot still holds it (R429). -/
def sampleE (s : State) (tkt : Nat) (ecc : Ecc) (i : Nat) (a : Sample) : Rd (Option (List Byte)) := do
  let h ← readE s unitFU tkt ecc a.addr 32
  if le h 22 2 ≠ a.seq % 65536 then return none
  let p ← readE s unitFU tkt ecc (a.addr + 32) (min (le h 16 4) (slotRoom s i))
  return some p

/-- The samples of a member that a SCENE cycle reads: all its points and detections, the newest grid; images are not read. [DEDUCED: log entries 17, 75] -/
def samplesRead (content : Nat) (as : List Sample) : List Sample :=
  if content = 2 ∨ content = 3 then as else if content = 4 then as.getLast?.toList else []

/-- The snapshot of a member as FUSE reads it; none when a slot no longer holds its sample (R429). [DEDUCED: log entry 75] -/
def seenE (s : State) (tkt : Nat) (ecc : Ecc) (x : Nat × Nat × List Sample) : Rd (Nat × Nat × Option (List Seen)) := do
  let content := s.get (FU_STREAM_CFG_CONTENT x.2.1)
  let ps ← mapE (sampleE s tkt ecc x.2.1) (samplesRead content x.2.2)
  if ps.any Option.isNone then return (x.1, x.2.1, none)
  return (x.1, x.2.1, some (if ps.isEmpty then [⟨x.1, x.2.1, content, []⟩] else (ps.filterMap id).map fun p => ⟨x.1, x.2.1, content, p⟩))

/-- The calibration record of stream `i` that was in force at the cycle's boundary (R408). -/
def Cycle.calOf (c : Cycle) (i : Nat) : List Byte := (mget c.cal i).getD (List.replicate 64 0#8)

/-! ### The geometric level (R409) -/

/-- The points of a cycle in the body frame, at most 131,072. -/
def scenePoints (c : Cycle) (xs : List Seen) : List (List Nat) :=
  ((xs.filter fun x => x.content == 2).flatMap fun x =>
    (chunks 16 (x.payload.length / 16) x.payload).map fun b => toBody (c.calOf x.stream) [le b 0 4, le b 4 4, le b 8 4]).take 131072

/-- Width and height of a camera's depth map. -/
def depthW (ds : Nat) (rec : List Byte) : Nat := (calW rec + 2 ^ ds - 1) / 2 ^ ds
def depthH (ds : Nat) (rec : List Byte) : Nat := (calH rec + 2 ^ ds - 1) / 2 ^ ds

/-- Whole part of a non-negative FP32 code. [DEDUCED: log entry 89] -/
def f32Whole (a : Nat) : Nat := match f32Val a with
  | .fin _ m e => m * 2 ^ e.toNat / 2 ^ (-e).toNat
  | _ => 0

/-- The depth cell of a body point in a camera, and its FP16 depth. -/
def depthHit (p : ScenePar) (rec : List Byte) (b : List Nat) : Option (Nat × Nat) :=
  let x := toCamera rec b
  let z := x.getD 2 0
  let uv := project rec x
  if flt p.zmin z && fle 0 uv.1 && flt uv.1 (f32Int (calW rec)) && fle 0 uv.2 && flt uv.2 (f32Int (calH rec)) then
    some (f32Whole uv.2 / 2 ^ p.ds * depthW p.ds rec + f32Whole uv.1 / 2 ^ p.ds, (convFloat (floatFmt 1) none (f32Val z)).code)
  else none

/-- The smaller FP16 depth; the earlier one on a tie. -/
def minDepth (a b : Nat) : Nat := if (decodeFloat (floatFmt 1) b).lt (decodeFloat (floatFmt 1) a) then b else a

/-- A camera's depth map. [DEDUCED: log entry 71] -/
def depthMap (p : ScenePar) (rec : List Byte) (pts : List (List Nat)) : List Nat :=
  let m : SMap Nat := pts.foldl (fun m b => match depthHit p rec b with
    | some h => mset m h.1 (minDepth ((mget m h.1).getD 0x7C00) h.2)
    | none => m) []
  tab (depthW p.ds rec * depthH p.ds rec) fun i => (mget m i).getD 0x7C00

/-! ### The object level (R410 to R414) -/

/-- A detection: its place in detection order, stream, SRC_STREAM, class, position and variances. -/
structure Det where
  ord : Nat
  stream : Nat
  src : Nat
  cls : Nat
  p : List Nat
  var : List Nat

/-- The detections of a cycle in the body frame, at most 1,024, in detection order; variances as a track takes them (R97). -/
def sceneDets (s : State) (c : Cycle) (xs : List Seen) : List Det :=
  let all := ((xs.filter fun x => x.content == 3).flatMap fun x =>
    (chunks 32 (x.payload.length / 32) x.payload).map fun b => (x.stream, b)).take 1024
  all.zipIdx.map fun q =>
    let f (i : Nat) : Nat := le q.1.2 (4 + 4 * i) 4
    let src := s.get (FU_STREAM_SEL_SRC_STREAM q.1.1)
    ⟨q.2, q.1.1, src, le q.1.2 0 2, toBody (c.calOf src) [f 0, f 1, f 2], [f 3, f 4, f 5].map canon32⟩

/-- A track after the prediction step. -/
def predictTrack (p : ScenePar) (dt : Nat) (t : Track) : Track :=
  { t with p := List.zipWith (fun a v => fadd a (fmul v dt)) t.p t.v, var := t.var.map fun v => fadd v (fmul p.q dt) }

/-- d² of two positions with variances. -/
def dist2 (pa va pb vb : List Nat) : Nat := fsum (tab 3 fun i =>
  let d := fsub (pa.getD i 0) (pb.getD i 0)
  fdiv (fmul d d) (fadd (va.getD i 0) (vb.getD i 0)))

/-- A candidate pair: d², track, detection. -/
abbrev Cand := Nat × Track × Det

/-- Ascending d², track ID, detection order. -/
def Cand.le (a b : Cand) : Bool :=
  flt a.1 b.1 || (!(flt b.1 a.1) && (a.2.1.id < b.2.1.id || (a.2.1.id == b.2.1.id && a.2.2.ord ≤ b.2.2.ord)))

/-- The assignment of detections to tracks: pairs of track ID and detection, in the order accepted (R411). -/
def assign (p : ScenePar) (ts : List Track) (ds : List Det) : List (Nat × Det) :=
  let cs : List Cand := ts.flatMap fun t => ds.filterMap fun d =>
    let x := dist2 t.p t.var d.p d.var
    if t.cls == d.cls && fle x p.assoc then some (x, t, d) else none
  (cs.mergeSort Cand.le).foldl (fun acc c =>
    if acc.any fun a => a.2.ord == c.2.2.ord || (a.1 == c.2.1.id && a.2.src == c.2.2.src) then acc else acc ++ [(c.2.1.id, c.2.2)]) []

/-- What the pairs of one track's detections leave: those rejected, and those unarbitrated, by detection order. -/
structure Verdict where
  rejected : List Nat
  open_ : List Nat

/-- One pair (a, b) examined (R412). [DEDUCED: log entry 67] -/
def judgePair (gate : Nat) (ds : List Det) (x : Verdict) (a b : Det) : Verdict :=
  let d2 (u v : Det) : Nat := dist2 u.p u.var v.p v.var
  if x.rejected.contains a.ord || x.rejected.contains b.ord || !(flt gate (d2 a b)) then x
  else match ds.find? fun c => c.ord != a.ord && c.ord != b.ord && (fle (d2 a c) gate != fle (d2 b c) gate) with
    | some c => { x with rejected := x.rejected ++ [if fle (d2 a c) gate then b.ord else a.ord] }
    | none => { x with open_ := x.open_ ++ [a.ord, b.ord] }

/-- The pairs of a list, the first before the second. -/
def pairsOf {α : Type} : List α → List (α × α)
  | [] => []
  | a :: r => r.map (fun b => (a, b)) ++ pairsOf r

/-- The detections of one track, in detection order, examined. [DEDUCED: log entry 67] -/
def judge (gate : Nat) (ds : List Det) : Verdict := (pairsOf ds).foldl (fun x q => judgePair gate ds x q.1 q.2) ⟨[], []⟩

/-- The conservative union of unarbitrated detections (R413). [DEDUCED: log entry 74] -/
def unite (t : Track) (ds : List Det) : Track :=
  let n2 (d : Det) : Nat := fsum (d.p.map fun v => fmul v v)
  let near := ds.foldl (fun b d => match b with
    | none => some d
    | some e => if flt (n2 d) (n2 e) || (!(flt (n2 e) (n2 d)) && d.src < e.src) then some d else some e) none
  let axis (i : Nat) (f : Nat → Nat → Nat) (get : Det → List Nat) : Nat := match ds.map fun d => (get d).getD i 0 with
    | [] => 0
    | a :: r => r.foldl f a
  let var := tab 3 fun i =>
    let spread := fsub (axis i fmax Det.p) (axis i fmin Det.p)
    fadd (axis i fmax Det.var) (fmul spread spread)
  match near with
  | some d => { t with p := d.p, var := var, misses := 0 }
  | none => t

/-- The update of a track by its kept detections (R414). [DEDUCED: log entry 74] -/
def updateTrack (p : ScenePar) (dt : Nat) (t : Track) (ds : List Det) : Track :=
  let axis (i : Nat) : Nat × Nat × Nat :=
    let x := t.p.getD i 0
    let w0 := fdiv fOne (t.var.getD i 0)
    let ws := ds.map fun d => (fdiv fOne (d.var.getD i 0), d.p.getD i 0)
    let num := ws.foldl (fun a q => fadd a (fmul q.1 q.2)) (fmul w0 x)
    let den := ws.foldl (fun a q => fadd a q.1) w0
    let y := fdiv num den
    (y, fdiv fOne den, fadd (t.v.getD i 0) (fdiv (fmul p.velGain (fsub y x)) dt))
  { t with p := tab 3 fun i => (axis i).1, var := tab 3 fun i => (axis i).2.1, v := tab 3 fun i => (axis i).2.2, misses := 0 }

/-- What the object level gives: tracks with DISPUTED and NEW, tracks that would start, a detection found no free track,
and the streams of the unarbitrated detections by disputed track. -/
structure Objects where
  tracks : List (Track × Bool × Bool)
  news : Nat
  full : Bool
  disputes : List (List Nat)

/-- Start tracks for unassigned detections (R414). [DEDUCED: log entry 68] -/
def startTracks : List Det → List (Track × Bool × Bool) → Nat → Bool → List (Track × Bool × Bool) × Nat × Bool
  | [], ts, n, full => (ts, n, full)
  | d :: r, ts, n, full => match (List.range 256).find? fun i => !(ts.any fun t => t.1.id == i) with
    | some i => startTracks r (ts ++ [(⟨i, d.cls, d.p, [0, 0, 0], d.var, 0⟩, false, true)]) (n + 1) full
    | none => startTracks r ts n true

/-- The object level of one cycle. [DEDUCED: log entry 68] -/
def objectLevel (p : ScenePar) (dt : Nat) (tracks : List Track) (ds : List Det) : Objects :=
  let ts := tracks.map (predictTrack p dt)
  let as := assign p ts ds
  let judged := ts.map fun t =>
    let mine := ds.filter fun d => as.any fun a => a.1 == t.id && a.2.ord == d.ord
    let v := judge p.gate mine
    (t, mine, v)
  let kept := judged.filterMap fun x =>
    let t := x.1
    let left := x.2.1.filter fun d => x.2.2.open_.contains d.ord
    if !left.isEmpty then some (unite t left, true, false)
    else if !x.2.1.isEmpty then some (updateTrack p dt t (x.2.1.filter fun d => !(x.2.2.rejected.contains d.ord)), false, false)
    else if p.dropCyc ≤ t.misses + 1 then none
    else some ({ t with misses := t.misses + 1 }, false, false)
  let r := startTracks (ds.filter fun d => !(as.any fun a => a.2.ord == d.ord)) kept 0 false
  ⟨r.1.mergeSort (fun a b => a.1.id ≤ b.1.id), r.2.1, r.2.2, judged.filterMap fun x =>
    let left := x.2.1.filter fun d => x.2.2.open_.contains d.ord
    if left.isEmpty then none else some (left.map Det.stream)⟩

/-! ### The feature level (R415, R416) -/

/-- A grid member that takes part: stream, weight, and its values as FP32 codes. -/
structure GridIn where
  stream : Nat
  w : Nat
  vals : List Nat

/-- What the feature level gives: BF16 codes, the dispute bits by cell, the streams of disputed cells. -/
structure GridOut where
  vals : List Nat
  disp : List Bool
  streams : List Nat

/-- Σ fp32(W × f) / Σ W at element `e`, in BF16 (R415). [DESIGN CHOICE: log entry 73] -/
def gridMean (gs : List GridIn) (e : Nat) : Nat :=
  (convFloat (floatFmt 2) none (f32Val (fdiv (fsum (gs.map fun g => fmul g.w (g.vals.getD e 0))) (fsum (gs.map GridIn.w))))).code

/-- Channel 0 of the cell at element `e`, and whether it is disputed, with the streams involved (R416). -/
def occupancy (p : ScenePar) (gs : List GridIn) (e : Nat) : Nat × Bool × List Nat :=
  let hi := gs.filter fun g => fle p.occHi (g.vals.getD e 0)
  let lo := gs.filter fun g => fle (g.vals.getD e 0) p.occLo
  if hi.isEmpty || lo.isEmpty then (gridMean gs e, false, [])
  else if hi.length = lo.length then
    let top := match gs.map fun g => g.vals.getD e 0 with
      | [] => 0
      | a :: r => r.foldl fmax a
    ((convFloat (floatFmt 2) none (f32Val top)).code, true, (hi ++ lo).map GridIn.stream)
  else (gridMean (if lo.length < hi.length then hi else lo) e, false, [])

/-- The grid of a cycle. -/
def featureLevel (p : ScenePar) (gs : List GridIn) : GridOut :=
  let n := p.gx * p.gy
  if gs.isEmpty then ⟨List.replicate (n * p.c) 0, List.replicate n false, []⟩ else
  let occ := tab n fun i => occupancy p gs (i * p.c)
  ⟨(List.range n).flatMap fun i => tab p.c fun ch => if ch = 0 then (occ.getD i (0, false, [])).1 else gridMean gs (i * p.c + ch),
    occ.map fun o => o.2.1, (occ.flatMap fun o => o.2.2).eraseDups⟩

/-- The GRID members that take part: present, with a weight above 0. Values that a payload does not hold are free. [DESIGN CHOICE: log entry 73] -/
def gridIns (s : State) (p : ScenePar) (xs : List Seen) : List GridIn := xs.filterMap fun x =>
  let w := p.w.getD x.member 0
  let n := p.gx * p.gy * p.c
  if x.content == 4 && flt 0 w then
    some ⟨x.stream, w, tab n fun i =>
      let b (j : Nat) : Byte := (x.payload[2 * i + j]?).getD (Config.freeByte s.fresh (x.member * 2 ^ 32 + 2 * i + j))
      f32 (decodeFloat (floatFmt 2) (ofLe [b 0, b 1]))⟩
  else none

/-! ### A SCENE cycle -/

/-- The result of a SCENE cycle: its sections with their offsets, what it may lose, tracks kept, CHECK, and the counts of
the status word. -/
structure SceneOut where
  sections : List (Nat × List Byte)
  unused : Nat × Nat
  tracks : List Track
  check : Nat
  disputes : Nat
  full : Bool
  gridMiss : Bool
  trackStreams : List (List Nat)
  cellStreams : List Nat
  nTrk : Nat

/-- A track record (Table 10-8). [DESIGN CHOICE: log entry 69] -/
def trackRecord (x : Track × Bool × Bool) : List Byte :=
  leBytes 2 x.1.id ++ leBytes 2 x.1.cls ++ leBytes 2 (ofBool x.2.1 + 2 * ofBool x.2.2) ++ leBytes 2 x.1.misses
    ++ (x.1.p ++ x.1.v ++ x.1.var).flatMap (leBytes 4) ++ List.replicate 20 0#8

/-- `n` rounded up to a multiple of 64. -/
def up64 (n : Nat) : Nat := ceilDiv n 64 * 64

/-- Bits packed from the least significant on. -/
def bitBytes (bs : List Bool) : List Byte := packBits 1 (bs.map ofBool)

/-- The members with CONTENT POINTS, IMAGE or DETECTIONS, REQUIRED and not in `present` (R417). -/
def missExt (s : State) (g : Nat) (present : List Nat) : Bool := (members s g).any fun m =>
  s.is (FU_STREAM_CFG_ROLE m.2) && 1 ≤ s.get (FU_STREAM_CFG_CONTENT m.2) && s.get (FU_STREAM_CFG_CONTENT m.2) ≤ 3 && !(present.contains m.1)

/-- A record that the cycle uses is not VALID (R417). [DEDUCED: log entry 66] -/
def calBad (s : State) (c : Cycle) (xs : List Seen) : Bool := xs.any fun x =>
  ((x.content == 1 || x.content == 2) && !(calValid (c.calOf x.stream)))
    || (x.content == 3 && !(calValid (c.calOf (s.get (FU_STREAM_SEL_SRC_STREAM x.stream)))))

/-- The fraction of points in some image is below PROJ_MIN (R417). [DEDUCED: log entry 66] -/
def geomBad (p : ScenePar) (c : Cycle) (xs : List Seen) : Bool :=
  let cams := xs.filter fun x => x.content == 1
  let pts := scenePoints c xs
  let hit := pts.filter fun b => cams.any fun x => (depthHit p (c.calOf x.stream) b).isSome
  !cams.isEmpty && !pts.isEmpty && flt (fdiv (f32Int hit.length) (f32Int pts.length)) p.projMin

/-- The result of a SCENE cycle from the samples seen (R408 to R418, R423). [DESIGN CHOICE: log entry 69] [DEDUCED: log entry 71] -/
def sceneResult (s : State) (g : Nat) (h : Held) (p : ScenePar) (xs : List Seen) : SceneOut :=
  let c := h.info
  let dt := fSeconds ((c.tRef : Int) - c.tPrev)
  let early := if missExt s g (xs.map Seen.member) then 1 else if calBad s c xs then 2 else if geomBad p c xs then 3 else 0
  let obj := objectLevel p dt (s.fgroup g).tracks (sceneDets s c xs)
  let disp := if early = 0 then obj.disputes else []
  let check := if early ≠ 0 then early else if p.dispMax < disp.length || p.newMax < obj.news then 4 else 0
  let rows := if check = 0 then obj.tracks else []
  let gs := gridIns s p xs
  let grid := featureLevel p gs
  let pts := if check = 0 then scenePoints c xs else []
  let maps := ((members s g).filter fun m => s.get (FU_STREAM_CFG_CONTENT m.2) == 1).flatMap fun m =>
    depthMap p (c.calOf m.2) (if xs.any fun x => x.member == m.1 then pts else [])
  let gridAt := up64 (16448 + 2 * maps.length)
  let dispAt := up64 (gridAt + 2 * grid.vals.length)
  { sections := [(64, rows.flatMap trackRecord), (16448, maps.flatMap (leBytes 2)), (gridAt, grid.vals.flatMap (leBytes 2)), (dispAt, bitBytes grid.disp)],
    unused := (64 + 64 * rows.length, 64 * (256 - rows.length)),
    tracks := if check = 0 then obj.tracks.map Prod.fst else (s.fgroup g).tracks.map (predictTrack p dt),
    check := check, disputes := disp.length + (grid.disp.filter id).length, full := check == 0 && obj.full, gridMiss := gs.isEmpty,
    trackStreams := disp, cellStreams := grid.streams, nTrk := rows.length }

/-! ### The end of a cycle -/

/-- The 64-byte header of a result (Table 10-8). -/
def resultHeader (h : Held) (status kind nTrk : Nat) : List Byte :=
  leBytes 8 h.info.tRef ++ leBytes 8 status ++ leBytes 8 (h.cycle % 2 ^ 32 + kind * 2 ^ 32 + nTrk * 2 ^ 48)
    ++ leBytes 8 (h.info.epoch % 2 ^ 32) ++ List.replicate 32 0#8

/-- The members of a cycle once its job has found those of `gone` overwritten: they are absent from it too (R421, R429). -/
def seenAfter (h : Held) (gone : List Nat) : List Presence := h.seen.map fun p => { p with absent := p.absent || gone.contains p.member }

/-- Some safety-relevant member has been absent for more than MISS_TOL closed cycles in a row (R421). -/
def tooLongAbsent (s : State) (g : Nat) (ps : List Presence) : Bool := ps.any fun p =>
  safetyStream s p.stream && s.get (FU_GROUP_CFG_MISS_TOL g) < p.after.2

/-- The group has its cycle processed, with the members of `gone` overwritten: its record is free, and the job ends (R399, R421,
R429). [DEDUCED: log entry 72] -/
def cycleDone (g : Nat) (h : Held) (gone : List Nat) (status : Nat) : Act := withS fun s => seq [
  setF (FU_GROUP_LAST_STATUS g) status,
  setF FU_STATUS_HELD (clearBit (s.get FU_STATUS_HELD) g),
  updFgroup g (fun x => { x with held := none, missRun := if gone.isEmpty then x.missRun else (seenAfter h gone).map Presence.after }),
  endRunning unitFU (if tooLongAbsent s g (seenAfter h gone) then 0x51 else stDONE)]

/-- A dispute that involves the streams `is` is reported; a safety-relevant one raises doubt (R418). [DEDUCED: log entry 72] -/
def noteDispute (g : Nat) (is : List Nat) : Act := withS fun s =>
  let safe := is.any (safetyStream s)
  seq [raiseInt pageFU 0,
    reportNow 12 4 0x232 pageFU unitFU initFU (fuTicket s) safe none ((is.headD 0) + g * 256),
    whenA safe (assertWire 7 4)]

/-- FUSE of a STATE cycle. -/
def fuseState (g : Nat) (h : Held) (j : Job) (ecc : Ecc) : Act := withS fun s =>
  let vs := stateValues s g h
  let body := (List.range 16).flatMap fun m => (((mget vs m).getD []) ++ List.replicate (16 - ((mget vs m).getD []).length) 0).flatMap (leBytes 4)
  let base := resultBase s g h.cycle
  accessAll unitFU j.ticket ecc [(1, base, 1088)]
    (seq [writeRange base (resultHeader h h.status 0 0 ++ body),
      updFgroup g (fun x => { x with emitted := vs }),
      whenA (membersClash s g) (loseRange base 1088),
      cycleDone g h [] h.status])
    (fun st => failJob unitFU st j)

/-- FUSE of a SCENE cycle. -/
def fuseScene (g : Nat) (h : Held) (j : Job) (ecc : Ecc) : Act := withS fun s =>
  let read (ecc : Ecc) : Rd (List Byte × List (Nat × Nat × Option (List Seen))) := do
    let pb ← readE s unitFU j.ticket ecc (s.get (FU_GROUP_PB_PB g)) 128
    let xs ← mapE (seenE s j.ticket ecc) h.snap
    return (pb, xs)
  seq [runsE unitFU j.ticket ecc read, match result (read ecc) with
  | .error x => seq [noteStop unitFU j.ticket x, failJob unitFU x.st j]
  | .ok (pb, all) =>
    let xs := all.flatMap fun x => x.2.2.getD []
    let gone := all.filter fun x => x.2.2.isNone
    let r := sceneResult s g h (scenePar pb) xs
    let base := resultBase s g h.cycle
    let missing := gone.foldl (fun v x => setBit v (48 + x.1)) h.status
    let status := missing + min 255 r.disputes * 2 ^ 16 + r.check * 2 ^ 12 + ofBool (r.check != 0) * 2 ^ 11
      + ofBool (r.disputes != 0) * 2 ^ 10 + ofBool r.gridMiss * 2 ^ 7 + ofBool r.full * 2 ^ 6
    accessAll unitFU j.ticket ecc ((1, base, 64) :: (1, base + r.unused.1, r.unused.2) :: r.sections.map fun x => (1, base + x.1, x.2.length))
      (seq [writeRange base (resultHeader h status 1 r.nTrk),
        loseRange (base + r.unused.1) r.unused.2,
        forA r.sections (fun x => writeRange (base + x.1) x.2),
        whenA (membersClash s g) (loseRange base (s.get (FU_GROUP_RES_RES_STRIDE g) * 4096)),
        forA gone (fun x => countF (FU_STREAM_CNT_DROPPED x.2.1) 1),
        updFgroup g (fun x => { x with tracks := r.tracks }),
        fun _ => [.bump],
        forA r.trackStreams (noteDispute g),
        whenA (!r.cellStreams.isEmpty) (noteDispute g r.cellStreams),
        whenA r.full (raiseInt pageFU 5),
        cycleDone g h (gone.map Prod.fst) status])
      (fun st => failJob unitFU st j)]

/-- FUSE processes the closed cycle it is for, or waits (R420); in a planned slot with no such cycle it ends with
NO_CYCLE. [DEDUCED: log entry 76] -/
def execFuse (u : Nat) (ecc : Ecc) (s : State) : Host.Outcome State Fault Refusal :=
  perform (Instr.wellFormed (.fuse u ecc)) (withS fun s => match workingJob s unitFU 0x80 with
    | none => skip
    | some j =>
      let g := fuseGroup j.desc
      let x := s.fgroup g
      let run (h : Held) : Act := if s.is (FU_GROUP_CFG_KIND g) then fuseScene g h j ecc else fuseState g h j ecc
      let here (c : Cycle) : Bool := c.at_ == s.grid.boundaryAt
      if j.slot.isNone then (match x.held with
        | some h => run h
        | none => skip)
      else if !(s.is (FU_GROUP_CFG_EN g)) then endRunning unitFU 0x50
      else match x.held with
        | some h => if here h.info then run h
          else if (x.opened.map here).getD false || x.prevRef == some s.grid.tk then skip else endRunning unitFU 0x50
        | none => if (x.opened.map here).getD false || x.prevRef == some s.grid.tk then skip else endRunning unitFU 0x50) s

end Sys2Proof.Machine
end

