-- ==== Sys2Proof/Machine/Frame.lean ====
section
/-! DEFINITION. The control frame boundary (R29 to R31) and what comes about at it: the frame plan's takeover and end
(R286 to R289), spares and retirements (R173 to R175, R316 to R320), slots, calibration and fusion cycles (R394, R427, R428). -/

namespace Sys2Proof.Machine

/-! ### When a boundary falls -/

/-- The grid cycle of the boundary that is due: of the running grid every 550,000 cycles (R29), or the one that starts the grid
(R287). [DESIGN CHOICE: log entry 19] -/
def dueBoundary (s : State) : Option Nat :=
  if s.grid.running then (if s.grid.boundaryAt + 550000 ≤ s.grid.now then some (s.grid.boundaryAt + 550000) else none)
  else match s.plan.next with
    | some p => if p.2 ≤ s.grid.now then some p.2 else none
    | none => none

/-- The frame index from the boundary on (R30). -/
def nextIdx (s : State) : Nat := if s.grid.running then (s.frameIdx + 1) % 20 else 0

/-- The plan that takes over at the boundary at grid cycle `at_` (R286, R287). -/
def takesOver (s : State) (at_ : Nat) : Option PlanImg := match s.plan.next with
  | some p => if nextIdx s = 0 ∧ p.2 ≤ at_ then some p.1 else none
  | none => none

/-- The major frame count from the boundary on (R30). -/
def nextMajor (s : State) (at_ : Nat) : Nat :=
  if (takesOver s at_).isSome then 0 else if s.grid.running && nextIdx s == 0 then (s.major + 1) % 2 ^ 48 else s.major

/-- Frame index, major frame count and t_k of the new frame (R30, R31). [DEDUCED: log entry 211] -/
def countFrame (at_ : Nat) : Act := withS fun s => seq [
  setF RM_STATUS_FRAME_IDX (nextIdx s), setF RM_FRAME_MAJOR (nextMajor s at_),
  updGrid fun g => { g with running := true, boundaryAt := at_, tk := s.timestamp }]

/-! ### The ending frame -/

/-- A job of a frame that has ended belongs to no slot of the next one; a job taken ahead belongs to its slot from now on (R293). -/
def Job.pastFrame (j : Job) : Job := { j with slot := j.slot.map fun i => if 2 ^ 33 ≤ i then i - 2 ^ 33 else i % 2 ^ 32 + 2 ^ 32 }
def UnitSt.pastFrame (t : UnitSt) : UnitSt := { t with running := t.running.map Job.pastFrame, suspended := t.suspended.map Job.pastFrame, held := t.held.map Job.pastFrame }

/-- Slots not yet checked reach their deadline with the frame's end (R297). [DEDUCED: log entry 202] -/
def endFrame : Act := seq [withS fun s => forA s.planSlots checkSlot,
  updRm fun r => { r with units := r.units.map fun u => (u.1, u.2.pastFrame) }]

/-! ### Plans -/

/-- Backup mode holds while its plan is in force (R317). [DEDUCED: log entry 204] -/
def leaveBackupMode : Act := withS fun s => seq [
  forA ((List.range 40).filter fun u => s.is (RM_UNIT_STAT_BACKUP_MODE u)) (fun u => setF (RM_UNIT_STAT_BACKUP_MODE u) 0),
  updPlan (fun p => { p with backupMode := [] }),
  setF RM_STATUS_DEGRADED 0]

/-- A context that only the old plan pinned is free again (R288). -/
def repin (p : PlanImg) : Act := updHot fun h =>
  { h with entries := h.entries.map fun e => (e.1, { e.2 with pinPlan := p.pins.contains e.1 }) }

/-- Plan `p` is in force from this boundary on (R286 to R288, R340, R607); at boot that is step 12. [DEDUCED: log entries 203, 204] -/
def planStarts (p : PlanImg) : Act := withS fun s => seq [
  updPlan (fun x => { x with inForce := some p, next := none }),
  setF RM_STATUS_PLAN 1, whenA (s.get RM_PLAN_ID_ID != p.planId) discardPhases, setF RM_PLAN_ID_ID p.planId,
  leaveBackupMode, planRates p.rates, repin p, raiseInt pageRM 0,
  whenA (s.boot.step == 12) (seq [bootPhase 12, bootStop])]

/-- The plan in force ends; rates stay (R289). [DEDUCED: log entry 203] -/
def planEnds : Act := seq [updPlan (fun x => { x with inForce := none, stopping := false }), setF RM_STATUS_PLAN 0, leaveBackupMode]

/-- What happens to plans at the boundary: at frame index 0, `next` takes over, or a pending stop takes effect. -/
def changePlan (next : Option PlanImg) : Act := match next with
  | some p => planStarts p
  | none => whenS (fun s => s.plan.stopping && s.frameIdx == 0) planEnds

/-! ### Positions -/

/-- Engines of die `d` that failed while they served position `e` serve none. [DEDUCED: log entries 30, 206, 207] -/
def leavePosition (d e : Nat) : Act := withS fun s =>
  forA ((List.range 9).filter fun k => s.get (TE_STATUS_STATE (9 * d + k)) == 3 && s.get (TE_STATUS_SERVES (9 * d + k)) == e)
    fun k => putEngine d k 3 0xF

/-- The spare of die `d` is in standby and passed its last golden step (R173). [DEDUCED: log entry 234] -/
def spareReady (s : State) (d : Nat) : Bool := s.get (TE_STATUS_STATE (9 * d + 8)) == 2 && s.eng.passed.contains (9 * d + 8)

/-- A retirement with a plan in force gives PERC_CLIENT its SHARE (R318). [DEDUCED: log entry 206] -/
def percShare : Act := withS fun s => match s.plan.inForce with
  | some p => setF (RM_CLIENT_SHARE_SHARE (p.percClient % 1024)) p.percShare
  | none => skip

/-- The spare serves position `u` (R173, R320). [DEDUCED: log entry 205] -/
def substitute (u : Nat) : Act := seq [putEngine (u / 9) 8 1 (u % 9), raiseInt pageRM 3,
  reportNow 6 (u / 9) 0x152 (pageELd (u / 9)) u 0xFFF 0 false none (9 * (u / 9) + 8 + 256 * (u % 9))]

/-- Unit `u` failed in the frame that ends: its die's spare serves the position, or it is retired (R173, R174, R264). A position whose
die has a spare in standby that has not passed its last golden step is retired too. [DEDUCED: log entries 205, 234] -/
def replaceUnit (u : Nat) : Act :=
  if 36 ≤ u then seq [retireUnit u, percShare]
  else withS fun s => if (serving s u).isSome then skip else
    seq [leavePosition (u / 9) (u % 9), if spareReady s (u / 9) then substitute u else seq [retireUnit u, percShare],
      refreshCap (u / 9)]

/-- Units that failed since the last boundary, the lower first. [DEDUCED: log entry 205] -/
def replaceFailed : Act := withS fun s => seq [
  forA ((List.range 40).filter s.plan.newlyFailed.contains) replaceUnit, updPlan fun p => { p with newlyFailed := [] }]

/-- Engine positions of die `d` that work; those of a parked die have not failed (R175, R624). [DEDUCED: log entry 209] -/
def activeOnDie (s : State) (d : Nat) : Nat :=
  if s.pw.parked.contains d then min 8 (9 - (s.eng.failedEng.filter fun g => g / 9 == d).length) else s.get (TE_CAP_ACTIVE_ON_DIE (9 * d))

/-- Doubt when a die has fewer active engines than the plan wants (R175). [DEDUCED: log entry 209] -/
def checkActMin : Act := withS fun s => match s.plan.inForce with
  | some p => whenA ((List.range 4).any fun d => activeOnDie s d < field p.actMin (4 * d + 3) (4 * d)) (assertWire 8 4)
  | none => skip

/-! ### The new frame -/

/-- No slot of the new frame has begun. [DEDUCED: log entries 208, 210] -/
def freshSlots : Act := withS fun s => seq [
  updPlan (fun p => { p with slots := [], exempt := (List.range 4).filter (diePark s), compared := [] }),
  forA ((List.range 40).filter fun u => s.is (RM_UNIT_STAT_BACKUP_NOW u)) fun u => setF (RM_UNIT_STAT_BACKUP_NOW u) 0]

/-- The slots in this frame of units in backup mode (R317). -/
def backupSlots (s : State) : List Slot := s.planSlots.filter fun t =>
  (t.typ == 1 || t.typ == 2) && !t.contingent && slotOn s t && s.plan.backupMode.contains t.unit

/-- Slot `t` is displaced PERC work in this frame (R317, R318). [DEDUCED: log entry 208] -/
def runAsOpen (t : Slot) : Act := updSlot t.id fun r => { r with displaced := true, asOpen := true }

/-- Backups of units in backup mode are active from the boundary; what they displace, and PERC slots without a backup, run as
displaced PERC work (R315, R317). -/
def backupFrame : Act := withS fun s => seq [
  forA ((backupSlots s).filter (usableBackup s)) activateBackup,
  withS fun s => forA (s.planSlots.filter fun t => t.typ == 2 && (s.slotRun t.id).displaced) runAsOpen,
  forA ((backupSlots s).filter fun t => t.typ == 2 && !(usableBackup s t)) runAsOpen]

/-- Descriptors taken ahead count for the slots of the frame that begins (R293); where a slot does not run on the unit that took them, they
end with ABORTED. [DEDUCED: log entry 49] -/
def useAhead : Act := withS fun s => seq [
  updPlan (fun p => { p with ahead := [] }),
  forA s.plan.ahead fun x => match s.slot x.1 with
    | some t => if slotRuns s t && slotUnit s t == x.2.1 then updSlot x.1 fun r => { r with taken := x.2.2 }
        else updRm fun r => { r with units := r.units.map fun p => (p.1, p.2.abortHeld x.1) }
    | none => updRm fun r => { r with units := r.units.map fun p => (p.1, p.2.abortHeld x.1) }]

/-- What a boundary brings, in order. [DEDUCED: log entries 202, 211, 212] -/
def frameBoundary (at_ : Nat) : Act := withS fun s => seq [
  endFrame,
  countFrame at_,
  changePlan (takesOver s at_),
  replaceFailed,
  checkActMin,
  freshSlots,
  backupFrame,
  useAhead,
  whenA (nextIdx s == 0) calBoundary,
  forA (List.range 16) startCycle,
  refreshReady]

/-- A control frame boundary, when one is due (R29). [DESIGN CHOICE: log entry 18] -/
def execControlFrameBoundary (s : State) : Host.Outcome State Fault Refusal :=
  perform (Instr.wellFormed .controlFrameBoundary) (withS fun s => match dueBoundary s with
    | some b => frameBoundary b
    | none => skip) s

end Sys2Proof.Machine
end

