-- ==== Sys2Proof/Machine/MidwayPlan.lean ====
section
/-! DEFINITION. Midway's sphere queries, lattice search, candidates and their timing, PLAN, revalidation and EMIT (R434, R443
to R460). -/

namespace Sys2Proof.Machine

/-! ### Sphere queries (R434, R445, R450) -/

/-- floor of an FP32 code, if it is finite. -/
def f32Floor (a : Nat) : Option Int := match f32Val a with
  | .fin n m e => let q := ratio m e; some (if n then -(ceilDiv q.1 q.2 : Int) else (q.1 / q.2 : Int))
  | _ => none

/-- The cell coordinate of a position on axis `a`. -/
def cellOf (s : State) (a v : Nat) : Option Int := f32Floor (fdiv (fsub v (s.get (MW_MAP_ORG_ORG a))) (s.get MW_MAP_RES_RES))

/-- The cell that holds a point, if its coordinates are finite. -/
def cellOf3 (s : State) (c : List Nat) : Option (List Int) := match cellOf s 0 (c.getD 0 0), cellOf s 1 (c.getD 1 0), cellOf s 2 (c.getD 2 0) with
  | some x, some y, some z => some [x, y, z]
  | _, _, _ => none

/-- A cell lies within the configured dimensions. -/
def cellIn (s : State) (c : List Int) : Bool := c.all (0 ≤ ·) && inMap s (c.getD 0 0).toNat (c.getD 1 0).toNat (c.getD 2 0).toNat

/-- The clearance of a distance code: fp32(fp32(code × Q) − H2) (R434). -/
def clearance (s : State) (code : Byte) : Nat :=
  fsub (fmul (f32Int code.toInt) (fmul (s.get MW_MAP_RES_RES) 0x3E800000)) (fmul (s.get MW_MAP_RES_RES) 0x3FDDB3D7)

/-- A sphere query with centre `c` and radius `r` passes in the front buffer (R434). -/
def sphereE (s : State) (ecc : Ecc) (c : List Nat) (r : Nat) : Except Stop Bool :=
  if flt r 0 then .ok true
  else match cellOf3 s c with
    | none => .ok false
    | some k => if !(cellIn s k) then .ok false else do
      let b ← mapReadE s ecc (0x1400000 * mwFront s + 0x400000 + cellIndex (k.getD 0 0).toNat (k.getD 1 0).toNat (k.getD 2 0).toNat) 1
      return fle (fadd r (s.get MW_MARGIN_MARGIN)) (clearance s (b.headD 0#8))

/-- A pose of the body in the map frame: position, yaw, posture. -/
structure Pose where
  p : List Nat
  yaw : Nat
  posture : Nat

/-- Number of spheres, postures and joints as they act (Table 11-9). -/
def mwSpheres (s : State) : Nat := min 512 (max 1 (s.get MW_LAT_CFG_N_SPH))
def mwPostures (s : State) : Nat := min 256 (max 1 (s.get MW_LAT_CFG_N_POST))
def mwJoints (s : State) : Nat := min 64 (s.get MW_LAT_CFG_NJ)
def mwPrims (s : State) : Nat := min 4096 (s.get MW_LAT_CFG_N_PRIM)

/-- The centres and radii of a pose's spheres (R445). -/
def spheresE (s : State) (ecc : Ecc) (x : Pose) : Except Stop (List (List Nat × Nat)) := do
  let bs ← mapReadE s ecc (0x2A00000 + 8192 * x.posture) (16 * mwSpheres s)
  let m := rotZ (phaseOf s x.yaw)
  return tab (mwSpheres s) fun k =>
    let f (i : Nat) : Nat := le bs (16 * k + 4 * i) 4
    (List.zipWith fadd x.p (matVec m [f 0, f 1, f 2]), f 3)

/-- All queries of a list pass, in order; a later one is not made after a failure. -/
def allE {α : Type} (f : α → Except Stop Bool) : List α → Except Stop Bool
  | [] => .ok true
  | a :: r => match f a with
    | .error x => .error x
    | .ok false => .ok false
    | .ok true => allE f r

/-- Every sphere of a pose passes (R450). -/
def poseE (s : State) (ecc : Ecc) (x : Pose) : Except Stop Bool := do
  let cs ← spheresE s ecc x
  allE (fun c => sphereE s ecc c.1 c.2) cs

/-! ### The lattice (R443, R444, R446) -/

/-- The stop that marks a lattice table out of its range, after which outputs are unpredictable (R446). -/
def stWild : Nat := 0x1FF

/-- A lattice state: cell, heading, posture. -/
structure LState where
  x : Nat
  y : Nat
  h : Nat
  p : Nat
  deriving DecidableEq

def LState.key (a : LState) : Nat := a.x + a.y * 2 ^ 9 + a.h * 2 ^ 18 + a.p * 2 ^ 22

/-- A primitive header (R443). -/
structure Prim where
  id : Nat
  sh : Nat
  sp : Nat
  eh : Nat
  ep : Nat
  n : Nat
  dx : Int
  dy : Int
  cost : Nat

/-- The primitives of heading `h` and posture `p` (R446). -/
def branchE (s : State) (ecc : Ecc) (h p : Nat) : Except Stop (List Prim) := do
  let e ← mapReadE s ecc (0x2C71000 + 4 * (256 * h + p)) 4
  needE (le e 2 2 == 0 || le e 0 2 + le e 2 2 ≤ mwPrims s) stWild
  mapE (fun i => do
    let b ← mapReadE s ecc (0x2C40000 + 32 * i) 32
    let w := le b 0 8
    let q : Prim := ⟨i, field w 3 0, field w 11 4, field w 15 12, field w 23 16, field w 28 24 + 1, toSigned 9 (field w 40 32),
      toSigned 9 (field w 49 41), le b 8 4⟩
    needE (q.sh == h && q.sp == p && q.ep < mwPostures s && field w 31 29 == 0 && field w 63 50 == 0 && le b 12 20 == 0) stWild
    return q) (tab (le e 2 2) fun i => le e 0 2 + i)

/-- fp32(h × 2π / 16). -/
def headYaw (h : Nat) : Nat := f32Ratio false (h * piFix) 8 (-(fixBits : Int))

/-- The poses of primitive `q` applied from a cell at base height `z0` (R444). -/
def posesE (s : State) (ecc : Ecc) (z0 : Nat) (a : LState) (q : Prim) : Except Stop (List Pose) := do
  let b ← mapReadE s ecc (0x2800000 + 512 * q.id) (16 * q.n)
  mapE (fun j => do
    let f (i n : Nat) : Nat := le b (16 * j + i) n
    needE (f 14 1 < mwPostures s && f 15 1 == 0) stWild
    return ⟨[fadd (cellCentre s 0 a.x) (f 0 4), fadd (cellCentre s 1 a.y) (f 4 4), fadd z0 (f32 (decodeFloat (floatFmt 1) (f 12 2)))],
      fadd (headYaw q.sh) (f 8 4), f 14 1⟩) (List.range q.n)

/-! ### The search (R448, R449, R451) -/

/-- A PLAN request block (Table 11-3). -/
structure Req where
  x : Nat
  y : Nat
  z0 : Nat
  yaw : Nat
  v0 : Nat
  post : Nat
  tol : Nat
  gp : Nat
  gh : Nat
  gy : Nat
  gx : Nat
  band : Nat
  smooth : Nat
  heur : Nat
  vMax : Nat
  wMax : Nat
  aMax : Nat
  dtMin : Nat
  t0 : Nat

/-- The request block in 128 bytes; the start pose and speed as waypoint 0 has them (R97). [DEDUCED: log entry 93] -/
def reqOf (b : List Byte) : Req :=
  let f (i : Nat) : Nat := le b (4 * i) 4
  let v (i : Nat) : Nat := canon32 (f i)
  let w3 := le b 24 8
  ⟨v 0, v 1, v 2, v 3, v 4, le b 20 1, field w3 39 32, field w3 31 23, field w3 22 18, field w3 17 9, field w3 8 0, f 9, f 8 % 4,
    f 10, f 11, f 12, f 13, f 14, le b 64 8⟩

/-- The block has no reserved bit set and no field out of range (R463). -/
def reqOk (s : State) (b : List Byte) (r : Req) : Bool :=
  le b 21 3 == 0 && le b 29 3 == 0 && le b 32 4 < 4 && le b 60 4 == 0 && le b 72 56 == 0
    && r.post < mwPostures s && r.gp ≤ 256 && r.gh ≤ 16 && 1 ≤ r.band

/-- An entry of the state table: the state, g, h, parent's key and primitive, depth, closed. -/
structure Node where
  st : LState
  g : Nat
  hv : Nat
  parent : Option (Nat × Nat)
  depth : Nat
  closed : Bool

/-- Sum of costs, saturating at 32 bits. -/
def satAdd (a b : Nat) : Nat := satU 32 (a + b)

def Node.f (n : Node) : Nat := satAdd n.g n.hv

/-- The heuristic (R449). A product that is no uint32 has a free value. -/
def heuristic (s : State) (r : Req) (a : LState) : Nat :=
  let d (u v : Nat) : Nat := max u v - min u v
  let q := fsqrt (f32Int ((d a.x r.gx) ^ 2 + (d a.y r.gy) ^ 2 : Nat))
  match f32Floor (fmul r.heur q) with
  | some i => if 0 ≤ i ∧ i < 2 ^ 32 then i.toNat else (Config.freeWord s.fresh).toNat % 2 ^ 32
  | none => (Config.freeWord s.fresh).toNat % 2 ^ 32

/-- The state is a goal (R449). -/
def isGoal (r : Req) (a : LState) : Bool :=
  let d (u v : Nat) : Nat := max u v - min u v
  d a.x r.gx ≤ r.tol && d a.y r.gy ≤ r.tol && (r.gh == 16 || a.h == r.gh) && (r.gp == 256 || a.p == r.gp)

/-- The search in progress: the state table by key, expansions, goal keys in the order closed, states not inserted for want
of room, and keys re-parented in the present wave. -/
structure Srch where
  tab : SMap Node
  exp : Nat
  goals : List Nat
  full : Nat
  moved : List Nat

/-- The limits of a PLAN descriptor: MAX_EXP, K_OUT, MAX_DEPTH. -/
structure PlanLim where
  maxExp : Nat
  kOut : Nat
  maxDepth : Nat

/-- One primitive tried from node `a` with key `k`. -/
def tryPrimE (s : State) (ecc : Ecc) (r : Req) (k : Nat) (a : Node) (x : Srch) (q : Prim) : Except Stop Srch := do
  let ex := (a.st.x : Int) + q.dx
  let ey := (a.st.y : Int) + q.dy
  let e : LState := ⟨ex.toNat, ey.toNat, q.eh, q.ep⟩
  let old := mget x.tab e.key
  if ex < 0 ∨ ey < 0 ∨ !(inMap s e.x e.y 0) ∨ (old.map Node.closed).getD false then return x
  else do
    let ps ← posesE s ecc r.z0 a.st q
    let ok ← allE (poseE s ecc) ps
    let gn := satAdd a.g q.cost
    let node : Node := ⟨e, gn, heuristic s r e, some (k, q.id), a.depth + 1, false⟩
    return (match ok, old with
      | false, _ => x
      | true, none => if 65536 ≤ x.tab.length then { x with full := x.full + 1 } else { x with tab := mset x.tab e.key node }
      | true, some o => if gn < o.g then { x with tab := mset x.tab e.key node, moved := e.key :: x.moved } else x)

/-- Fold with a status. -/
def foldE {α β : Type} (f : β → α → Except Stop β) : β → List α → Except Stop β
  | b, [] => .ok b
  | b, a :: r => match f b a with
    | .error x => .error x
    | .ok c => foldE f c r

/-- One state of the wave. [DEDUCED: log entry 83] -/
def expandE (s : State) (ecc : Ecc) (r : Req) (lim : PlanLim) (x : Srch) (k : Nat) : Except Stop Srch :=
  match mget x.tab k with
  | none => .ok x
  | some a =>
    if lim.kOut ≤ x.goals.length ∨ a.closed ∨ x.moved.contains k then .ok x else
    let x := { x with tab := mset x.tab k { a with closed := true }, exp := x.exp + 1 }
    let x := if isGoal r a.st then { x with goals := x.goals ++ [k] } else x
    if lim.kOut ≤ x.goals.length ∨ a.depth = lim.maxDepth ∨ x.exp = lim.maxExp then .ok x
    else match branchE s ecc a.st.h a.st.p with
      | .error e => .error e
      | .ok qs => foldE (tryPrimE s ecc r k a) x qs

/-- The open states of the lowest band, in ascending f, then key (R449). [DEDUCED: log entry 83] -/
def wave (r : Req) (x : Srch) : List Nat :=
  let op := x.tab.filter fun q => !q.2.closed
  match op.map fun q => q.2.f / r.band with
  | [] => []
  | b :: bs =>
    let low := bs.foldl min b
    ((op.filter fun q => q.2.f / r.band == low).mergeSort fun a c => a.2.f < c.2.f || (a.2.f == c.2.f && a.1 ≤ c.1)).map Prod.fst

/-- Waves until a limit is met or nothing is open; each wave expands at least one state. [DEDUCED: log entry 83] -/
def searchE (s : State) (ecc : Ecc) (r : Req) (lim : PlanLim) : Nat → Srch → Except Stop Srch
  | 0, x => .ok x
  | fuel + 1, x =>
    if lim.maxExp ≤ x.exp ∨ lim.kOut ≤ x.goals.length then .ok x
    else match wave r x with
      | [] => .ok x
      | ks => match foldE (expandE s ecc r lim) { x with moved := [] } ks with
        | .error e => .error e
        | .ok y => searchE s ecc r lim fuel y

/-- The heading of a yaw: the nearest integer to yaw × 16 / 2π, ties to even, modulo 16. [DESIGN CHOICE: log entry 88] [DEDUCED: log entry 89] -/
def headOfYaw (s : State) (a : Nat) : Nat := match f32Val a with
  | .fin n m e =>
    let q := ratio m (e + 3 + fixBits)
    ofSigned 4 (if n then -(rne q.1 (q.2 * piFix) : Int) else rne q.1 (q.2 * piFix))
  | _ => (Config.freeWord s.fresh).toNat % 16

/-! ### Candidates (R452, R453) -/

/-- The primitives from the start to a state, with the states they leave. -/
def pathTo (x : Srch) : Nat → Nat → List (LState × Nat)
  | 0, _ => []
  | fuel + 1, k => match mget x.tab k with
    | none => []
    | some n => match n.parent with
      | none => []
      | some (pk, q) => match mget x.tab pk with
        | none => []
        | some a => pathTo x fuel pk ++ [(a.st, q)]

/-- The keys of the candidates in rank order with GOAL: goal states, then closed states by h, g, key (R452). -/
def ranked (x : Srch) (start kOut : Nat) : List (Nat × Bool) :=
  let rest := (x.tab.filter fun q => q.2.closed && q.1 != start && !(x.goals.contains q.1)).mergeSort fun a b =>
    a.2.hv < b.2.hv || (a.2.hv == b.2.hv && (a.2.g < b.2.g || (a.2.g == b.2.g && a.1 ≤ b.1)))
  (x.goals.map (fun k => (k, true)) ++ rest.map fun q => (q.1, false)).take kOut

/-- A waypoint: pose, primitive, time offset in µs, speed. -/
structure Way where
  pose : Pose
  prim : Nat
  tOff : Nat
  speed : Nat

/-- The header of primitive `i` as the path uses it. [DEDUCED: log entry 93] -/
def primE (s : State) (ecc : Ecc) (i : Nat) : Except Stop Prim := do
  let b ← mapReadE s ecc (0x2C40000 + 32 * i) 32
  let w := le b 0 8
  return ⟨i, field w 3 0, field w 11 4, field w 15 12, field w 23 16, field w 28 24 + 1, 0, 0, 0⟩

/-- The difference of two yaws wrapped into [−π, π), rounded once to FP32. [DESIGN CHOICE: log entry 88] -/
def wrapYaw (d : Nat) : Nat := match f32Val d with
  | .fin n m e =>
    -- in units of 2^(e - 240): the angle, π and 2π on one grid
    let q := ratio m (e + fixBits)
    let v : Int := if n then -((q.1 / q.2 : Nat) : Int) else ((q.1 / q.2 : Nat) : Int)
    let k := (v + piFix) / (2 * (piFix : Int))
    if k = 0 then d else f32 ((valInt (v - k * (2 * (piFix : Int)))).scale (-(fixBits : Int)))
  | _ => f32NaN

/-- Yaws unwrapped along a path (R453 step 3). -/
def unwrap : Nat → List Pose → List Pose
  | _, [] => []
  | prev, x :: r =>
    let y := fadd prev (wrapYaw (fsub x.yaw prev))
    { x with yaw := y } :: unwrap y r

/-- One smoothing pass over one coordinate: interior values only (R453 step 4). -/
def smoothPass (a : List Nat) : List Nat := a.zipIdx.map fun q =>
  if q.2 = 0 ∨ a.length ≤ q.2 + 1 then q.1
  else fmul (fadd (fadd (a.getD (q.2 - 1) 0) (fmul fTwo q.1)) (a.getD (q.2 + 1) 0)) 0x3E800000

/-- `n` passes. -/
def smoothN (n : Nat) (a : List Nat) : List Nat := (List.range n).foldl (fun a _ => smoothPass a) a

/-- The poses of a path smoothed. -/
def smoothPath (n : Nat) (ps : List Pose) : List Pose :=
  let xs := smoothN n (ps.map fun p => p.p.getD 0 0)
  let ys := smoothN n (ps.map fun p => p.p.getD 1 0)
  let ws := smoothN n (ps.map Pose.yaw)
  ps.zipIdx.map fun q => { q.1 with p := [xs.getD q.2 0, ys.getD q.2 0, q.1.p.getD 2 0], yaw := ws.getD q.2 0 }

/-! ### Timing (R454) -/

/-- The larger of two, where a NaN is ignored. -/
def fmaxNum (a b : Nat) : Nat := if isNaN32 a then b else if isNaN32 b then a else fmax a b

/-- Joint values of a posture. -/
def jointsE (s : State) (ecc : Ecc) (p : Nat) : Except Stop (List Nat) := do
  let b ← mapReadE s ecc (0x2C60000 + 256 * p) (4 * mwJoints s)
  return tab (mwJoints s) fun j => le b (4 * j) 4

/-- Distances and durations of the segments. -/
def segmentsE (s : State) (ecc : Ecc) (r : Req) : List Pose → Except Stop (List (Nat × Nat))
  | a :: b :: rest => do
    let jv ← mapReadE s ecc 0x2C70000 (4 * mwJoints s)
    let ja ← jointsE s ecc a.posture
    let jb ← jointsE s ecc b.posture
    let dx := fsub (b.p.getD 0 0) (a.p.getD 0 0)
    let dy := fsub (b.p.getD 1 0) (a.p.getD 1 0)
    let d := fsqrt (fadd (fmul dx dx) (fmul dy dy))
    let js := tab (mwJoints s) fun j => fdiv (fabs (fsub (jb.getD j 0) (ja.getD j 0))) (le jv (4 * j) 4)
    let dt := (fdiv d r.vMax :: fdiv (fabs (fsub b.yaw a.yaw)) r.wMax :: js).foldl fmaxNum r.dtMin
    let more ← segmentsE s ecc r (b :: rest)
    return (d, dt) :: more
  | _ => .ok []

/-- One pass of speed limits from speed `v` on (R454): the durations. -/
def speedPass (aMax : Nat) : Nat → List (Nat × Nat) → List (Nat × Nat)
  | _, [] => []
  | v, (d, dt) :: r =>
    if f32Val d matches .fin _ 0 _ then (d, dt) :: speedPass aMax 0 r else
    let cap := fsqrt (fadd (fmul v v) (fmul (fmul fTwo aMax) d))
    let dt := if !(cap % 2 ^ 31 == 0) && flt cap (fdiv d dt) then fdiv d cap else dt
    (d, dt) :: speedPass aMax (fdiv d dt) r

/-- The segments after the forward and the backward pass. [DEDUCED: log entry 86] -/
def timed (r : Req) (goal : Bool) (segs : List (Nat × Nat)) : List (Nat × Nat) :=
  (speedPass r.aMax (if goal then 0 else r.vMax) (speedPass r.aMax r.v0 segs).reverse).reverse

/-- rne(fp32(t × 10⁶)); free where that is no uint32. -/
def microOf (s : State) (t : Nat) : Nat := match f32Val (fmul t 0x49742400) with
  | .fin n m e =>
    let q := ratio m e
    let v := rne q.1 q.2
    if (n && v != 0) || 2 ^ 32 ≤ v then (Config.freeWord s.fresh).toNat % 2 ^ 32 else v
  | _ => (Config.freeWord s.fresh).toNat % 2 ^ 32

/-- The waypoints of a path: waypoint 0 has the request's speed. [DEDUCED: log entry 86] -/
def waypoints (s : State) (r : Req) (ps : List (Pose × Nat)) (segs : List (Nat × Nat)) : List Way :=
  let times := segs.foldl (fun ts d => ts ++ [fadd (ts.getLastD 0) d.2]) [0]
  ps.zipIdx.map fun q =>
    if q.2 = 0 then ⟨q.1.1, q.1.2, 0, r.v0⟩
    else
      let d := segs.getD (q.2 - 1) (0, 0)
      ⟨q.1.1, q.1.2, microOf s (times.getD q.2 0), fdiv d.1 d.2⟩

/-- A candidate built (R453): waypoints, SMOOTH_OFF, COST. -/
structure Built where
  ways : List Way
  smoothOff : Bool
  cost : Nat
  goal : Bool

/-- The candidate for a state. -/
def buildE (s : State) (ecc : Ecc) (r : Req) (x : Srch) (c : Nat × Bool) : Except Stop Built := do
  let segs ← mapE (fun q => do
    let h ← primE s ecc q.2
    let ps ← posesE s ecc r.z0 q.1 h
    return ps.map fun p => (p, q.2)) (pathTo x 17 c.1)
  let raw : List (Pose × Nat) := (⟨[r.x, r.y, r.z0], r.yaw, r.post⟩, 0xFFFF) :: segs.flatten
  let plain := (match raw with
    | [] => []
    | p :: ps => p.1 :: unwrap p.1.yaw (ps.map Prod.fst))
  let sm := smoothPath r.smooth plain
  let ok ← if r.smooth = 0 then .ok true else allE (poseE s ecc) ((sm.drop 1).take (sm.length - 2))
  let poses := if ok then sm else plain
  let ds ← segmentsE s ecc r poses
  return ⟨waypoints s r (poses.zip (raw.map Prod.snd)) (timed r c.2 ds), !ok, ((mget x.tab c.1).map Node.g).getD 0, c.2⟩

/-! ### PLAN -/

/-- The offset of candidate `c` of set `n` in the map SRAM. -/
def candOff (n c : Nat) : Nat := 0x2CA0000 + 0x28000 * n + 0x5000 * c

/-- A waypoint in 32 bytes (Table 11-4). -/
def wayBytes (w : Way) : List Byte :=
  leBytes 4 w.tOff ++ w.pose.p.flatMap (leBytes 4) ++ leBytes 4 w.pose.yaw ++ leBytes 4 w.speed
    ++ leBytes 1 w.pose.posture ++ leBytes 1 0 ++ leBytes 2 w.prim ++ leBytes 4 0

/-- An output header in 64 bytes (Table 11-4). [DEDUCED: log entry 85] -/
def outHeader (time t0 nWp flags rank status check gen cost : Nat) : List Byte :=
  leBytes 8 time ++ leBytes 8 t0 ++ leBytes 8 (nWp * 2 ^ 16 + flags * 2 ^ 8 + rank * 2 ^ 4 + status)
    ++ leBytes 8 (gen + check * 2 ^ 32) ++ leBytes 4 cost ++ List.replicate 28 0#8

/-- A candidate as the set holds it. [DEDUCED: log entry 85] -/
def candBytes (r : Req) (gen rank : Nat) (b : Built) : List Byte :=
  outHeader 0 r.t0 b.ways.length (ofBool b.goal + 2 * ofBool b.smoothOff) rank 0 gen gen b.cost ++ b.ways.flatMap wayBytes

/-- A set with these candidates replaces the current one (R455). [DEDUCED: log entry 84] -/
def newSet (r : Req) (bad : Bool) (cs : List Built) : Act := withS fun s =>
  let n := 1 - s.get MW_STATUS_CUR_SET
  let gen := s.get MW_GEN_FRONT_GEN
  seq [forA cs.zipIdx (fun q => store (mapBase + candOff n q.2) (candBytes r gen q.2 q.1)),
    setF MW_STATUS_CUR_SET n, setF MW_STATUS_SET_VALID 1,
    countF MW_CNT_SMOOTH_OFF (cs.filter Built.smoothOff).length,
    updMw (fun m => { m with setGen := gen, nCand := cs.length, startBad := bad })]

/-- What the lattice gave: the start fails, or the candidates and the states that found no room. [DEDUCED: log entry 84] -/
def planE (s : State) (ecc : Ecc) (lim : PlanLim) (r : Req) : Except Stop (Option (List Built × Nat)) :=
  match cellOf3 s [r.x, r.y, r.z0] with
  | none => .ok none
  | some c => if !(cellIn s c) then .ok none else do
    let ok ← poseE s ecc ⟨[r.x, r.y, r.z0], r.yaw, r.post⟩
    if !ok then return none
    else do
      let s0 : LState := ⟨(c.getD 0 0).toNat, (c.getD 1 0).toNat, headOfYaw s r.yaw, r.post⟩
      let x ← searchE s ecc r lim lim.maxExp ⟨[(s0.key, ⟨s0, 0, heuristic s r s0, none, 0, false⟩)], 0, [], 0, []⟩
      let cs ← mapE (buildE s ecc r x) (ranked x s0.key lim.kOut)
      return some (cs, x.full)

/-- A lattice table was out of range: what PLAN writes in the map SRAM is unpredictable, and so are how many candidates its set
has and its START_BAD (R446). [DESIGN CHOICE: log entry 82] -/
def planWild (kOut : Nat) : Act := withS fun s => seq [spoilMap, setF MW_STATUS_CUR_SET (1 - s.get MW_STATUS_CUR_SET), setF MW_STATUS_SET_VALID 1,
  withFree fun n => updMw fun m => { m with setGen := s.get MW_GEN_FRONT_GEN, nCand := (Config.freeWord n).toNat % (kOut + 1), startBad := bit ((Config.freeWord n).toNat) 31 },
  endRunning unitMW stDONE]

/-- The offsets in the map SRAM that a search and its set use: every granule of the state table and the workspace, and those of the
candidates `cs` (R463). [DEDUCED: log entry 92] -/
def planOffsets (s : State) (cs : List Built) : List Nat :=
  tab 48 (fun k => 0x2D00000 + 65536 * k) ++ cs.zipIdx.flatMap fun q =>
    let o := candOff (1 - s.get MW_STATUS_CUR_SET) q.2
    [o, o + 63 + 32 * q.1.ways.length]

/-- PLAN (R448 to R455). [DEDUCED: log entries 91, 92] -/
def execPlan (u : Nat) (ecc : Ecc) (s : State) : Host.Outcome State Fault Refusal :=
  perform (Instr.wellFormed (.plan u ecc)) (withS fun s => match workingJob s unitMW 0x93 with
    | none => skip
    | some j => if mwClearing s then skip else
      let lim : PlanLim := ⟨dField j.desc 2 15 0, dField j.desc 2 19 16, dField j.desc 2 24 20⟩
      seq [mapCorr j.ticket ecc (fun c => readE s unitMW j.ticket c (dField j.desc 1 47 0) 128), match readOk s unitMW j.ticket ecc (dField j.desc 1 47 0) 128 with
      | .error x => seq [noteStop unitMW j.ticket x, failJob unitMW x.st j]
      | .ok b =>
        let r := reqOf b
        if !(reqOk s b r) then endRunning unitMW stILLEGAL
        else if !(s.is MW_STATUS_MAP_VALID) then endRunning unitMW 0x58
        else
          match planE s ecc lim r with
          | .error x => if x.st = stWild then planWild lim.kOut else seq [noteStop unitMW j.ticket x, failJob unitMW x.st j]
          | .ok none => seq [newSet r true [], endRunning unitMW stDONE]
          | .ok (some (cs, full)) => match mapMeetsE s ecc (planOffsets s cs) with
            | .error x => seq [noteStop unitMW j.ticket x, failJob unitMW x.st j]
            | .ok _ => seq [lose (mapBase + 0x2D00000) 0x300000, newSet r false cs,
              countF MW_CNT2_OPEN_FULL full, whenA (full != 0) (raiseInt pageMW 4), fun _ => [.bump],
              endRunning unitMW stDONE]]) s

/-! ### EMIT (R456 to R460) -/

/-- The candidate of rank `c` in the current set: header and waypoints. -/
def candE (s : State) (ecc : Ecc) (c : Nat) : Except Stop (List Byte × List Byte) := do
  let off := candOff (s.get MW_STATUS_CUR_SET) c
  let h ← mapReadE s ecc off 64
  let w ← mapReadE s ecc (off + 64) (32 * min 513 (le h 18 2))
  return (h, w)

/-- The poses of a candidate's waypoints. -/
def candPoses (w : List Byte) : List Pose := (chunks 32 (w.length / 32) w).map fun b =>
  ⟨[le b 4 4, le b 8 4, le b 12 4], le b 16 4, le b 24 1⟩

/-- The box of cells on one axis from the smallest to the largest of a list, widened by `r`. -/
def boxOf (r : Nat) : List Int → Option (Int × Int)
  | [] => none
  | v :: vs => some (vs.foldl min v - r, vs.foldl max v + r)

/-- The envelope of a candidate (R457): by axis, the box of the cells of its sphere centres widened by SDF_R. -/
def envelopeE (s : State) (ecc : Ecc) (ps : List Pose) : Except Stop (List (Option (Int × Int))) := do
  let cs ← mapE (spheresE s ecc) ps
  let cells := (cs.flatten.filter fun c => !(flt c.2 0)).filterMap fun c => cellOf3 s c.1
  return tab 3 fun a => boxOf ((mwDims s).getD 0 1) (cells.map fun c => c.getD a 0)

/-- The cell lies in the envelope. -/
def inEnvelope (env : List (Option (Int × Int))) (cell : Nat) : Bool :=
  let c := [cell % 512, cell / 512 % 512, cell / 2 ^ 18]
  (List.range 3).all fun a => match env.getD a none with
    | none => false
    | some b => b.1 ≤ (c.getD a 0 : Int) && (c.getD a 0 : Int) ≤ b.2

/-- The cells of the ring entries of generations above `gen` up to FRONT_GEN, oldest first (R456 step 3). -/
def ringCellsE (s : State) (ecc : Ecc) (gen : Nat) : Except Stop (List Nat) := do
  let front := s.get MW_GEN_FRONT_GEN
  let n := runLength (s.mw.ring.filter fun r => gen < r.1 && r.1 ≤ front)
  let back := n + runLength (s.mw.ring.filter fun r => front < r.1)
  let first := (s.get MW_CHG_HEAD_CHG_HEAD + 65536 - back) % 65536
  let a ← mapReadE s ecc (0x2C00000 + 4 * first) (4 * min n (65536 - first))
  let b ← mapReadE s ecc 0x2C00000 (4 * (n - (65536 - first)))
  return tab n fun i => le (a ++ b) (4 * i) 3

/-- Candidate `c` is accepted unchanged, or passes its full re-query; `cells` none: each is queried in full (R456 steps 2 and 3). -/
def judgeE (s : State) (ecc : Ecc) (cells : Option (List Nat)) (c : Nat) : Except Stop Bool :=
  if cells = some [] then .ok true else do
    let x ← candE s ecc c
    let ps := candPoses x.2
    let hit ← (match cells with
      | none => .ok true
      | some cs => (envelopeE s ecc ps).map fun env => cs.any (inEnvelope env))
    if hit then allE (poseE s ecc) ps else return true

/-- The first of `n` candidates in rank order that is accepted or passes, once all have been judged (R456 step 4). -/
def pickE (s : State) (ecc : Ecc) (cells : Option (List Nat)) (n : Nat) : Except Stop (Option (Nat × List Byte × List Byte)) := do
  let oks ← mapE (judgeE s ecc cells) (List.range n)
  match (List.range n).find? fun c => oks.getD c false with
  | none => return none
  | some c => do
    let x ← candE s ecc c
    return some (c, x.1, x.2)

/-- The hold output of a pose block, of a job that started in the frame of `time` (R97, R459). [DEDUCED: log entry 87] -/
def holdBytes (s : State) (time flags : Nat) (pose : List Byte) : List Byte :=
  outHeader time time 1 flags 15 1 (s.get MW_GEN_FRONT_GEN) s.mw.setGen 0
    ++ leBytes 4 0 ++ (List.range 4).flatMap (fun i => leBytes 4 (canon32 (le pose (4 * i) 4))) ++ leBytes 4 0 ++ (pose.drop 16).take 1 ++ leBytes 1 0 ++ leBytes 2 0xFFFF ++ leBytes 4 0

/-- The output of a candidate: its set entry with OUT_TIME, CHECK_GEN and FULL_REVAL. [DEDUCED: log entry 85] -/
def emitBytes (s : State) (time : Nat) (full : Bool) (h w : List Byte) : List Byte :=
  leBytes 8 time ++ (h.drop 8).take 9 ++ leBytes 1 (le h 17 1 + (if full && !(bit (le h 17 1) 2) then 4 else 0))
    ++ (h.drop 18).take 10 ++ leBytes 4 (s.get MW_GEN_FRONT_GEN) ++ h.drop 32 ++ w

/-- EMIT (R456 to R460). [DEDUCED: log entry 91] -/
def execEmit (u : Nat) (ecc : Ecc) (s : State) : Host.Outcome State Fault Refusal :=
  perform (Instr.wellFormed (.emit u ecc)) (withS fun s => match workingJob s unitMW 0x94 with
    | none => skip
    | some j => if mwClearing s then skip else
      let out := dField j.desc 2 47 0
      let none_ := !(s.is MW_STATUS_MAP_VALID) || s.mw.nCand == 0
      let full := !none_ && s.mw.setGen ≤ s.get MW_LOST_GEN_LOST_GEN
      let found : Except Stop (List Byte × Option (Nat × List Byte × List Byte)) := do
        let pose ← readOk s unitMW j.ticket ecc (dField j.desc 1 47 0) 32
        if none_ then return (pose, none)
        else do
          let cells ← if full then .ok none else (match ringCellsE s ecc s.mw.setGen with
            | .error e => .error e
            | .ok cs => .ok (some cs))
          let c ← pickE s ecc cells s.mw.nCand
          return (pose, c)
      seq [mapCorr j.ticket ecc (fun c => readE s unitMW j.ticket c (dField j.desc 1 47 0) 32), match found with
      | .error x => seq [noteStop unitMW j.ticket x, failJob unitMW x.st j]
      | .ok (pose, c) =>
        let bs := match c with
          | some (_, h, w) => emitBytes s j.beganTk full h w
          | none => holdBytes s j.beganTk (4 * ofBool full + 8 * ofBool (s.mw.nCand == 0 && s.mw.startBad)) pose
        accessAll unitMW j.ticket ecc [(1, out, bs.length)]
          (seq [ownWrite out bs,
            whenA full (seq [countF MW_CNT_FULL_REVAL 1, raiseInt pageMW 3]),
            whenA c.isNone (seq [countF MW_CNT_HELD 1, raiseInt pageMW 0]),
            endRunning unitMW stDONE])
          (fun st => failJob unitMW st j)]) s

end Sys2Proof.Machine
end

