-- ==== Sys2Proof/Machine/Dispatch.lean ====
section
/-! DEFINITION. Every command and the meaning it has. -/

namespace Sys2Proof.Machine

/-- What a command does to everything but the queue. -/
def exec (i : Instr) (s : State) : Host.Outcome State Fault Refusal :=
  match i with
  | .registerWrite init tkt addr width data => Sys2Proof.Machine.execRegisterWrite init tkt addr width data s
  | .porstN env => Sys2Proof.Machine.execPorstN env s
  | .wrstN => Sys2Proof.Machine.execWrstN s
  | .resetWarm init tkt => Sys2Proof.Machine.execResetWarm init tkt s
  | .resetDie init tkt d => Sys2Proof.Machine.execResetDie init tkt d s
  | .resetEng init tkt g => Sys2Proof.Machine.execResetEng init tkt g s
  | .pllLock => Sys2Proof.Machine.execPllLock s
  | .pwrgdAssert input => Sys2Proof.Machine.execPwrgdAssert input s
  | .pwrgdLoss input => Sys2Proof.Machine.execPwrgdLoss input s
  | .controlFrameBoundary => Sys2Proof.Machine.execControlFrameBoundary s
  | .doorbellWrite init q data => Sys2Proof.Machine.execDoorbellWrite init q data s
  | .queueEnable init tkt => Sys2Proof.Machine.execQueueEnable init tkt s
  | .queueDisable init tkt => Sys2Proof.Machine.execQueueDisable init tkt s
  | .descriptorTake q u ecc => Sys2Proof.Machine.execDescriptorTake q u ecc s
  | .creditWaitStart die ctr => Sys2Proof.Machine.execCreditWaitStart die ctr s
  | .jobComplete u cycles bytes energy ecc => Sys2Proof.Machine.execJobComplete u cycles bytes energy ecc s
  | .openDispatch u ecc => Sys2Proof.Machine.execOpenDispatch u ecc s
  | .planSlotTake slot ecc => Sys2Proof.Machine.execPlanSlotTake slot ecc s
  | .preemptRequest u => Sys2Proof.Machine.execPreemptRequest u s
  | .preemptRelease u cycles => Sys2Proof.Machine.execPreemptRelease u cycles s
  | .copySwitchDone u => Sys2Proof.Machine.execCopySwitchDone u s
  | .slotStart slot => Sys2Proof.Machine.execSlotStart slot s
  | .slotDeadline slot => Sys2Proof.Machine.execSlotDeadline slot s
  | .jobStopAtTile u => Sys2Proof.Machine.execJobStopAtTile u s
  | .linear u ecc => Sys2Proof.Machine.execLinear u ecc s
  | .strided u ecc => Sys2Proof.Machine.execStrided u ecc s
  | .gather u ecc => Sys2Proof.Machine.execGather u ecc s
  | .scatter u ecc => Sys2Proof.Machine.execScatter u ecc s
  | .fill u ecc => Sys2Proof.Machine.execFill u ecc s
  | .matmul u ecc => Sys2Proof.Machine.execMatmul u ecc s
  | .conv u ecc => Sys2Proof.Machine.execConv u ecc s
  | .eltwise u ecc => Sys2Proof.Machine.execEltwise u ecc s
  | .reduce u ecc => Sys2Proof.Machine.execReduce u ecc s
  | .golden u wrong => Sys2Proof.Machine.execGolden u wrong s
  | .goldenCompare g step wrong => Sys2Proof.Machine.execGoldenCompare g step wrong s
  | .teSigTest init tkt g => Sys2Proof.Machine.execTeSigTest init tkt g s
  | .append u ecc => Sys2Proof.Machine.execAppend u ecc s
  | .attn u r => Sys2Proof.Machine.execAttn u r s
  | .attnBwd u r => Sys2Proof.Machine.execAttnBwd u r s
  | .kvGold u wrong => Sys2Proof.Machine.execKvGold u wrong s
  | .ctxWrite u ecc => Sys2Proof.Machine.execCtxWrite u ecc s
  | .ctxRead u ecc => Sys2Proof.Machine.execCtxRead u ecc s
  | .ctxAdvance u ecc => Sys2Proof.Machine.execCtxAdvance u ecc s
  | .ctxTruncate u ecc => Sys2Proof.Machine.execCtxTruncate u ecc s
  | .ctxPin u ecc => Sys2Proof.Machine.execCtxPin u ecc s
  | .ctxUnpin u ecc => Sys2Proof.Machine.execCtxUnpin u ecc s
  | .ctxRelease u ecc => Sys2Proof.Machine.execCtxRelease u ecc s
  | .ctxSummary u ecc => Sys2Proof.Machine.execCtxSummary u ecc s
  | .kvCheckCompare d step wrong => Sys2Proof.Machine.execKvCheckCompare d step wrong s
  | .kvSigTest init tkt d => Sys2Proof.Machine.execKvSigTest init tkt d s
  | .sgJoin init g ctx qrows => Sys2Proof.Machine.execSgJoin init g ctx qrows s
  | .sgLeave init g ctx => Sys2Proof.Machine.execSgLeave init g ctx s
  | .sgSetq init g ctx qrows => Sys2Proof.Machine.execSgSetq init g ctx qrows s
  | .sgStep init mask => Sys2Proof.Machine.execSgStep init mask s
  | .sgPublish g ecc => Sys2Proof.Machine.execSgPublish g ecc s
  | .sgDisable init tkt g => Sys2Proof.Machine.execSgDisable init tkt g s
  | .stage init tkt => Sys2Proof.Machine.execStage init tkt s
  | .stageReadDone ecc => Sys2Proof.Machine.execStageReadDone ecc s
  | .activate init tkt => Sys2Proof.Machine.execActivate init tkt s
  | .stop init tkt => Sys2Proof.Machine.execStop init tkt s
  | .discard init tkt => Sys2Proof.Machine.execDiscard init tkt s
  | .fabricRequest init tkt h addr len data ecc => Sys2Proof.Machine.execFabricRequest init tkt h addr len data ecc s
  | .turnstileAdmit port arrivals => Sys2Proof.Machine.execTurnstileAdmit port arrivals s
  | .budgetWindow => Sys2Proof.Machine.execBudgetWindow s
  | .latencyMiss port t => Sys2Proof.Machine.execLatencyMiss port t s
  | .fwWindowWrite init tkt w word data => Sys2Proof.Machine.execFwWindowWrite init tkt w word data s
  | .fwWindowSync => Sys2Proof.Machine.execFwWindowSync s
  | .fwTsRateWrite init tkt page l t data => Sys2Proof.Machine.execFwTsRateWrite init tkt page l t data s
  | .hartTicketWrite hart value => Sys2Proof.Machine.execHartTicketWrite hart value s
  | .yeliloRequest p tkt h addr len data ecc => Sys2Proof.Machine.execYeliloRequest p tkt h addr len data ecc s
  | .linkReplay d l => Sys2Proof.Machine.execLinkReplay d l s
  | .linkDown d l => Sys2Proof.Machine.execLinkDown d l s
  | .refresh stack => Sys2Proof.Machine.execRefresh stack s
  | .patrolScrub block verdict => Sys2Proof.Machine.execPatrolScrub block verdict s
  | .rowMoveSwitch stack => Sys2Proof.Machine.execRowMoveSwitch stack s
  | .healthRecordWrite => Sys2Proof.Machine.execHealthRecordWrite s
  | .timeLoad init tkt data => Sys2Proof.Machine.execTimeLoad init tkt data s
  | .timeSecRead init => Sys2Proof.Machine.execTimeSecRead init s
  | .ptpSync port m gm => Sys2Proof.Machine.execPtpSync port m gm s
  | .ptpAnnounce port m selected => Sys2Proof.Machine.execPtpAnnounce port m selected s
  | .ptpDelayMessage port h t1 t2 t3 t4 => Sys2Proof.Machine.execPtpDelayMessage port h t1 t2 t3 t4 s
  | .ptpSyncInterval x => Sys2Proof.Machine.execPtpSyncInterval x s
  | .holdoverTimeout kind => Sys2Proof.Machine.execHoldoverTimeout kind s
  | .referenceLost pll => Sys2Proof.Machine.execReferenceLost pll s
  | .tcapEdge idx kind => Sys2Proof.Machine.execTcapEdge idx kind s
  | .capTsRead init idx => Sys2Proof.Machine.execCapTsRead init idx s
  | .tpulseEdge j => Sys2Proof.Machine.execTpulseEdge j s
  | .pulseCfgWrite init j word data => Sys2Proof.Machine.execPulseCfgWrite init j word data s
  | .csi2Frame idx a => Sys2Proof.Machine.execCsi2Frame idx a s
  | .ethernetSample idx a => Sys2Proof.Machine.execEthernetSample idx a s
  | .spiDrdy idx a => Sys2Proof.Machine.execSpiDrdy idx a s
  | .i3cSample idx a => Sys2Proof.Machine.execI3cSample idx a s
  | .canFrame idx a => Sys2Proof.Machine.execCanFrame idx a s
  | .derivedRecord idx a => Sys2Proof.Machine.execDerivedRecord idx a s
  | .cycleClose g => Sys2Proof.Machine.execCycleClose g s
  | .fuStreamEnable init tkt idx => Sys2Proof.Machine.execFuStreamEnable init tkt idx s
  | .reinstate init idx => Sys2Proof.Machine.execReinstate init idx s
  | .groupDisable init g => Sys2Proof.Machine.execGroupDisable init g s
  | .calCommit init idx => Sys2Proof.Machine.execCalCommit init idx s
  | .fuse u ecc => Sys2Proof.Machine.execFuse u ecc s
  | .mapClear init => Sys2Proof.Machine.execMapClear init s
  | .mapClearDone => Sys2Proof.Machine.execMapClearDone s
  | .mapCells u ecc => Sys2Proof.Machine.execMapCells u ecc s
  | .mapFuse u ecc => Sys2Proof.Machine.execMapFuse u ecc s
  | .mapCommit u => Sys2Proof.Machine.execMapCommit u s
  | .mapCopyDone => Sys2Proof.Machine.execMapCopyDone s
  | .plan u ecc => Sys2Proof.Machine.execPlan u ecc s
  | .emit u ecc => Sys2Proof.Machine.execEmit u ecc s
  | .solve u times store ecc => Sys2Proof.Machine.execSolve u times store ecc s
  | .cmd u ecc => Sys2Proof.Machine.execCmd u ecc s
  | .feed u times ecc => Sys2Proof.Machine.execFeed u times ecc s
  | .decodeBudgetOverrun u ecc => Sys2Proof.Machine.execDecodeBudgetOverrun u ecc s
  | .axisGridPoint => Sys2Proof.Machine.execAxisGridPoint s
  | .fbFrame ring frame => Sys2Proof.Machine.execFbFrame ring frame s
  | .fbDeadline => Sys2Proof.Machine.execFbDeadline s
  | .takePoint ecc => Sys2Proof.Machine.execTakePoint ecc s
  | .axisUpdate ring mem => Sys2Proof.Machine.execAxisUpdate ring mem s
  | .axisFrameOther ring frame => Sys2Proof.Machine.execAxisFrameOther ring frame s
  | .ringRun init tkt r => Sys2Proof.Machine.execRingRun init tkt r s
  | .enum init tkt r => Sys2Proof.Machine.execEnum init tkt r s
  | .discRsp ring frame => Sys2Proof.Machine.execDiscRsp ring frame s
  | .enumDone => Sys2Proof.Machine.execEnumDone s
  | .read init tkt r node axis => Sys2Proof.Machine.execRead init tkt r node axis s
  | .identRsp ring frame => Sys2Proof.Machine.execIdentRsp ring frame s
  | .identReqTimeout => Sys2Proof.Machine.execIdentReqTimeout s
  | .config init tkt axis ring node ecc => Sys2Proof.Machine.execConfig init tkt axis ring node ecc s
  | .tabDataAccess init write data => Sys2Proof.Machine.execTabDataAccess init write data s
  | .faultClear init axis => Sys2Proof.Machine.execFaultClear init axis s
  | .doubtWireAssert wires => Sys2Proof.Machine.execDoubtWireAssert wires s
  | .doubtRequest init => Sys2Proof.Machine.execDoubtRequest init s
  | .netUpdate => Sys2Proof.Machine.execNetUpdate s
  | .netArm init => Sys2Proof.Machine.execNetArm init s
  | .lockstepMismatch pair => Sys2Proof.Machine.execLockstepMismatch pair s
  | .watchdogExpiry which => Sys2Proof.Machine.execWatchdogExpiry which s
  | .netWatchdogExpiry => Sys2Proof.Machine.execNetWatchdogExpiry s
  | .watchWatchdogExpiry => Sys2Proof.Machine.execWatchWatchdogExpiry s
  | .islandWatchdogExpiry => Sys2Proof.Machine.execIslandWatchdogExpiry s
  | .hostKick init => Sys2Proof.Machine.execHostKick init s
  | .reintRequest init => Sys2Proof.Machine.execReintRequest init s
  | .reintGoldenTimeout => Sys2Proof.Machine.execReintGoldenTimeout s
  | .carouselStepDone e ok => Sys2Proof.Machine.execCarouselStepDone e ok s
  | .logWrite => Sys2Proof.Machine.execLogWrite s
  | .logTailWrite init tkt value => Sys2Proof.Machine.execLogTailWrite init tkt value s
  | .currentWindow estimates => Sys2Proof.Machine.execCurrentWindow estimates s
  | .gainUpdate avs pmbus => Sys2Proof.Machine.execGainUpdate avs pmbus s
  | .powerWindow use => Sys2Proof.Machine.execPowerWindow use s
  | .voteReceived port entries => Sys2Proof.Machine.execVoteReceived port entries s
  | .tempSample temps mems => Sys2Proof.Machine.execTempSample temps mems s
  | .stateReqA0 init tkt => Sys2Proof.Machine.execStateReqA0 init tkt s
  | .stateReqP1 init tkt => Sys2Proof.Machine.execStateReqP1 init tkt s
  | .stateReqP2 init tkt => Sys2Proof.Machine.execStateReqP2 init tkt s
  | .stateReqP3 init tkt => Sys2Proof.Machine.execStateReqP3 init tkt s
  | .stateDone env => Sys2Proof.Machine.execStateDone env s
  | .wakeEvent kind idx => Sys2Proof.Machine.execWakeEvent kind idx s
  | .unlockPw password => Sys2Proof.Machine.execUnlockPw password s
  | .nonce => Sys2Proof.Machine.execNonce s
  | .unlockCr levels pubX pubY sigR sigS reserved => Sys2Proof.Machine.execUnlockCr levels pubX pubY sigR sigS reserved s
  | .intForceWrite init tkt page data => Sys2Proof.Machine.execIntForceWrite init tkt page data s
  | .intRouteWrite init tkt page data => Sys2Proof.Machine.execIntRouteWrite init tkt page data s
  | .yeliloEnable init p => Sys2Proof.Machine.execYeliloEnable init p s
  | .yeliloCodewordFail p => Sys2Proof.Machine.execYeliloCodewordFail p s
  | .yeliloLossOfLock p => Sys2Proof.Machine.execYeliloLossOfLock p s
  | .gridCycle n => Sys2Proof.Machine.execGridCycle n s
  | .yeliloLinkUp p trained peer => Sys2Proof.Machine.execYeliloLinkUp p trained peer s
  | .yeliloReplayRequest p n => Sys2Proof.Machine.execYeliloReplayRequest p n s
  | .portLinkChange ring up => Sys2Proof.Machine.execPortLinkChange ring up s

end Sys2Proof.Machine
end

