-- ==== Sys2Proof/Safety.lean ====
section
/-! DEFINITION. What counts as a safe run of the block, in the terms the statements use. -/

namespace Sys2Proof.Machine

/-- The storage and the register map are in their canonical form. -/
def State.Canonical (s : State) : Prop := s.mem.wf ∧ mwf s.regs

/-- No doubt bit of `s` is lost in `t` (R537, R541). -/
def KeepsDoubt (s t : State) : Prop := ∀ n, bit s.doubt.bits n = true → bit t.doubt.bits n = true

/-- What only the island, power-on or a lock may change is as it was: windows, silicon, debug access. -/
def KeepsTrust (s t : State) : Prop := t.fw = s.fw ∧ t.silicon = s.silicon ∧ t.dbg = s.dbg

/-- An access of type `acc` (0 R, 1 W, 2 A, 3 X) by initiator `init` under ticket `tkt` to `n` bytes at `a` passes every check of
the fabric, piece by piece: it is not denied, and meets no address that is not usable (R43, R348, R349). -/
def Passes (s : State) (init tkt acc a n : Nat) : Prop := (checkRange s init tkt acc ⟨[], []⟩ a n).1 = 0

/-- The same of one request of `n` bytes at `a` that names ticket `tkt`: it carries its initiator's ticket (R326), and all of it is
checked before any of it is performed (R349, R354). -/
def Reaches (s : State) (init tkt acc a n : Nat) : Prop := (checkRequest s init (carried s init tkt) acc ⟨[], []⟩ a n).1 = 0

/-- The address is one of storage: a stack, an SRAM, a scratch pool, or the log ring. -/
def plainAddr (a : Nat) : Bool := match region a with
  | .stack _ _ | .sram _ _ _ | .scratch _ _ | .hubSram _ | .logRing _ | .islandSram _ => true
  | _ => false

/-- Register fields other than `fs`, on pages other than `ps`, read in `t` what they read in `s`. -/
def RegsBut (fs : List Fld) (ps : List Nat) (s t : State) : Prop :=
  ∀ f : Fld, (∀ g ∈ fs, f.key ≠ g.key) → f.key / 0x400000 ∉ ps → t.get f = s.get f

/-- The fields of page `p`'s error window, and its INT_STAT (Table 18-1). -/
def errFields (p : Nat) : List Fld :=
  [ERRW_VALID p, ERRW_WRITE p, ERRW_KIND p, ERRW_INIT p, ERRW_TICKET p, ERRW_OFFSET p, ERRW_DATA p, ERRW_CNT p, INT_STAT p]

/-- Every byte of storage outside the ranges `rs` (first address, length) is in `t` what it is in `s`. -/
def MemBut (rs : List (Nat × Nat)) (s t : State) : Prop :=
  ∀ a, (∀ r ∈ rs, ¬(r.1 ≤ a ∧ a < r.1 + r.2)) → t.mem.byte a = s.mem.byte a

end Sys2Proof.Machine
end

