-- ==== Sys2Proof/Certificates/Slice0/Obligations.lean ====
section
/-! DEFINITION. The statements for the provers. -/

open Sys2Proof Sys2Proof.Machine

/-- O1: A step runs the command at the front of the queue, and idles on an empty queue. (95_what_each_step_holds.md, 00 INDEX) -/
def Obligations.StepRunsFrontCommand : Prop :=
  ∀ s : State,
    (∀ (c : Instr) (rest : List Instr), step { s with pending := c :: rest } = exec c { s with pending := rest })
    ∧ (s.pending = [] → step s = .next s)

/-- O2: Right after PORST_N rises every field reads its reset value, EL_DOUBT reads START and the queue is empty. (R540, 03 Clocks and device time, 17 Boot, images and debug) -/
def Obligations.StateRightAfterPorst : Prop :=
  (∀ f : Fld, State.reset.get f = f.reset)
    ∧ (State.reset.doubt.bits = 2 ^ 13 ∧ State.reset.doubt.firstSrc = 13 ∧ State.reset.doubt.firstOrigin = 5)
    ∧ State.reset.isl.sto = false
    ∧ (State.reset.grid.running = false ∧ State.reset.grid.now = 0)
    ∧ (State.reset.plan.staged = none ∧ State.reset.plan.inForce = none ∧ State.reset.plan.next = none)
    ∧ (State.reset.time.sec = 0 ∧ State.reset.time.ns = 0 ∧ State.reset.time.inc = incNom)
    ∧ (∀ a : Nat, State.reset.mem.byte a = 0#8)
    ∧ State.reset.pending = []

/-- O3: The state right after PORST_N has its storage and its register map in canonical form. (02 Memory, address map and Big Top) -/
def Obligations.ResetIsCanonical : Prop :=
  State.reset.Canonical

/-- O4: Every step keeps the storage and the register map in canonical form. (02 Memory, address map and Big Top) -/
def Obligations.EveryStepKeepsCanonicalForm : Prop :=
  ∀ s t : State, s.Canonical → step s = .next t → t.Canonical

/-- O5: Only the return of the rings, a power-on and an island reset can clear a bit of EL_DOUBT. (14 The island, R538, R541) -/
def Obligations.DoubtBitsLeaveOnlyThreeWays : Prop :=
  ∀ (c : Instr) (s t : State), c ≠ .axisGridPoint → c ≠ .islandWatchdogExpiry → (∀ e, c ≠ .porstN e) → exec c s = .next t →
    KeepsDoubt s t
    ∧ (s.doubt.bits ≠ 0 → t.doubt.firstSrc = s.doubt.firstSrc ∧ t.doubt.firstOrigin = s.doubt.firstOrigin ∧ t.doubt.firstTime = s.doubt.firstTime)

/-- O6: Firewall windows, key store and debug levels change only by the commands that the manual gives them. (08 Tickets, turnstiles and firewalls, 17 Boot, images and debug) -/
def Obligations.TrustedStateHasFewWriters : Prop :=
  ∀ (c : Instr) (s t : State),
    (∀ i k w j d, c ≠ .fwWindowWrite i k w j d) → c ≠ .fwWindowSync → (∀ i k a w d, c ≠ .registerWrite i k a w d) →
    (∀ i k h a n bs e, c ≠ .fabricRequest i k h a n bs e) → (∀ p k h a n bs e, c ≠ .yeliloRequest p k h a n bs e) →
    (∀ e, c ≠ .porstN e) → c ≠ .pllLock → c ≠ .wrstN → (∀ i k, c ≠ .resetWarm i k) → (∀ e, c ≠ .stateDone e) →
    (∀ p, c ≠ .unlockPw p) → (∀ l x y r v z, c ≠ .unlockCr l x y r v z) → exec c s = .next t →
    KeepsTrust s t ∧ t.pending = s.pending

/-- O7: Every command answers a next state: none faults, none is refused, and one whose operands name nothing leaves the state. (95_what_each_step_holds.md) -/
def Obligations.EveryCommandAnswersANextState : Prop :=
  ∀ (c : Instr) (s : State),
    (∃ t, exec c s = .next t) ∧ (Instr.wellFormed c = false → exec c s = .next s)

/-- O8: GRID_CYCLE advances the grid count, device time, MTIME and every bucket. (R364, R678, R341, 03 Clocks and device time, 08 Tickets, turnstiles and firewalls) -/
def Obligations.GridCycleAdvancesTime : Prop :=
  ∀ (n : Nat) (s : State),
    ((s.boot.step = 1 ∨ n = 0) → exec (.gridCycle n) s = .next s)
    ∧ (s.boot.step ≠ 1 → n ≠ 0 → ∃ t, exec (.gridCycle n) s = .next t
      ∧ t.grid = { s.grid with now := s.grid.now + n }
      ∧ t.time = { s.time with sec := t.time.sec, ns := t.time.ns, sub := t.time.sub, frac := t.time.frac, inc := t.time.inc, mtime := t.time.mtime }
      ∧ (2 ^ 32 * (1000000000 * t.time.sec + t.time.ns) + t.time.sub) % (2 ^ 32 * (1000000000 * 2 ^ 48))
          = (2 ^ 32 * (1000000000 * s.time.sec + s.time.ns) + s.time.sub + n * s.time.inc) % (2 ^ 32 * (1000000000 * 2 ^ 48))
      ∧ t.time.ns < 1000000000 ∧ t.time.sub < 2 ^ 32 ∧ t.time.frac = t.time.sub / 2 ^ 16
      ∧ t.time.inc = (if s.is TM_CTRL_SERVO_EN then incOf s.time.adj else s.get TM_INC_INC)
      ∧ t.time.mtime = (s.time.mtime + ((s.grid.now + n) / 11 - s.grid.now / 11)) % 2 ^ 64
      ∧ (s.bus.lines = [] →
        t = { s with grid := t.grid, ts := { s.ts with entries := t.ts.entries, before := [] }, time := t.time }
        ∧ ∀ (p k : Nat) (e : TsEntry), k < 64 → mget s.ts.entries (64 * p + k) = some e →
          let lv := if (mget s.ts.before (64 * p + k)).isSome then min e.level (11 * tsBurst s p k) else e.level
          ∃ e', mget t.ts.entries (64 * p + k) = some e'
            ∧ e'.level = (if tsRate s p k = 0 then lv else min (lv + n * tsRate s p k) (11 * tsBurst s p k))
            ∧ e' = { e with level := e'.level, waiting := e'.waiting }
            ∧ e'.waiting.map (fun w => (w.order, w.bytes)) = e.waiting.map (fun w => (w.order, w.bytes))))

/-- O9: TIME_LOAD loads device time without a plan and is refused with one; TIME_SEC_READ latches NS and FRAC (R367, R369). (R367, R369) -/
def Obligations.TimeLoadsAndReads : Prop :=
  (∀ (init tkt data : Nat) (s : State), Instr.wellFormed (.timeLoad init tkt data) = true → Reaches s init tkt 1 (pageAddr pageTM 0x108) 8 →
    ∃ t, exec (.timeLoad init tkt data) s = .next t
      ∧ (s.planOn = false →
        t.time.sec = s.get TM_TIME_SEC_SEC ∧ t.time.ns = field data 47 16 ∧ t.time.frac = field data 15 0
        ∧ t.time.inc = s.time.inc ∧ bit (t.get (INT_STAT pageTM)) 2 = true ∧ RegsBut [INT_STAT pageTM] [] s t
        ∧ t = { s with regs := t.regs, time := t.time, bus := { s.bus with sent := t.bus.sent, files := t.bus.files } })
      ∧ (s.planOn = true →
        t.time = s.time ∧ bit (t.get (INT_STAT pageTM)) 3 = true ∧ t.is (ERRW_VALID pageTM) = true
        ∧ t.get (ERRW_CNT pageTM) = satU (ERRW_CNT pageTM).width (s.get (ERRW_CNT pageTM) + 1)
        ∧ RegsBut (errFields pageTM) [1, 21, 37, 53, 69] s t
        ∧ t = { s with regs := t.regs, log := t.log, bus := { s.bus with files := t.bus.files } }))
  ∧ (∀ (init : Nat) (s : State), isInit init = true → Reaches s init (ticketOf s init) 0 (pageAddr pageTM 0x100) 8 →
    exec (.timeSecRead init) s = .next { s with time := { s.time with latched := some (65536 * s.time.ns + s.time.frac) }, bus := { s.bus with resp := some ⟨init, 0, 0, leBytes 8 s.time.sec⟩ } })

/-- O10: TCAP_EDGE stores a timestamp in a FIFO of 16, TM_CAP_TS reads remove the oldest (R378, R379). (R379) -/
def Obligations.CapturesKeepEdgesInOrder : Prop :=
  ∀ (i kind init : Nat) (s : State), Instr.wellFormed (.tcapEdge i kind) = true → isInit init = true →
    (bit (s.get (TM_CAP_CFG_EDGE i)) kind = false → exec (.tcapEdge i kind) s = .next s)
    ∧ (bit (s.get (TM_CAP_CFG_EDGE i)) kind = true → (∃ c, mget s.time.lastEdge i = some c ∧ s.grid.now < c + 8) →
        exec (.tcapEdge i kind) s = .next { s with time := { s.time with lastEdge := mset s.time.lastEdge i s.grid.now } })
    ∧ (bit (s.get (TM_CAP_CFG_EDGE i)) kind = true → (∀ c, mget s.time.lastEdge i = some c → c + 8 ≤ s.grid.now) →
        (((mget s.time.fifo i).getD []).length < 16 → exec (.tcapEdge i kind) s = .next { s with time := { s.time with lastEdge := mset s.time.lastEdge i s.grid.now, fifo := mset s.time.fifo i ((mget s.time.fifo i).getD [] ++ [s.timestamp]) } })
        ∧ (16 ≤ ((mget s.time.fifo i).getD []).length → ∃ t, exec (.tcapEdge i kind) s = .next t
          ∧ t.time = { s.time with lastEdge := mset s.time.lastEdge i s.grid.now }
          ∧ t.get (TM_CAP_STAT_OVF i) = 1 ∧ t.get (TM_CAP_STAT_LOST i) = satU (TM_CAP_STAT_LOST i).width (s.get (TM_CAP_STAT_LOST i) + 1)
          ∧ bit (t.get (INT_STAT pageTM)) 4 = true ∧ t.mem = s.mem ∧ t.doubt = s.doubt
          ∧ RegsBut [TM_CAP_STAT_OVF i, TM_CAP_STAT_LOST i, INT_STAT pageTM] [] s t))
    ∧ (Reaches s init (ticketOf s init) 0 (pageAddr pageTM (0x308 + 16 * i)) 8 →
        (∀ t r, mget s.time.fifo i = some (t :: r) → exec (.capTsRead init i) s = .next { s with time := { s.time with fifo := mset s.time.fifo i r }, bus := { s.bus with resp := some ⟨init, 0, 0, leBytes 8 t⟩ } })
        ∧ ((mget s.time.fifo i).getD [] = [] → exec (.capTsRead init i) s = .next { s with bus := { s.bus with resp := some ⟨init, 0, 0, leBytes 8 0⟩ } }))

/-- O11: PTP_SYNC moves the servo and may step; holdover begins on missed intervals or another grandmaster; REFERENCE_LOST falls back (R371 to R377). (03 Clocks and device time, R374, R361, R375, R376) -/
def Obligations.ServoAndHoldover : Prop :=
  (∀ (port : Nat) (m : SyncMsg) (gm : Nat) (s : State), Instr.wellFormed (.ptpSync port m gm) = true →
    let o := wrap64 (m.raw - toSigned 32 (s.get (TM_PORT_LAT_LAT_IN port)) - m.origin - m.corr - toSigned 32 (s.get (TM_PORT_ASYM_ASYM port)) - (mget s.time.pathDelay port).getD 0)
    let taken := takesDomain s m.domain = true ∧ s.time.rxPort = some port
    ∃ t, exec (.ptpSync port m gm) s = .next t ∧ t.mem = s.mem ∧ t.doubt = s.doubt ∧ t.grid = s.grid
    ∧ RegsBut [TM_LAST_OFS_O, TM_FREQ_I, TM_STATUS_LOCKED, TM_STATUS_HOLDOVER, TM_GM_ID_ID, INT_STAT pageTM] [] s t
    ∧ (¬taken → t = { s with time := { s.time with discarded := s.time.discarded + 1 } })
    ∧ (taken → t.get TM_LAST_OFS_O = ofSigned 64 o
      ∧ (s.is TM_STATUS_HOLDOVER = false → s.is TM_CTRL_SERVO_EN = true →
          ((s.planOn = true ∨ s.is TM_CTRL_STEP_EN = false ∨ o.natAbs ≤ s.get TM_SERVO_STEP_THR) →
            let e := wrap64 (-o)
            let i := clampI (-servoLim s) (servoLim s) (wrap64 (toSigned 48 (s.get TM_FREQ_I) + wrap64 (e * (s.get TM_SERVO_KI : Nat)) / 16))
            t.get TM_FREQ_I = ofSigned 48 i
            ∧ t.time.adj = clampI (-servoLim s) (servoLim s) (wrap64 (i + wrap64 (e * (s.get TM_SERVO_KP : Nat)) / 16))
            ∧ t.time.inc = incOf t.time.adj ∧ t.get TM_STATUS_LOCKED = 1
            ∧ (t.time.sec, t.time.ns, t.time.frac) = (s.time.sec, s.time.ns, s.time.frac))
          ∧ (s.planOn = false → s.is TM_CTRL_STEP_EN = true → s.get TM_SERVO_STEP_THR < o.natAbs →
            let v := ((65536 * (1000000000 * s.time.sec + s.time.ns) + s.time.frac : Nat) - o).toNat
            t.time.sec = v / 65536 / 1000000000 % 2 ^ 48 ∧ t.time.ns = v / 65536 % 1000000000 ∧ t.time.frac = v % 65536
            ∧ bit (t.get (INT_STAT pageTM)) 2 = true
            ∧ t.time.adj = clampedI s ∧ t.time.inc = incOf t.time.adj ∧ t.get TM_FREQ_I = s.get TM_FREQ_I))
      ∧ (s.is TM_STATUS_HOLDOVER = true → gm ≠ s.time.bestGm → t.time = s.time ∧ t.is TM_STATUS_HOLDOVER = true)
      ∧ (s.is TM_STATUS_HOLDOVER = true → gm = s.time.bestGm → o.natAbs ≤ s.get TM_SERVO_STEP_THR →
          (s.time.syncs + 1 < max 1 (s.get TM_HOLD_HOLD_SYNCS) → t.time = { s.time with syncs := s.time.syncs + 1 } ∧ t.is TM_STATUS_HOLDOVER = true)
          ∧ (max 1 (s.get TM_HOLD_HOLD_SYNCS) ≤ s.time.syncs + 1 →
            t.get TM_GM_ID_ID = gm ∧ t.is TM_STATUS_HOLDOVER = false ∧ t.get TM_FREQ_I = s.get TM_FREQ_I
            ∧ (gm ≠ s.get TM_GM_ID_ID → bit (t.get (INT_STAT pageTM)) 1 = true)))))
  ∧ (∀ (kind port domain gm selected : Nat) (pll : Bool) (s : State), kind < 2 → Instr.wellFormed (.ptpAnnounce port ⟨domain, gm⟩ selected) = true →
    (∃ t, exec (.holdoverTimeout kind) s = .next t
      ∧ ((s.is TM_CTRL_PTP_EN = false ∨ s.is TM_STATUS_HOLDOVER = true) → t = s)
      ∧ (s.is TM_CTRL_PTP_EN = true → s.is TM_STATUS_HOLDOVER = false →
        t.get TM_STATUS_HOLDOVER = 1 ∧ t.get TM_STATUS_LOCKED = 0 ∧ t.time.adj = clampedI s ∧ bit (t.get (INT_STAT pageTM)) 0 = true
        ∧ t.time = { s.time with adj := clampedI s, inc := t.time.inc, syncs := 0 }
        ∧ t = { s with regs := t.regs, time := t.time, bus := { s.bus with files := t.bus.files } }
        ∧ RegsBut [TM_STATUS_HOLDOVER, TM_STATUS_LOCKED, INT_STAT pageTM] [] s t))
    ∧ (∃ t, exec (.ptpAnnounce port ⟨domain, gm⟩ selected) s = .next t
      ∧ (takesDomain s domain = false → t = { s with time := { s.time with discarded := s.time.discarded + 1 } })
      ∧ (takesDomain s domain = true → t.time.bestGm = selected
        ∧ (selected = gm → t.time.rxPort = some port) ∧ (selected ≠ gm → t.time.rxPort = s.time.rxPort)
        ∧ (selected = s.get TM_GM_ID_ID → t.regs = s.regs)
        ∧ (selected ≠ s.get TM_GM_ID_ID → t.is TM_STATUS_HOLDOVER = true)
        ∧ t = { s with regs := t.regs, time := t.time, bus := { s.bus with files := t.bus.files } }
        ∧ RegsBut [TM_STATUS_HOLDOVER, TM_STATUS_LOCKED, INT_STAT pageTM] [] s t))
    ∧ (∃ t, exec (.referenceLost pll) s = .next t
      ∧ t.get TM_STATUS_REF_LOST = 1 ∧ t.get TM_STATUS_PLL_LOCK = (if pll then 0 else s.get TM_STATUS_PLL_LOCK)
      ∧ bit t.doubt.bits 11 = true ∧ (s.doubt.bits = 0 → t.doubt.firstSrc = 11 ∧ t.doubt.firstOrigin = 5)
      ∧ t.time = s.time ∧ t.mem = s.mem))

/-- O12: Delay messages give the mean path delay, are answered, sent or discarded; a sync interval sends Sync and Follow_Up (R370 to R372). (R370, R371, R372) -/
def Obligations.PtpPortsMeasureAndSend : Prop :=
  ∀ (port kind domain : Nat) (t1 t2 t3 t4 li : Int) (s : State), port < 6 → kind < 8 → domain < 256 →
    let asym := toSigned 32 (s.get (TM_PORT_ASYM_ASYM port))
    let latIn := toSigned 32 (s.get (TM_PORT_LAT_LAT_IN port))
    let latOut := toSigned 32 (s.get (TM_PORT_LAT_LAT_OUT port))
    let known := takesDomain s domain = true ∧ kind < 6 ∧ (kind % 2 = 1 ∨ s.is TM_CTRL_PROFILE = true)
    (¬known → exec (.ptpDelayMessage port ⟨kind, domain⟩ t1 t2 t3 t4) s = .next { s with time := { s.time with discarded := s.time.discarded + 1 } })
    ∧ (known →
      (kind = 0 → exec (.ptpDelayMessage port ⟨kind, domain⟩ t1 t2 t3 t4) s = .next { s with time := { s.time with pathDelay := mset s.time.pathDelay port (((t2 - latIn - t1 - asym) + (t4 - (t3 + latOut) + asym)) / 2) } })
      ∧ (kind = 1 → exec (.ptpDelayMessage port ⟨kind, domain⟩ t1 t2 t3 t4) s = .next { s with time := { s.time with pathDelay := mset s.time.pathDelay port (((t4 - latIn - (t1 + latOut)) - (t3 - t2)) / 2) } })
      ∧ (2 ≤ kind → (2 ≤ port → gatePasses s (port - 2) 6 84 = true) → ∃ o, o.kind = 3 ∧ o.port = port ∧ exec (.ptpDelayMessage port ⟨kind, domain⟩ t1 t2 t3 t4) s
          = .next { s with bus := { s.bus with sent := s.bus.sent ++ [o] } }))
    ∧ (let sends := s.is TM_CTRL_PTP_EN = true ∧ s.time.rxPort ≠ some port ∧ -7 ≤ li ∧ li ≤ 2
       let n := (mget s.time.ptpSeq port).getD 0
       let at_ : Int := (65536 * s.timestamp : Nat) + latOut
       (¬sends → exec (.ptpSyncInterval ⟨port, li⟩) s = .next s)
       ∧ (sends → 2 ≤ port → gatePasses s (port - 2) 6 84 = false → exec (.ptpSyncInterval ⟨port, li⟩) s = .next { s with time := { s.time with ptpSeq := mset s.time.ptpSeq port ((n + 1) % 65536) } })
       ∧ (sends → (2 ≤ port → gatePasses s (port - 2) 6 84 = true) → exec (.ptpSyncInterval ⟨port, li⟩) s = .next { s with bus := { s.bus with sent := s.bus.sent ++ [⟨3, port, 0x00#8 :: beBytes 2 n⟩, ⟨3, port, 0x08#8 :: (beBytes 2 n ++ leBytes 8 (ofSigned 64 at_))⟩] }, time := { s.time with ptpSeq := mset s.time.ptpSeq port ((n + 1) % 65536) } }))

/-- O13: TPULSE_EDGE drives the pin of an enabled output when an edge is due; a configuration write cuts the pulse short (R380, R381). (R380, R381) -/
def Obligations.PulsesRiseAndFall : Prop :=
  (∀ (j : Nat) (s : State), j < 8 →
    let p := pulse s j
    let once := s.get (TM_PULSE_CFG_MODE j) = 1 ∨ (s.get (TM_PULSE_CFG_MODE j) = 2 ∧ s.get (TM_PULSE_PERIOD_PERIOD_NS j) = 0)
    let period := s.get (TM_PULSE_CFG_MODE j) = 2 ∧ s.get (TM_PULSE_PERIOD_PERIOD_NS j) ≠ 0
    let ends : Prop := if s.get (TM_PULSE_CFG_HIGH_NS j) = 0 then p.riseCycle < s.grid.now else
      p.riseAt + (if s.get (TM_PULSE_CFG_MODE j) = 2 ∧ s.get (TM_PULSE_PERIOD_PERIOD_NS j) ≠ 0 then min (s.get (TM_PULSE_CFG_HIGH_NS j)) (s.get (TM_PULSE_PERIOD_PERIOD_NS j) - 1) else s.get (TM_PULSE_CFG_HIGH_NS j)) ≤ s.timestamp
    let high (at_ : Nat) : State := { s with time := { s.time with pulses := mset s.time.pulses j { p with level := true, fired := true, riseAt := at_, riseCycle := s.grid.now, next := at_ + s.get (TM_PULSE_PERIOD_PERIOD_NS j), gridAt := some s.grid.boundaryAt } }, bus := { s.bus with sent := s.bus.sent ++ [⟨2, j, [1#8]⟩] } }
    ((s.get (TM_PULSE_CFG_MODE j) = 0 ∨ s.grid.now ≤ p.setAt) → exec (.tpulseEdge j) s = .next s)
    ∧ (s.get (TM_PULSE_CFG_MODE j) ≠ 0 → p.setAt < s.grid.now →
      (p.level = true → ¬ends → exec (.tpulseEdge j) s = .next s)
      ∧ (p.level = true → ends → ∃ t, exec (.tpulseEdge j) s = .next t
          ∧ t = { s with regs := t.regs, time := { s.time with pulses := mset s.time.pulses j { p with level := false } }, bus := { s.bus with sent := s.bus.sent ++ [⟨2, j, [0#8]⟩] } }
          ∧ (once → t.get (TM_PULSE_CFG_MODE j) = 0) ∧ (¬once → t.regs = s.regs) ∧ RegsBut [TM_PULSE_CFG_MODE j] [] s t)
      ∧ (p.level = false → once → exec (.tpulseEdge j) s = .next (if p.fired = false ∧ s.get (TM_PULSE_START_START j) ≤ s.timestamp then high (s.get (TM_PULSE_START_START j)) else s))
      ∧ (p.level = false → period → exec (.tpulseEdge j) s = .next (if p.next ≤ s.timestamp then high p.next else s))
      ∧ (p.level = false → s.get (TM_PULSE_CFG_MODE j) = 3 → exec (.tpulseEdge j) s = .next (if gridBoundary s j = true ∧ p.gridAt ≠ some s.grid.boundaryAt
          ∧ s.get (TM_PULSE_CFG_OFFSET j) ≤ s.grid.now - s.grid.boundaryAt then high s.timestamp else s))))
  ∧ (∀ (init j word data : Nat) (s : State), Instr.wellFormed (.pulseCfgWrite init j word data) = true →
    Reaches s init (ticketOf s init) 1 (pageAddr pageTM (0x400 + 32 * j + 8 * word)) 8 → ∃ t,
      exec (.pulseCfgWrite init j word data) s = .next t
      ∧ t = { s with regs := t.regs, time := { s.time with pulses := mset s.time.pulses j { Pulse.idle with next := nextRise t j, gridAt := (pulse s j).gridAt, setAt := s.grid.now } }, bus := { s.bus with sent := s.bus.sent ++ (if (pulse s j).level then [⟨2, j, [0#8]⟩] else []) } }
      ∧ (word = 0 → t.get (TM_PULSE_CFG_OFFSET j) = field data 63 44 ∧ t.get (TM_PULSE_CFG_DIV j) = field data 43 32
          ∧ t.get (TM_PULSE_CFG_HIGH_NS j) = field data 31 2 ∧ t.get (TM_PULSE_CFG_MODE j) = field data 1 0)
      ∧ (word = 1 → t.get (TM_PULSE_START_START j) = data)
      ∧ (word = 2 → t.get (TM_PULSE_PERIOD_PERIOD_NS j) = field data 31 0)
      ∧ RegsBut (if word = 0 then [TM_PULSE_CFG_OFFSET j, TM_PULSE_CFG_DIV j, TM_PULSE_CFG_HIGH_NS j, TM_PULSE_CFG_MODE j]
          else if word = 1 then [TM_PULSE_START_START j] else [TM_PULSE_PERIOD_PERIOD_NS j]) [] s t)

/-- O14: LINK_REPLAY counts a replay and takes the link down above 32 in one 10 us window; LINK_DOWN takes both ends down (R62, R63, R343). (R62, R63) -/
def Obligations.LinksReplayAndGoDown : Prop :=
  ∀ (d l : Nat) (s : State), d < 4 → l < 4 →
    let fails (t : State) : Prop := ∀ p k, k < 64 → mget t.ts.entries (64 * p + k) = (mget s.ts.entries (64 * p + k)).map (fun e =>
      if p ∈ portsOfLink d l then { e with waiting := [], demand := e.demand - e.waiting.foldl (fun a w => a + w.bytes) 0 } else e)
    (s.is (BT_LINK_STAT_DOWN d l) = true → exec (.linkReplay d l) s = .next s ∧ exec (.linkDown d l) s = .next s)
    ∧ (s.is (BT_LINK_STAT_DOWN d l) = false →
      (∃ t, exec (.linkDown d l) s = .next t ∧ t.get (BT_LINK_STAT_DOWN d l) = 1
        ∧ (∀ e, farEnd d l = some e → t.get (BT_LINK_STAT_DOWN e.1 e.2) = 1)
        ∧ fails t ∧ t = { s with regs := t.regs, log := t.log, ts := { s.ts with entries := t.ts.entries }, bus := { s.bus with files := t.bus.files } }
        ∧ RegsBut ((farEnd d l).toList.map (fun e => BT_LINK_STAT_DOWN e.1 e.2) ++ [BT_LINK_STAT_DOWN d l]) [1, 21, 37, 53, 69] s t)
      ∧ (let w := s.grid.now / 11000
         let key := match farEnd d l with
           | some e => min (4 * d + l) (4 * e.1 + e.2)
           | none => 4 * d + l
         let n := match mget s.wear.linkReplays key with
           | some r => if r.1 = w then r.2 + 1 else 1
           | none => 1
         ∃ t, exec (.linkReplay d l) s = .next t ∧ mget t.wear.linkReplays key = some (w, n)
          ∧ t.get (BT_LINK_STAT_REPLAYS d l) = min (s.get (BT_LINK_STAT_REPLAYS d l) + 1) 0xFFFF
          ∧ (n ≤ 32 → t.is (BT_LINK_STAT_DOWN d l) = false ∧ t.ts = s.ts) ∧ (32 < n → t.is (BT_LINK_STAT_DOWN d l) = true ∧ fails t)
          ∧ t = { s with regs := t.regs, log := t.log, ts := { s.ts with entries := t.ts.entries }, wear := { s.wear with linkReplays := mset s.wear.linkReplays key (w, n) }, bus := { s.bus with files := t.bus.files } }
          ∧ RegsBut ((farEnd d l).toList.map (fun e => BT_LINK_STAT_DOWN e.1 e.2) ++ [BT_LINK_STAT_DOWN d l, BT_LINK_STAT_REPLAYS d l]) [1, 21, 37, 53, 69] s t))

/-- O15: REFRESH, PATROL_SCRUB and ROW_MOVE_SWITCH act on rows; HEALTH_RECORD_WRITE writes the changes into the slot not in use (R57, R61, R87, R88). (R55, R59, R61, R87, R88, R176, R639) -/
def Obligations.ScrubMovesAndHealthRecord : Prop :=
  (∀ (k b off : Nat) (s : State), k < 4 → region b = .stack k off → scrubbed s b = true →
    s.get (BT_HBM_HEALTH_REMAP_USED k) + ((mget s.wear.moves k).getD []).length < remapEntries →
    let row := k * 2 ^ 40 + off / 32768 * 32 + off / 256 % 32
    let per := s.grid.now / (3960000000000 * max 1 (s.get (BT_HBM_CTRL_SCRUB_HOURS k)))
    let n := match mget s.wear.rowErrors row with
      | some c => if c.1 = per then c.2 + 1 else 1
      | none => 1
    exec (.refresh k) s = .next s
    ∧ exec (.patrolScrub b 0) s = .next s
    ∧ (∃ t, exec (.patrolScrub b 1) s = .next t
      ∧ t.get (BT_ECC_CNT_CORR k) = min (s.get (BT_ECC_CNT_CORR k) + 1) 0xFFFF
      ∧ mget t.wear.rowErrors row = some (per, n)
      ∧ (max 1 (s.get (BT_HBM_CTRL_ROW_THR k)) ≤ n →
          ∃ m ∈ (mget t.wear.moves k).getD [], m.page = off / 32768 ∧ m.pc = off / 256 % 32)
      ∧ t = { s with regs := t.regs, log := t.log, wear := t.wear, bus := { s.bus with files := t.bus.files } })
    ∧ (k * 0x900000000 + off / 64 * 64 ∉ lostBlocks s k → (lostBlocks s k).length < 256 → ∃ t, exec (.patrolScrub b 2) s = .next t
      ∧ lostBlocks t k = lostBlocks s k ++ [k * 0x900000000 + off / 64 * 64]
      ∧ t.get (BT_HBM_HEALTH_LOST_USED k) = (lostBlocks s k).length + 1
      ∧ t.get (BT_ECC_CNT_UNCORR k) = min (s.get (BT_ECC_CNT_UNCORR k) + 1) 0xFFFF
      ∧ (∃ m ∈ (mget t.wear.moves k).getD [], m.page = off / 32768 ∧ m.pc = off / 256 % 32)
      ∧ t = { s with regs := t.regs, log := t.log, wear := t.wear, bus := { s.bus with files := t.bus.files } })
    ∧ (∀ m r, mget s.wear.moves k = some (m :: r) → ∃ t, exec (.rowMoveSwitch k) s = .next t
      ∧ mget t.wear.moves k = some r ∧ t.get (BT_HBM_HEALTH_REMAP_USED k) = s.get (BT_HBM_HEALTH_REMAP_USED k) + 1
      ∧ mget t.wear.rowErrors (k * 2 ^ 40 + m.page * 32 + m.pc) = none
      ∧ t.wear.unrecorded = s.wear.unrecorded ++ [.remap k m.pc m.page]
      ∧ t = { s with regs := t.regs, log := t.log, wear := t.wear, bus := { s.bus with files := t.bus.files } }
      ∧ RegsBut [BT_HBM_HEALTH_REMAP_USED k] [1, 21, 37, 53, 69] s t))
  ∧ (∀ s : State,
    ((s.wear.unrecorded = [] ∨ bit (s.get EL_NET_STAT_PAIR_OK) 1 = false) → exec .healthRecordWrite s = .next s)
    ∧ (s.wear.unrecorded ≠ [] → bit (s.get EL_NET_STAT_PAIR_OK) 1 = true →
      let es := mergeHealth s.boot.health s.wear.unrecorded
      let slot : HealthSlot := ⟨s.boot.healthSeq + 1, es, true⟩
      ∃ t, exec .healthRecordWrite s = .next t
        ∧ t.boot.health = es ∧ t.boot.healthSeq = s.boot.healthSeq + 1 ∧ t.boot.healthSlotB = !s.boot.healthSlotB
        ∧ t.boot.flash = (if s.boot.healthSlotB then { s.boot.flash with healthA := some slot } else { s.boot.flash with healthB := some slot })
        ∧ t = { s with regs := t.regs, wear := { s.wear with unrecorded := [] }, boot := { s.boot with flash := t.boot.flash, health := es, healthSeq := s.boot.healthSeq + 1, healthSlotB := !s.boot.healthSlotB } }
        ∧ (∀ g n before after, s.wear.unrecorded = before ++ .engine g n :: after → (∀ m, .engine g m ∉ after) → t.get (TE_HEALTH_FAIL_COUNT g) = n % 4)
        ∧ (∀ f : Fld, (∀ g n, .engine g n ∈ s.wear.unrecorded → f.key ≠ (TE_HEALTH_FAIL_COUNT g).key) → t.get f = s.get f)))

/-- O16: TURNSTILE_ADMIT admits the oldest covered request, else a class B one; LATENCY_MISS reports one that waits past LAT_LIM (R334, R335, R344, R345). (R334, R335, R344, R345) -/
def Obligations.TurnstilesAdmitAndReportMisses : Prop :=
  (∀ (p : Nat) (as : List Arrived) (s : State), Instr.wellFormed (.turnstileAdmit p as) = true →
    let u := s.act (seq [forA as (arrive p), updTs (fun x => { x with arrivals := x.arrivals + 1 }), markHeld p])
    (∀ k, (tsEntry u p k).waiting.map (fun w => w.bytes) = (tsEntry s p k).waiting.map (fun w => w.bytes) ++ (as.filter (fun a => a.ticket == k)).map (fun a => a.bytes)
        ∧ (tsEntry u p k).level = (tsEntry s p k).level ∧ (tsEntry u p k).used = (tsEntry s p k).used)
    ∧ ∃ t, exec (.turnstileAdmit p as) s = .next t
      ∧ t = { s with ts := t.ts }
      ∧ (∀ k, classA u p = some k → ∃ w r, (tsEntry u p k).waiting = w :: r
          ∧ (rateNow s p k).1 ≠ 0 ∧ 11 * w.bytes ≤ (tsEntry u p k).level ∧ within u p k w.bytes = true
          ∧ (tsEntry t p k).waiting.map (fun v => (v.order, v.bytes)) = r.map (fun v => (v.order, v.bytes))
          ∧ (tsEntry t p k).level = (tsEntry u p k).level - 11 * w.bytes ∧ (tsEntry t p k).used = (tsEntry u p k).used + w.bytes
          ∧ (∀ j, j ≠ k → tsEntry t p j = tsEntry u p j) ∧ t.ts.lastB = s.ts.lastB
          ∧ ∀ j v r', j < 64 → (tsEntry u p j).waiting = v :: r' → (rateNow s p j).1 ≠ 0 → 11 * v.bytes ≤ (tsEntry u p j).level →
              within u p j v.bytes = true → w.order < v.order ∨ (w.order = v.order ∧ k ≤ j))
      ∧ (classA u p = none → ∀ k, classB u p = some k → ∃ w r, (tsEntry u p k).waiting = w :: r ∧ within u p k w.bytes = true
          ∧ (tsEntry t p k).waiting.map (fun v => (v.order, v.bytes)) = r.map (fun v => (v.order, v.bytes))
          ∧ (tsEntry t p k).level = (tsEntry u p k).level ∧ (tsEntry t p k).used = (tsEntry u p k).used + w.bytes
          ∧ (∀ j, j ≠ k → tsEntry t p j = tsEntry u p j) ∧ mget t.ts.lastB p = some k)
      ∧ (classA u p = none → classB u p = none → t.ts = { u.ts with capped := t.ts.capped }))
  ∧ (∀ (p k : Nat) (s : State), isPort p = true → k < 64 →
    let n := (portPage p).1
    let l := (portPage p).2
    (∀ w r c, (tsEntry s p k).waiting = w :: r → w.covered = some c → w.missed = false → (rateNow s p k).1 ≠ 0 → c + s.get (FW_GM_LAT_LAT_LIM n l) < s.grid.now →
      ∃ t, exec (.latencyMiss p k) s = .next t
        ∧ t.get (FW_GM_MISS_TKT n l) = setBit (s.get (FW_GM_MISS_TKT n l)) k % 2 ^ 64
        ∧ t.get (FW_GM_CNT_LAT_MISS n l) = min (s.get (FW_GM_CNT_LAT_MISS n l) + 1) 0xFFFF
        ∧ bit (t.get (INT_STAT (pageFW n))) 1 = true
        ∧ t.isl.wires = s.isl.wires ++ (if k < 8 then [(3, n)] else [])
        ∧ t = { s with regs := t.regs, ts := { s.ts with entries := mset s.ts.entries (64 * p + k) { tsEntry s p k with waiting := { w with missed := true } :: r } }, log := t.log, isl := { s.isl with wires := t.isl.wires }, bus := { s.bus with files := t.bus.files } }
        ∧ RegsBut [FW_GM_MISS_TKT n l, FW_GM_CNT_LAT_MISS n l, INT_STAT (pageFW n)] [1, 21, 37, 53, 69] s t)
    ∧ (((tsEntry s p k).waiting = [] ∨ (∃ w r, (tsEntry s p k).waiting = w :: r ∧ (w.covered = none ∨ w.missed = true)) ∨ (rateNow s p k).1 = 0
        ∨ (∃ w r c, (tsEntry s p k).waiting = w :: r ∧ w.covered = some c ∧ s.grid.now ≤ c + s.get (FW_GM_LAT_LAT_LIM n l)))
        → exec (.latencyMiss p k) s = .next s))

/-- O17: FW_TS_RATE_WRITE is accepted within the sums or when it lowers; HART_TICKET_WRITE below 8 needs the grant (R327, R339, R341). (R339, R341, R327) -/
def Obligations.RatesAndHartTickets : Prop :=
  (∀ (init tkt n l k data : Nat) (s : State), Instr.wellFormed (.fwTsRateWrite init tkt n l k data) = true →
    Reaches s init tkt 1 (pageAddr (pageFW n) (0x1000 + 16 * (64 * l + k))) 8 →
    let p := portOf n l
    let sums := sumWith (tsRate s p) k (field data 47 32) ≤ portPB p ∧ sumWith (fun j => if tsRate s p j = 0 then 0 else tsBurst s p j) k (if field data 47 32 = 0 then 0 else field data 31 0) ≤ portBurstLimit p
    let lowers := field data 47 32 ≤ tsRate s p k ∧ field data 31 0 ≤ tsBurst s p k
    ∃ t, exec (.fwTsRateWrite init tkt n l k data) s = .next t
      ∧ t = { s with regs := t.regs, ts := t.ts, log := t.log, bus := { s.bus with files := t.bus.files } }
      ∧ (k < 8 ∧ s.is (FW_CTRL_SC_LOCK n) = true → t.ts = s.ts ∧ t.is (ERRW_VALID (pageFW n)) = true ∧ RegsBut [] [pageFW n, 1, 21, 37, 53, 69] s t
          ∧ t.get (FW_TS_RATE_RATE n (64 * l + k)) = s.get (FW_TS_RATE_RATE n (64 * l + k)))
      ∧ (¬(k < 8 ∧ s.is (FW_CTRL_SC_LOCK n) = true) → ¬sums → ¬lowers → t.ts = s.ts ∧ bit (t.get (INT_STAT (pageFW n))) 3 = true
          ∧ t.is (ERRW_VALID (pageFW n)) = true ∧ t.get (FW_TS_RATE_RATE n (64 * l + k)) = s.get (FW_TS_RATE_RATE n (64 * l + k))
          ∧ t.get (FW_TS_RATE_BURST n (64 * l + k)) = s.get (FW_TS_RATE_BURST n (64 * l + k)))
      ∧ (¬(k < 8 ∧ s.is (FW_CTRL_SC_LOCK n) = true) → (sums ∨ lowers) → s.ts.planAt = some s.grid.now → t = s)
      ∧ (¬(k < 8 ∧ s.is (FW_CTRL_SC_LOCK n) = true) → (sums ∨ lowers) → s.ts.planAt ≠ some s.grid.now →
          t.get (FW_TS_RATE_RATE n (64 * l + k)) = field data 47 32 ∧ t.get (FW_TS_RATE_BURST n (64 * l + k)) = field data 31 0
          ∧ (∀ q j, tsEntry t q j = tsEntry s q j) ∧ rateNow t p k = rateNow s p k
          ∧ RegsBut [FW_TS_RATE_RATE n (64 * l + k), FW_TS_RATE_BURST n (64 * l + k)] [] s t))
  ∧ (∀ (h v : Nat) (s : State), Instr.wellFormed (.hartTicketWrite h v) = true →
    let allowed := bit (if h < 8 then s.get FW_TKT_ALLOW_HARTS_0_7 else s.get FW_TKT_ALLOW_HARTS_8_15) (8 * (h % 8) + v % 64)
    ((8 ≤ v % 64 ∨ allowed = true) → exec (.hartTicketWrite h v) s = .next { s with bus := { s.bus with hartTkt := mset s.bus.hartTkt h (v % 64) } })
    ∧ (v % 64 < 8 → allowed = false → ∃ t, exec (.hartTicketWrite h v) s = .next t
        ∧ t.bus.hartTkt = s.bus.hartTkt ∧ bit (t.get (INT_STAT 10)) 2 = true
        ∧ t = { s with regs := t.regs, log := t.log, bus := { s.bus with files := t.bus.files } }
        ∧ RegsBut [INT_STAT 10] [1, 21, 37, 53, 69] s t))

/-- O18: FW_WINDOW_WRITE changes the table as written, FW_WINDOW_SYNC puts it in force; LOCK and the island's windows hold (R350 to R352). (R351) -/
def Obligations.WindowsChangeTogetherAndBelow256ByTheIsland : Prop :=
  ∀ (init tkt w k data : Nat) (s : State), Instr.wellFormed (.fwWindowWrite init tkt w k data) = true →
    exec .fwWindowSync s = .next { s with fw := { s.fw with inForce := s.fw.table }, regs := putFld s.regs FW_STATUS_SYNC_PEND 0 }
    ∧ (Reaches s init tkt 1 (pageAddr 10 (0x4000 + 32 * w + 8 * k)) 8 → ∃ t, exec (.fwWindowWrite init tkt w k data) s = .next t
      ∧ t = { s with regs := t.regs, fw := { s.fw with table := t.fw.table }, log := t.log, bus := { s.bus with files := t.bus.files } }
      ∧ (∀ v, v ≠ w → t.window v = s.window v)
      ∧ ((bit (s.window w).w0 62 = true ∨ (w < 256 ∧ isIsland init = false)) → t.fw = s.fw ∧ t.is (ERRW_VALID 10) = true
          ∧ t.get FW_STATUS_SYNC_PEND = s.get FW_STATUS_SYNC_PEND)
      ∧ (bit (s.window w).w0 62 = false → (256 ≤ w ∨ isIsland init = true) → t.get FW_STATUS_SYNC_PEND = 1
        ∧ (k = 0 → bit (t.window w).w0 63 = bit data 63 ∧ field (t.window w).w0 47 12 = field data 47 12 ∧ field (t.window w).w0 3 0 = field data 3 0
            ∧ bit (t.window w).w0 62 = (isIsland init && bit data 62))
        ∧ (k = 1 → field (t.window w).w1 47 12 = field data 47 12)
        ∧ (k = 2 → field (t.window w).w2 27 16 = field data 27 16 ∧ field (t.window w).w2 11 0 = field data 11 0)
        ∧ (k = 3 → ∀ b, bit (t.window w).w3 b = (bit data b && (w < 256 || 8 ≤ b)))))

/-- O19: A FABRIC_REQUEST that a checker denies is not performed, is answered FW_DENY and recorded; under tickets 0 to 7 it raises doubt (R354 to R356). (R354, R355, R356) -/
def Obligations.DeniedRequestsHaveNoEffect : Prop :=
  ∀ (init tkt acc g a n : Nat) (data : List Byte) (ecc : Ecc) (s : State), Instr.wellFormed (.fabricRequest init tkt ⟨acc, g⟩ a n data ecc) = true →
    let k := carried s init tkt
    let c := checkerOf init a
    (init < 36 → serving s init = none → exec (.fabricRequest init tkt ⟨acc, g⟩ a n data ecc) s = .next s)
    ∧ ((init < 36 → (serving s init).isSome = true) → (checkRequest s init k acc ⟨[], []⟩ a n).1 = stFW_DENY →
    ∃ t, exec (.fabricRequest init tkt ⟨acc, g⟩ a n data ecc) s = .next t
      ∧ t.bus.resp = some ⟨init, g, stFW_DENY, []⟩
      ∧ t.is (FW_VIOL_INFO_VALID c) = true ∧ t.get (FW_VIOL_INFO_COUNT c) = min (s.get (FW_VIOL_INFO_COUNT c) + 1) 0xFFFF
      ∧ (s.get (FW_VIOL_INFO_VALID c) = 0 → t.get (FW_VIOL_INFO_TICKET c) = k % 64 ∧ t.get (FW_VIOL_INFO_INIT c) = init
          ∧ t.get (FW_VIOL_INFO_ACC c) = acc ∧ t.get (FW_VIOL_ADDR_ADDR c) = a)
      ∧ t.isl.wires = s.isl.wires ++ (if k < 8 then [(4, c)] else [])
      ∧ t = { s with regs := t.regs, log := t.log, isl := { s.isl with wires := t.isl.wires }, bus := { s.bus with files := t.bus.files, resp := t.bus.resp } }
      ∧ RegsBut [] [pageFW c, 1, 21, 37, 53, 69] s t)

/-- O20: A FABRIC_REQUEST or YELILO_REQUEST to memory that passes its checks reads or writes exactly its bytes (R43, R330, R346). (R43, R330, R346) -/
def Obligations.RequestsReadAndWriteStorage : Prop :=
  ∀ (init tkt acc g a n p : Nat) (data : List Byte) (ecc : Ecc) (s : State), Instr.wellFormed (.fabricRequest init tkt ⟨acc, g⟩ a n data ecc) = true →
    (init < 36 → (serving s init).isSome = true) → ecc.corr = [] → (∀ i, i < n → plainAddr (a + i) = true) →
    let k := carried s init tkt
    let stored (s t : State) : Prop := (∀ i, i < n → t.mem.byte (phys s (a + i)) = data.getD i 0#8)
        ∧ (∀ x, (∀ i, i < n → x ≠ phys s (a + i)) → t.mem.byte x = s.mem.byte x)
        ∧ RegsBut [BT_HBM_HEALTH_LOST_USED 0, BT_HBM_HEALTH_LOST_USED 1, BT_HBM_HEALTH_LOST_USED 2, BT_HBM_HEALTH_LOST_USED 3] [] s t
    let bytes := (List.range n).map fun i => s.mem.byte (phys s (a + i))
    (isHart init = false ∨ cacheable a = false → (checkRequest s init k acc ecc a n).1 = 0 → ∃ t, exec (.fabricRequest init tkt ⟨acc, g⟩ a n data ecc) s = .next t
      ∧ t.bus.resp = some ⟨init, g, 0, if acc = 1 then [] else bytes⟩
      ∧ ((acc = 0 ∨ acc = 3) → t = { s with ts := t.ts, bus := { s.bus with resp := t.bus.resp } })
      ∧ ((acc = 1 ∨ acc = 2) → stored s t
        ∧ t = { s with mem := t.mem, regs := t.regs, ts := t.ts, wear := t.wear, hot := t.hot, tt := t.tt, fresh := t.fresh, bus := { s.bus with resp := t.bus.resp } }))
    ∧ (p < 32 → (portTo s p).isSome = true → a < 2 ^ 40 → (checkRequest s (0xC00 + p) tkt acc ecc a n).1 = 0 → ∃ t, exec (.yeliloRequest p tkt ⟨acc, g⟩ a n data ecc) s = .next t
      ∧ t.bus.resp = some ⟨0xC00 + p, g, 0, if acc = 1 then [] else bytes⟩
      ∧ ((acc = 0 ∨ acc = 3) → t = { s with ts := t.ts, bus := { s.bus with resp := t.bus.resp } })
      ∧ ((acc = 1 ∨ acc = 2) → stored s t
        ∧ t = { s with mem := t.mem, regs := t.regs, ts := t.ts, wear := t.wear, hot := t.hot, tt := t.tt, fresh := t.fresh, bus := { s.bus with resp := t.bus.resp } }))

/-- O21: A hart's request to a stack is answered by the caches: a write stays in a line with its hart and ticket, a read sees it (R329). (R329, R346, 08 Tickets, turnstiles and firewalls) -/
def Obligations.HartsReadAndWriteTheirCaches : Prop :=
  ∀ (init tkt acc g a n : Nat) (data : List Byte) (ecc : Ecc) (s : State), Instr.wellFormed (.fabricRequest init tkt ⟨acc, g⟩ a n data ecc) = true →
    isHart init = true → (∀ i, i < n → cacheable (a + i) = true) → ecc.corr = [] →
    let k := carried s init tkt
    (checkRequest s init k acc ⟨[], []⟩ a n).1 ≠ stADDR_FAULT → (checkRequest s init k acc ⟨[], []⟩ a n).1 ≠ stFW_DENY →
    (fetchLines s init k (writes acc) ecc a n).1 = 0 → heldErrors s (writes acc) ecc.uncorr a n = [] →
    ∃ t, exec (.fabricRequest init tkt ⟨acc, g⟩ a n data ecc) s = .next t
      ∧ (acc ≠ 1 → t.bus.resp = some ⟨init, g, 0, (List.range n).map fun i => match s.line ((a + i) / 64) with
          | some l => l.data.getD ((a + i) % 64) 0#8
          | none => s.mem.byte (phys s (a + i))⟩)
      ∧ ((acc = 0 ∨ acc = 3) → t = { s with ts := t.ts, bus := { s.bus with resp := t.bus.resp } })
      ∧ ((acc = 1 ∨ acc = 2) → (∀ i, i < n → aliasLines s ((a + i) / 64) = []) →
        t = { s with ts := t.ts, bus := { s.bus with resp := t.bus.resp, lines := t.bus.lines } }
        ∧ (∀ i, i < n → ∃ l, t.line ((a + i) / 64) = some l ∧ l.hart = init ∧ l.ticket = k ∧ l.data.getD ((a + i) % 64) 0#8 = data.getD i 0#8)
        ∧ (∀ b, (∀ i, i < n → b ≠ (a + i) / 64) → t.line b = s.line b))

/-- O22: Yelilo ports: enabling trains, training ends in a width, failed codewords and lost lock take the link down, replays are sent again (R709, R712). (R709, R712) -/
def Obligations.YeliloPortsTrainAndReplay : Prop :=
  ∀ (init p trained peer n : Nat) (s : State), p < 4 → isInit init = true → trained < 256 → peer < 32 →
    (Reaches s init (ticketOf s init) 1 (pageAddr (pageYL p) 0x10) 8 →
      (s.is (YL_CTRL_EN p) = true → exec (.yeliloEnable init p) s = .next s)
      ∧ (s.is (YL_CTRL_EN p) = false → ∃ t, exec (.yeliloEnable init p) s = .next t ∧ t.get (YL_CTRL_EN p) = 1
        ∧ t = { s with regs := t.regs, yl := mset s.yl p { s.port p with training := true } } ∧ RegsBut [YL_CTRL_EN p] [] s t))
    ∧ (s.is (YL_CTRL_EN p) = true → (s.port p).training = true → ∃ t, exec (.yeliloLinkUp p trained peer) s = .next t
        ∧ t = { s with regs := t.regs, yl := mset s.yl p { s.port p with training := false } }
        ∧ (2 ^ s.get (YL_CTRL_LANES_MIN p) ≤ trainedWidth trained → t.get (YL_STATUS_UP p) = 1 ∧ t.get (YL_STATUS_WIDTH p) = trainedWidth trained
            ∧ t.get (YL_STATUS_PEER p) = peer ∧ RegsBut [YL_STATUS_UP p, YL_STATUS_WIDTH p, YL_STATUS_PEER p] [] s t)
        ∧ (trainedWidth trained < 2 ^ s.get (YL_CTRL_LANES_MIN p) → t.regs = s.regs))
    ∧ (s.is (YL_STATUS_UP p) = true →
      (∃ t, exec (.yeliloLossOfLock p) s = .next t ∧ t.get (YL_STATUS_UP p) = 0 ∧ t.get (YL_STATUS_WIDTH p) = 0
        ∧ t = { s with regs := t.regs, yl := mset s.yl p { s.port p with window := 0, fails := 0, retry := [] } }
        ∧ RegsBut [YL_STATUS_UP p, YL_STATUS_WIDTH p] [] s t)
      ∧ (exec (.yeliloReplayRequest p n) s = .next { s with yl := mset s.yl p { s.port p with retry := (s.port p).retry.drop n }, bus := { s.bus with sent := s.bus.sent ++ ((s.port p).retry.drop n).map fun f => ⟨1, s.get (YL_STATUS_PEER p), f⟩ } })
      ∧ (let w := s.grid.now / 11000
         let k := if (s.port p).window = w then (s.port p).fails + 1 else 1
         ∃ t, exec (.yeliloCodewordFail p) s = .next t
          ∧ t.get (YL_FEC_CNT_UNCORR p) = min (s.get (YL_FEC_CNT_UNCORR p) + 1) 0xFFFFFFFF
          ∧ (k ≤ 32 → t = { s with regs := t.regs, yl := mset s.yl p { s.port p with window := w, fails := k }, bus := { s.bus with sent := s.bus.sent ++ [⟨9, p, []⟩] } }
              ∧ RegsBut [YL_FEC_CNT_UNCORR p] [] s t)
          ∧ (32 < k → t.get (YL_STATUS_UP p) = 0 ∧ t.get (YL_STATUS_WIDTH p) = 0 ∧ (t.port p).retry = []
              ∧ t = { s with regs := t.regs, yl := t.yl } ∧ RegsBut [YL_FEC_CNT_UNCORR p, YL_STATUS_UP p, YL_STATUS_WIDTH p] [] s t)))
    ∧ (s.is (YL_STATUS_UP p) = false → exec (.yeliloLossOfLock p) s = .next s ∧ exec (.yeliloCodewordFail p) s = .next s ∧ exec (.yeliloReplayRequest p n) s = .next s)

/-- O23: INT_FORCE sets the page's sources; INT_ROUTE is the island's where it routes to the island; a request sends its identity (R670 to R673, R676). (R670, R676) -/
def Obligations.InterruptsForceRouteAndSend : Prop :=
  ∀ (init tkt p data route : Nat) (s : State), isInit init = true → tkt < 64 → isRegPage p = true → data < 2 ^ 32 → route < 2 ^ 64 →
    (Reaches s init tkt 1 (pageAddr p 0x28) 4 → ∃ t, exec (.intForceWrite init tkt p data) s = .next t
      ∧ t.get (INT_STAT p) = Nat.lor (s.get (INT_STAT p)) (Nat.land data (intMask p)) % 2 ^ 32
      ∧ t = { s with regs := t.regs, bus := { s.bus with files := t.bus.files } } ∧ RegsBut [INT_STAT p] [] s t
      ∧ (∀ file, request t p ≠ 0 → s.get (INT_ROUTE_DEST p) % 2 = 1 → routeFile s p = some file → s.get (INT_ROUTE_IDENT p) ∈ (mget t.bus.files file).getD [])
      ∧ ((request t p = 0 ∨ s.get (INT_ROUTE_DEST p) % 2 = 0 ∨ s.get (INT_ROUTE_IDENT p) = 0) → t.bus = s.bus))
    ∧ (Reaches s init tkt 1 (pageAddr p 0x30) 8 → ∃ t, exec (.intRouteWrite init tkt p route) s = .next t
      ∧ t = { s with regs := t.regs, log := t.log, bus := { s.bus with files := t.bus.files } } ∧ RegsBut [] [p, 1, 21, 37, 53, 69] s t
      ∧ (isIsland init = false → 2 ≤ field route 57 56 → t.is (ERRW_VALID p) = true
          ∧ (∀ f ∈ [INT_ROUTE_LOCK p, INT_ROUTE_DEST p, INT_ROUTE_LEVEL p, INT_ROUTE_HART p, INT_ROUTE_GUEST p, INT_ROUTE_IDENT p], t.get f = s.get f))
      ∧ ((isIsland init = true ∨ field route 57 56 < 2) → s.is (INT_ROUTE_LOCK p) = true → t.is (INT_ROUTE_LOCK p) = true
          ∧ (∀ f ∈ [INT_ROUTE_DEST p, INT_ROUTE_LEVEL p, INT_ROUTE_HART p, INT_ROUTE_GUEST p, INT_ROUTE_IDENT p], t.get f = s.get f))
      ∧ ((isIsland init = true ∨ field route 57 56 < 2) → s.is (INT_ROUTE_LOCK p) = false →
          t.get (INT_ROUTE_DEST p) = field route 57 56 ∧ t.get (INT_ROUTE_LEVEL p) = field route 53 52 ∧ t.get (INT_ROUTE_HART p) = field route 51 48
          ∧ t.get (INT_ROUTE_GUEST p) = field route 47 44 ∧ t.get (INT_ROUTE_IDENT p) = field route 10 0
          ∧ t.get (INT_ROUTE_LOCK p) = ofBool (isIsland init && bit route 63)))

/-- O24: REGISTER_WRITE: every field of a register without commands takes the write by its access code, or refuses it (R8 to R10, R662, R715). (18 The register map and interrupts, R8, R9, R10, R715) -/
def Obligations.RegisterWritesFollowAccessCodes : Prop :=
  ∀ (init tkt a w d o k : Nat) (fs : List FieldRow) (s : State), Instr.wellFormed (.registerWrite init tkt a w d) = true →
    Reaches s init tkt 1 a w → regAccess (offOf a) w = true → 99 ≤ pageOf a → ¬(176 ≤ pageOf a ∧ pageOf a < 180) →
    reachOf (allRows (pageOf a)) (offOf a) w = .whole o → 0x100 ≤ o → findReg (allRows (pageOf a)) o = some (k, fs) →
    fs.Pairwise (fun f g => f.lo ≠ g.lo) →
    ∃ t, exec (.registerWrite init tkt a w d) s = .next t
      ∧ t = { s with regs := t.regs, log := t.log, bus := { s.bus with files := t.bus.files, resp := some ⟨init, 0, 0, []⟩ } }
      ∧ (∀ f ∈ fs, f.own = 0 → refusals s init (pageOf a) o f (field d f.hi f.lo) = [] → f.acc ≠ .ro → f.acc ≠ .wo →
          t.get (rowFld (pageOf a) o f) = written f.acc (s.get (rowFld (pageOf a) o f)) (field d f.hi f.lo) % 2 ^ (f.hi + 1 - f.lo))
      ∧ (∀ f ∈ fs, (f.own ≠ 0 ∨ refusals s init (pageOf a) o f (field d f.hi f.lo) ≠ [] ∨ f.acc = .ro ∨ f.acc = .wo) →
          t.get (rowFld (pageOf a) o f) = s.get (rowFld (pageOf a) o f))
      ∧ (∀ f : Fld, f.lsb < 64 → f.off ≠ pageOf a * 0x10000 + o → ¬(f.off / 0x10000 = pageOf a ∧ f.off % 0x10000 < 0x100) →
          f.off / 0x10000 ∉ [1, 21, 37, 53, 69] → t.get f = s.get f)

/-- O25: Resets, plan commands, state requests, TT_CMD and comparator tests from any other initiator are ORIGIN events and nothing else (R650, R715). (R650, R715, 18 The register map and interrupts) -/
def Obligations.OnlyTheIslandCommandsThese : Prop :=
  ∀ (init tkt d g k r n a : Nat) (ecc : Ecc) (s : State), isInit init = true → isIsland init = false → tkt < 64 → d < 4 → g < 36 →
    r < 4 → n < 64 → a < 128 → k < 4 →
    (∀ p off data, off < 0x10000 → ∃ t, s.act (errWindow p 3 init tkt off data true) = t
      ∧ t = { s with regs := t.regs, log := t.log, bus := { s.bus with files := t.bus.files } } ∧ t.is (ERRW_VALID p) = true
      ∧ t.get (ERRW_CNT p) = min (s.get (ERRW_CNT p) + 1) 0xFFFF ∧ bit (t.get (INT_STAT p)) 31 = (s.get (ERRW_VALID p) == 0 || bit (s.get (INT_STAT p)) 31)
      ∧ (s.get (ERRW_VALID p) = 0 → t.get (ERRW_KIND p) = 3 ∧ t.get (ERRW_INIT p) = init ∧ t.get (ERRW_TICKET p) = carried s init tkt % 64 ∧ t.get (ERRW_OFFSET p) = off
          ∧ t.get (ERRW_DATA p) = data % 2 ^ 64)
      ∧ RegsBut [] [p, 1, 21, 37, 53, 69] s t)
    ∧ (Reaches s init tkt 1 (pageAddr 0 0x100) 8 →
        exec (.resetWarm init tkt) s = .next (s.act (errWindow 0 3 init tkt 0x100 1 true))
        ∧ exec (.resetDie init tkt d) s = .next (s.act (errWindow 0 3 init tkt 0x100 (2 ^ (8 + d)) true))
        ∧ exec (.resetEng init tkt g) s = .next (s.act (errWindow 0 3 init tkt 0x100 (2 ^ (28 + g)) true)))
    ∧ (Reaches s init tkt 1 (pageAddr (pageTE g) 0x010) 8 → exec (.teSigTest init tkt g) s = .next (s.act (errWindow (pageTE g) 3 init tkt 0x010 2 true)))
    ∧ (Reaches s init tkt 1 (pageAddr (pageKV d) 0x010) 8 → exec (.kvSigTest init tkt d) s = .next (s.act (errWindow (pageKV d) 3 init tkt 0x010 2 true)))
    ∧ (Reaches s init tkt 1 (pageAddr pageRM 0x108) 8 →
        exec (.stage init tkt) s = .next (s.act (errWindow pageRM 3 init tkt 0x108 1 true))
        ∧ exec (.activate init tkt) s = .next (s.act (errWindow pageRM 3 init tkt 0x108 2 true))
        ∧ exec (.stop init tkt) s = .next (s.act (errWindow pageRM 3 init tkt 0x108 3 true))
        ∧ exec (.discard init tkt) s = .next (s.act (errWindow pageRM 3 init tkt 0x108 4 true)))
    ∧ (Reaches s init tkt 1 (pageAddr pagePW 0x100) 8 →
        exec (if k = 0 then .stateReqA0 init tkt else if k = 1 then .stateReqP1 init tkt else if k = 2 then .stateReqP2 init tkt else .stateReqP3 init tkt) s
          = .next (s.act (errWindow pagePW 3 init tkt 0x100 k true)))
    ∧ (Reaches s init tkt 1 (pageAddr pageTT 0x180) 8 →
        exec (.enum init tkt r) s = .next (s.act (errWindow pageTT 3 init tkt 0x180 (1 * 2 ^ 28 + r * 2 ^ 24) true))
        ∧ exec (.read init tkt r n a) s = .next (s.act (errWindow pageTT 3 init tkt 0x180 (2 * 2 ^ 28 + r * 2 ^ 24 + n * 2 ^ 16 + a) true))
        ∧ exec (.config init tkt a r n ecc) s = .next (s.act (errWindow pageTT 3 init tkt 0x180 (3 * 2 ^ 28 + r * 2 ^ 24 + n * 2 ^ 16 + a) true)))

/-- O26: PORST_N loses every memory, resets every register, latches START, forgets key and nonce, and keeps the flash (R14, R540, Table 17-8). (R540, 17 Boot, images and debug) -/
def Obligations.PowerOnKeepsTheFlashAlone : Prop :=
  ∀ (e : BootEnv) (s : State), ∃ t, exec (.porstN e) s = .next t
    ∧ (∀ f : Fld, t.get f = f.reset)
    ∧ (∀ a, a < 2 ^ 48 → t.mem.byte a = Config.freeByte s.fresh a)
    ∧ t.doubt.bits = 2 ^ 13 ∧ t.doubt.firstSrc = 13 ∧ t.doubt.firstOrigin = 5
    ∧ t.plan = State.reset.plan ∧ t.rm = State.reset.rm ∧ t.fw = State.reset.fw ∧ t.ts = State.reset.ts ∧ t.tt = State.reset.tt
    ∧ t.silicon = { s.silicon with keyStore := none } ∧ t.dbg = ⟨0, 0, e.nonce⟩
    ∧ t.time = State.reset.time ∧ t.grid = State.reset.grid ∧ t.isl = State.reset.isl ∧ t.pw = State.reset.pw
    ∧ t.boot.flash = e.flash.getD s.boot.flash ∧ t.boot.step = 1 ∧ t.boot.locked = false
    ∧ t.bus.sent = s.bus.sent ∧ t.pending = s.pending

/-- O27: A warm reset restores the WR fields, drops plans, queues and jobs, and keeps HBM, doubt, time, key and failed engines (R651, R652, Table 17-8). (R651, R652, R650, 17 Boot, images and debug) -/
def Obligations.WarmResetKeepsWhatTable178Keeps : Prop :=
  ∀ (init tkt : Nat) (s : State), isInit init = true → tkt < 64 →
    let lo := s.act (seq [updIsl fun i => { i with sto := false }, latchOwn 14])
    let done (cause : Fld) (x t : State) : Prop :=
      let u := x.act (warmEffect cause)
      t = (loadWindows u).act bootHubPower
      ∧ (∀ f : Fld, restores evWR f.key = true → f.key / 0x400000 < 256 → (∀ e, f.key ≠ (EL_CAR_RUNNING e).key) →
          f.key ∉ [TT_STATUS_OWNER_ISL.key, EL_NET_STAT_ARMED.key, EL_NET_STAT_BUDGET_ERR.key, cause.key, BT_BOOT_STAT_PHASE.key] → u.get f = f.reset)
      ∧ u.plan = State.reset.plan ∧ u.rm = State.reset.rm ∧ u.fu = State.reset.fu ∧ u.ts = State.reset.ts ∧ u.hot = { State.reset.hot with spoiled := u.hot.spoiled } ∧ u.bus.staging = []
      ∧ u.get cause = 1 ∧ u.boot.step = 5 ∧ u.boot.flash = x.boot.flash
      ∧ (u.time.sec, u.time.ns, u.time.frac) = (x.time.sec, x.time.ns, x.time.frac) ∧ u.doubt = x.doubt
      ∧ u.silicon = x.silicon ∧ u.dbg = x.dbg ∧ (x.hot.entries = [] → u.eng.failedEng = x.eng.failedEng ∧ u.eng.failedKv = x.eng.failedKv ∧ u.log = x.log)
      ∧ (busyUnits x = [] → x.hot.entries = [] → ∀ a, (a < 0x2400000000 ∨ 0xE400000000 ≤ a) → u.mem.byte a = x.mem.byte a)
    let now := ¬(s.boot.kind = 1 ∨ s.boot.kind = 2 ∨ s.get BT_BOOT_STAT_PHASE < 3)
    (lo.isl.sto = false ∧ bit lo.doubt.bits 14 = true)
    ∧ (¬now → exec .wrstN s = .next lo)
    ∧ (now → ∃ t, exec .wrstN s = .next t ∧ done BT_RST_CAUSE_WR_PIN lo t)
    ∧ (isIsland init = true → s.someRun = false → (¬now → exec (.resetWarm init tkt) s = .next s)
        ∧ (now → ∃ t, exec (.resetWarm init tkt) s = .next t ∧ done BT_RST_CAUSE_WR_SW s t))
    ∧ (isIsland init = true → s.someRun = true → Reaches s init tkt 1 (pageAddr 0 0x100) 8 →
        exec (.resetWarm init tkt) s = .next (s.act (errWindow 0 2 init tkt 0x100 1 true)))

/-- O28: RESET_DIE loses one die's SRAMs and brings it up again; RESET_ENG ends the engine's jobs and keeps its position (R63, R178, R653). (R178, R652, R653) -/
def Obligations.DieAndEngineResetsStayLocal : Prop :=
  ∀ (init tkt d g : Nat) (s : State), isIsland init = true → tkt < 64 → d < 4 → g < 36 → Reaches s init tkt 1 (pageAddr 0 0x100) 8 →
    ((s.boot.kind = 1 ∨ s.boot.kind = 2) → exec (.resetDie init tkt d) s = .next s ∧ exec (.resetEng init tkt g) s = .next s)
    ∧ (s.boot.kind ≠ 1 → s.boot.kind ≠ 2 → s.pw.transition = none →
      (dieOff s d = false → (∀ u, u < 104 → unitDie u = d → (s.unit u).running = none ∧ (s.unit u).suspended = none) →
        ∃ t, exec (.resetDie init tkt d) s = .next t
          ∧ MemBut [(0xE000000000 + d * 0x100000000, 9 * 0x400000), (0xE004000000 + d * 0x100000000, 0x3000000)] s t
          ∧ mget t.wear.lost d = none ∧ mget t.wear.moves d = none ∧ bit t.boot.resetRunning d = false
          ∧ (∀ e, e < 4 → e ≠ d → t.is (BT_LINK_STAT_DOWN e (linkIndex e d)) = false)
          ∧ t.doubt = s.doubt ∧ t.time = s.time ∧ t.grid = s.grid ∧ t.rm = s.rm ∧ t.hot = s.hot ∧ t.fu = s.fu ∧ t.tt = s.tt ∧ t.fw = s.fw)
      ∧ (s.get (TE_STATUS_STATE g) ≠ 1 → ∃ t, exec (.resetEng init tkt g) s = .next t
          ∧ t = { s with regs := t.regs, eng := { s.eng with sigTest := t.eng.sigTest }, isl := { s.isl with awaiting := t.isl.awaiting } }
          ∧ g ∉ t.eng.sigTest ∧ 55 + g ∉ t.isl.awaiting
          ∧ (∀ f : Fld, f.key ≠ (EL_CAR_RUNNING (55 + g)).key → ¬(f.key / 0x400000 = pageTE g ∧ restores evENG f.key = true) → t.get f = s.get f)
          ∧ (∀ f : Fld, f.key / 0x400000 = pageTE g → restores evENG f.key = true → t.get f = f.reset)))

/-- O29: PLL_LOCK carries boot on: no secret or no valid island image stops it, else the island starts and asks for hub power (R633, R638, R645). (R633, R636, R638, R645) -/
def Obligations.BootStartsFromTheIsland : Prop :=
  ∀ s : State,
    (s.boot.step ≠ 1 → exec .pllLock s = .next s)
    ∧ (s.boot.step = 1 → s.boot.env.secret = none → ∃ t, exec .pllLock s = .next t
        ∧ bit (t.get BT_BOOT_STAT_BOOT_ERR) 0 = true ∧ t.boot.step = 0 ∧ t = { s with regs := t.regs, boot := { s.boot with step := 0, kind := 0 } })
    ∧ (∀ key, s.boot.step = 1 → s.boot.env.secret = some key →
        let x : State := { s with silicon := { s.silicon with keyStore := some key }, boot := { s.boot with flash := installUpdate { s with silicon := { s.silicon with keyStore := some key } } } }
        (islandImage x = none → ∃ t, exec .pllLock s = .next t ∧ bit (t.get BT_BOOT_STAT_BOOT_ERR) 1 = true ∧ t.boot.step = 0
          ∧ t = { x with regs := t.regs, boot := { x.boot with step := 0, kind := 0 } })
        ∧ (∀ i b, islandImage x = some (i, b) → 4 ∉ s.pw.good → ∃ t, exec .pllLock s = .next t
          ∧ t.get EL_NET_STAT_PAIR_OK = 3 ∧ 4 ∈ t.pw.enables ∧ t.boot.step = 5 ∧ bit (t.get BT_BOOT_STAT_SLOT_B) 1 = b
          ∧ (∀ c v, bootCfg x = some (c, v) → t.boot.cfg = some c.2 ∧ t.fw = ⟨cfgWindows (some c.2), cfgWindows (some c.2)⟩ ∧ t.get BT_BOOT_STAT_PHASE = 4
              ∧ t.dbg.levels = (if c.2.lc = 0 then 3 else 0))
          ∧ (bootCfg x = none → bit (t.get BT_BOOT_STAT_BOOT_ERR) 2 = true ∧ t.boot.cfg = s.boot.cfg ∧ t.fw = s.fw)
          ∧ t.plan = s.plan ∧ t.rm = s.rm ∧ t.time = s.time ∧ t.doubt = s.doubt ∧ t.silicon = x.silicon))

/-- O30: PWRGD_LOSS on an enabled rail asserts the POWER wire and stops what waits for it; PWRGD_ASSERT lets it go on (R594, R595). (R594, R595, 17 Boot, images and debug) -/
def Obligations.PowerGoodInputsAreWatched : Prop :=
  ∀ (x : Nat) (s : State), x < 6 →
    (x ∉ s.pw.enables → exec (.pwrgdLoss x) s = .next { s with pw := { s.pw with good := s.pw.good.filter fun y => y != x } }
      ∧ exec (.pwrgdAssert x) s = .next { s with pw := { s.pw with good := if s.pw.good.contains x then s.pw.good else s.pw.good ++ [x] } })
    ∧ (x ∈ s.pw.enables → s.boot.step ≠ 9 → ∃ t, exec (.pwrgdLoss x) s = .next t
        ∧ t.isl.wires = s.isl.wires ++ [(9, railDie x)] ∧ x ∉ t.pw.good
        ∧ (s.boot.step = 5 → x = 4 → bit (t.get BT_BOOT_STAT_BOOT_ERR) 4 = true ∧ t.boot.step = 0)
        ∧ (∀ n k, s.pw.transition = some (n, k) → n < s.get PW_STATUS_STATE → t.get PW_STATE_STAT_RESULT = 4)
        ∧ t = { s with regs := t.regs, isl := { s.isl with wires := t.isl.wires }, pw := { s.pw with good := s.pw.good.filter fun y => y != x }, boot := { s.boot with step := t.boot.step, kind := t.boot.kind } }
        ∧ RegsBut [BT_BOOT_STAT_BOOT_ERR, PW_STATE_STAT_RESULT] [] s t
        ∧ ((s.boot.step ≠ 5 ∨ x ≠ 4) → s.pw.transition = none → t.regs = s.regs ∧ t.boot = s.boot))
    ∧ ((s.boot.step ≠ 5 ∧ s.boot.step ≠ 9) ∨ (s.boot.step = 9 ∧ ∃ e ∈ s.pw.enables, e ≠ x ∧ e ∉ s.pw.good) →
        exec (.pwrgdAssert x) s = .next { s with pw := { s.pw with good := if s.pw.good.contains x then s.pw.good else s.pw.good ++ [x] } })

/-- O31: STATE_REQ of A0, P1, P2, P3 by the island: accepted, or refused with BUSY, JOBS or PLAN and STATE_REFUSED (R621, R622). (R621, R622, R625) -/
def Obligations.StateRequestsAreJudged : Prop :=
  ∀ (init tkt k : Nat) (s : State), isIsland init = true → tkt < 64 → k < 4 → Reaches s init tkt 1 (pageAddr pagePW 0x100) 8 →
    let code := if s.pw.transition.isSome then 1 else if 1 ≤ k ∧ jobsHeld s = true then 2 else if k = 3 ∧ (s.planOn || s.someRun) = true then 3 else 0
    ∃ t, exec (if k = 0 then .stateReqA0 init tkt else if k = 1 then .stateReqP1 init tkt else if k = 2 then .stateReqP2 init tkt else .stateReqP3 init tkt) s = .next t
      ∧ t.get PW_STATE_STAT_LAST_TARGET = k
      ∧ (code ≠ 0 → t.get PW_STATE_STAT_RESULT = code ∧ bit (t.get (INT_STAT pagePW)) 2 = true
          ∧ t = { s with regs := t.regs, bus := { s.bus with files := t.bus.files } }
          ∧ RegsBut [PW_STATE_STAT_LAST_TARGET, PW_STATE_STAT_RESULT, INT_STAT pagePW] [] s t)
      ∧ (code = 0 → s.get PW_STATUS_STATE = k → t.get PW_STATE_STAT_RESULT = 0 ∧ t = { s with regs := t.regs }
          ∧ RegsBut [PW_STATE_STAT_LAST_TARGET, PW_STATE_STAT_RESULT] [] s t)
      ∧ (code = 0 → s.get PW_STATUS_STATE < k → (s.get PW_STATUS_STATE = 0 → ∀ c x, mget s.hot.entries c = some x → x.modified = false) →
          t.get PW_STATE_STAT_RESULT = 0 ∧ t.get PW_STATUS_TRANS = 1
          ∧ t.pw = { s.pw with transition := some (s.get PW_STATUS_STATE + 1, k) } ∧ t.get PW_STATUS_STATE = s.get PW_STATUS_STATE
          ∧ (s.get PW_STATUS_STATE = 0 → t.plan = { s.plan with exempt := [0, 1, 2, 3] } ∧ t.boot.harts = (if s.boot.harts = 1 then 2 else s.boot.harts))
          ∧ (s.get PW_STATUS_STATE ≠ 0 → t = { s with regs := t.regs, pw := t.pw }))
      ∧ (code = 0 → k < s.get PW_STATUS_STATE → (s.get PW_STATUS_STATE = 3 → 4 ∉ s.pw.good) →
          t.pw.transition = some (s.get PW_STATUS_STATE - 1, k) ∧ t.get PW_STATUS_TRANS = 1
          ∧ (s.get PW_STATUS_STATE = 1 → t.pw.enables = [0, 1, 2, 3] ++ s.pw.enables.filter fun e => 4 ≤ e)
          ∧ (s.get PW_STATUS_STATE = 2 → t.pw.enables = s.pw.enables)
          ∧ (s.get PW_STATUS_STATE = 3 → t.boot.kind = 3 ∧ t.boot.step = 5 ∧ 4 ∈ t.pw.enables))

/-- O32: STATE_DONE enters P1 (dies' SRAMs and rails lost) or P2 (hart tickets lost) once the rails are good; WAKE_EVENT starts the exit (R625 to R628). (R625, R626, R628, 16 Power, clocks and thermal) -/
def Obligations.StatesAreEnteredAndLeft : Prop :=
  ∀ (e : BootEnv) (kind i : Nat) (s : State), kind < 3 → i < 8 →
    ((s.pw.transition = none ∨ legReady s = false) → exec (.stateDone e) s = .next s)
    ∧ (s.pw.transition = some (1, 1) → s.get PW_STATUS_STATE = 0 → legReady s = true → s.pw.wakes = [] → ∃ t, exec (.stateDone e) s = .next t
        ∧ t.get PW_STATUS_STATE = 1 ∧ t.get PW_STATUS_TRANS = 0 ∧ t.pw.transition = none ∧ bit (t.get (INT_STAT pagePW)) 1 = true
        ∧ t.pw.enables = s.pw.enables.filter (fun x => 4 ≤ x) ∧ t.boot.resetRunning = 15
        ∧ MemBut ((List.range 4).flatMap fun d => [(0xE000000000 + d * 0x100000000, 9 * 0x400000), (0xE004000000 + d * 0x100000000, 0x3000000)]) s t
        ∧ t.hot = s.hot ∧ t.rm = s.rm ∧ t.plan = s.plan ∧ t.time = s.time ∧ t.doubt = s.doubt ∧ t.fw = s.fw)
    ∧ (s.pw.transition = some (2, 2) → s.get PW_STATUS_STATE = 1 → legReady s = true → s.pw.wakes = [] → ∃ t, exec (.stateDone e) s = .next t
        ∧ t.get PW_STATUS_STATE = 2 ∧ t.get PW_STATUS_TRANS = 0 ∧ t.pw.transition = none ∧ bit (t.get (INT_STAT pagePW)) 1 = true
        ∧ t.bus.hartTkt = [] ∧ t.mem = s.mem ∧ t.hot = s.hot ∧ t.rm = s.rm ∧ t.plan = s.plan ∧ t.time = s.time ∧ t.doubt = s.doubt ∧ t.fw = s.fw)
    ∧ ((bit (s.get (wakeField kind).1) i = false ∨ (s.get PW_STATUS_STATE = 0 ∧ s.pw.transition = none)) → exec (.wakeEvent kind i) s = .next s)
    ∧ (bit (s.get (wakeField kind).1) i = true → s.pw.transition = none → (s.get PW_STATUS_STATE = 1 ∨ s.get PW_STATUS_STATE = 2) →
        ∃ t, exec (.wakeEvent kind i) s = .next t ∧ bit (t.get (wakeField kind).2) i = true ∧ bit (t.get (INT_STAT pagePW)) 0 = true
          ∧ t.pw.transition = some (s.get PW_STATUS_STATE - 1, 0) ∧ t.get PW_STATUS_TRANS = 1
          ∧ t = { s with regs := t.regs, pw := { s.pw with enables := t.pw.enables, transition := t.pw.transition }, bus := { s.bus with files := t.bus.files } }
          ∧ RegsBut [(wakeField kind).2, INT_STAT pagePW, PW_STATUS_TRANS] [] s t)
    ∧ (∀ n k, bit (s.get (wakeField kind).1) i = true → s.pw.transition = some (n, k) → s.get PW_STATUS_STATE < n →
        exec (.wakeEvent kind i) s = .next { s with pw := { s.pw with wakes := s.pw.wakes ++ [(kind, i)] } })

/-- O33: UNLOCK_PW and UNLOCK_CR open levels only with the right key, at most 16 failed attempts; NONCE shifts the nonce out (R656 to R658). (R656, R657, R658) -/
def Obligations.DebugAccessNeedsItsKey : Prop :=
  ∀ (pw l x y r v z : Nat) (s : State), pw < 2 ^ 128 → l < 256 →
    exec .nonce s = .next { s with bus := { s.bus with sent := s.bus.sent ++ [⟨8, 0, leBytes 32 s.dbg.nonce⟩] } }
    ∧ ((s.silicon.keyStore = none ∨ 16 ≤ s.dbg.fails) → exec (.unlockPw pw) s = .next s ∧ exec (.unlockCr l x y r v z) s = .next s)
    ∧ (s.silicon.keyStore ≠ none → s.dbg.fails < 16 →
      (∀ c, s.boot.cfg = some c → c.lc = 1 → (sha384 (leBytes 8 (deviceId s) ++ leBytes 16 pw)).take 16 = leBytes 16 c.pwTag →
        ∃ t, exec (.unlockPw pw) s = .next t ∧ t.dbg.levels = Nat.lor s.dbg.levels 1 ∧ t.dbg.fails = s.dbg.fails
          ∧ t = { s with regs := t.regs, dbg := t.dbg, fresh := t.fresh } ∧ RegsBut [BT_DBG_STAT_OPEN] [] s t)
      ∧ (passwordOk s pw = false → ∃ t, exec (.unlockPw pw) s = .next t ∧ t.dbg.levels = s.dbg.levels ∧ t.dbg.fails = s.dbg.fails + 1
          ∧ t = { s with regs := t.regs, dbg := t.dbg, fresh := t.fresh } ∧ RegsBut [BT_DBG_STAT_FAILS] [] s t)
      ∧ (z = 0 → (l % 8 < 2 ∨ (s.planOn = false ∧ s.someRun = false)) → ofBe (sha384 (beBytes 48 x ++ beBytes 48 y)) = s.silicon.debugHash →
          ecdsaOk x y (sha384 (leBytes 32 s.dbg.nonce ++ leBytes 8 (deviceId s) ++ leBytes 8 l)) r v = true →
          ∃ t, exec (.unlockCr l x y r v z) s = .next t ∧ t.dbg.levels = Nat.lor s.dbg.levels (l % 8) ∧ t.dbg.fails = s.dbg.fails
            ∧ (2 ≤ l % 8 → bit t.doubt.bits 14 = true) ∧ (l % 8 < 2 → t.doubt = s.doubt)
            ∧ t.mem = s.mem ∧ t.time = s.time ∧ t.fw = s.fw ∧ t.plan = s.plan ∧ t.silicon = s.silicon)
      ∧ (responseOk s l x y r v z = false → ∃ t, exec (.unlockCr l x y r v z) s = .next t ∧ t.dbg.levels = s.dbg.levels ∧ t.dbg.fails = s.dbg.fails + 1
          ∧ t = { s with regs := t.regs, dbg := t.dbg, fresh := t.fresh } ∧ RegsBut [BT_DBG_STAT_FAILS] [] s t))

/-- O34: ISLAND_WATCHDOG_EXPIRY: STO low, rings with the island and stopped, doubt reads START, island SRAM lost, the rest of storage kept (R540, R654). (R540, R654, R555) -/
def Obligations.IslandResetStopsTheRings : Prop :=
  ∀ s : State,
    (s.boot.step = 1 → exec .islandWatchdogExpiry s = .next s)
    ∧ (s.boot.step ≠ 1 → ∃ t, exec .islandWatchdogExpiry s = .next t
      ∧ t.isl.sto = false ∧ t.doubt.bits = 2 ^ 13 ∧ t.doubt.firstSrc = 13 ∧ t.doubt.firstOrigin = 5 ∧ t.doubt.firstTime = s.timestamp
      ∧ t.get TT_STATUS_OWNER_ISL = 1 ∧ t.get EL_NET_STAT_OWNER = 1 ∧ t.get EL_NET_STAT_STOPPED = 1 ∧ t.get BT_RST_CAUSE_ISL = 1
      ∧ (islandImage s = none → t.get EL_NET_STAT_PAIR_OK = 0 ∧ bit (t.get BT_BOOT_STAT_BOOT_ERR) 1 = true)
      ∧ MemBut [(0xE40C000000, 0x400000)] s t
      ∧ t.time = s.time ∧ t.plan = s.plan ∧ t.ts = s.ts ∧ t.hot = s.hot ∧ t.fw = s.fw ∧ t.grid = s.grid ∧ t.rm.units = s.rm.units)

/-- O35: A doorbell: the owner test comes first, TAIL and CHEAD are each taken or refused with DB_ERR, a disabled queue ignores it (R268, R270). (R268, R270) -/
def Obligations.DoorbellsPostAndFree : Prop :=
  ∀ (init q data : Nat) (s : State), Instr.wellFormed (.doorbellWrite init q data) = true →
    Reaches s init (ticketOf s init) 1 (0xF800000000 + 8 * q) 8 →
    let x := s.queue q
    let tail := data % 2 ^ 32
    let chead := data / 2 ^ 32
    let okT : Prop := (tail + 2 ^ 32 - x.head % 2 ^ 32) % 2 ^ 32 ≤ 2 ^ x.ringLog2
    let okC : Prop := (x.ctail + 2 ^ 32 - chead % 2 ^ 32) % 2 ^ 32 ≤ 2 ^ x.compLog2
    (init ≠ x.owner → ∃ t, exec (.doorbellWrite init q data) s = .next t
        ∧ t.queue q = { x with dbDeny := true }
        ∧ (∀ p, p ≠ q → t.queue p = s.queue p)
        ∧ (∀ l, s.log.queues[4]? = some l → l.length < 64 →
            t.log.queues[4]? = some (l ++ [⟨s.timestamp, 8, 4, false, false, init, ticketOf s init, 0x171, 3, 0xFF, 0, q⟩]))
        ∧ t = { s with regs := t.regs, log := t.log, rm := { s.rm with queues := t.rm.queues }, bus := { s.bus with files := t.bus.files } }
        ∧ RegsBut [] [1, 21, 37, 53, 69] s t)
    ∧ (init = x.owner → x.enable = false → exec (.doorbellWrite init q data) s = .next s)
    ∧ (init = x.owner → x.enable = true → ∃ t, exec (.doorbellWrite init q data) s = .next t
        ∧ (okT → (t.queue q).tail = tail) ∧ (¬okT → (t.queue q).tail = x.tail)
        ∧ (okC → (t.queue q).chead = chead) ∧ (¬okC → (t.queue q).chead = x.chead)
        ∧ ((t.queue q).dbErr = true ↔ x.dbErr = true ∨ ¬okT ∨ ¬okC)
        ∧ (t.queue q).dbDeny = x.dbDeny
        ∧ (x.cls = 0 → (t.queue q).head = x.head ∧ (t.queue q).ctail = x.ctail ∧ (∀ p, p ≠ q → t.queue p = s.queue p)
            ∧ t = { s with regs := t.regs, rm := { s.rm with queues := t.rm.queues, ready := t.rm.ready } }
            ∧ RegsBut (RM_SVT_SVT :: t.rm.ready.map RM_CLIENT_ACCT_VT) [] s t))

/-- O36: QUEUE_ENABLE checks Table 7-1 and clears the counts; QUEUE_DISABLE drops what has not started; QLOCK refuses both (R266, R274). (R266, R274) -/
def Obligations.QueuesAreEnabledAndDisabled : Prop :=
  ∀ (init tkt : Nat) (s : State), isInit init = true → isTicket tkt = true → Reaches s init tkt 1 (pageAddr 3 0x148) 8 →
    let q := s.get RM_QSEL_Q
    let x := s.queue q
    let fits : Prop := x.ringBase % 64 = 0 ∧ x.compBase % 16 = 0 ∧ 1 ≤ x.ringLog2 ∧ x.ringLog2 ≤ 16 ∧ 1 ≤ x.compLog2 ∧ x.compLog2 ≤ 16
      ∧ ¬(x.mode = 1 ∧ x.cls = 0) ∧ queueUnitOk x.unit x.cls = true
    let refused (c : Instr) : Prop := ∃ t, exec c s = .next t ∧ t.rm = s.rm ∧ t.is (ERRW_VALID 3) = true
      ∧ t = { s with regs := t.regs, log := t.log, bus := { s.bus with files := t.bus.files } } ∧ RegsBut (errFields 3) [1, 21, 37, 53, 69] s t
    (x.qlock = true → refused (.queueEnable init tkt) ∧ refused (.queueDisable init tkt))
    ∧ (x.qlock = false → x.enable = true → exec (.queueEnable init tkt) s = .next s)
    ∧ (x.qlock = false → x.enable = false → exec (.queueDisable init tkt) s = .next s)
    ∧ (x.qlock = false → x.enable = false → ¬fits → refused (.queueEnable init tkt))
    ∧ (x.qlock = false → x.enable = false → fits → ∃ t, exec (.queueEnable init tkt) s = .next t
        ∧ t.queue q = { x with enable := true, stopped := false, head := 0, tail := 0, ctail := 0, chead := 0 }
        ∧ (∀ p, p ≠ q → t.queue p = s.queue p)
        ∧ t = { s with regs := t.regs, rm := { s.rm with queues := t.rm.queues, ready := t.rm.ready } }
        ∧ RegsBut (RM_SVT_SVT :: t.rm.ready.map RM_CLIENT_ACCT_VT) [] s t)
    ∧ (x.qlock = false → x.enable = true → ∃ t, exec (.queueDisable init tkt) s = .next t
        ∧ t.queue q = { x with enable := false, head := x.tail, dropped := min (x.dropped + (if x.mode = 1 then 0 else (x.tail + 2 ^ 32 - x.head % 2 ^ 32) % 2 ^ 32) + (s.jobs.filter fun j => j.2.queue == q && j.2.waits).length) 0xFFFF }
        ∧ (∀ p, p ≠ q → t.queue p = s.queue p)
        ∧ (∀ u, (t.unit u).running = (s.unit u).running ∧ (t.unit u).suspended = (s.unit u).suspended
            ∧ (t.unit u).held = (s.unit u).held.filter fun j => !(j.queue == q && j.waits))
        ∧ t = { s with regs := t.regs, rm := { s.rm with queues := t.rm.queues, units := t.rm.units, ready := t.rm.ready } }
        ∧ RegsBut (RM_SVT_SVT :: t.rm.ready.map RM_CLIENT_ACCT_VT) [] s t)

/-- O37: DESCRIPTOR_TAKE and PLAN_SLOT_TAKE read the ring entry once, move HEAD on and hand the job to the unit; a failed read stops the queue (R272, R273, R293). (R272, R273, R293) -/
def Obligations.DescriptorsAreTakenOnce : Prop :=
  ∀ (q u : Nat) (ecc : Ecc) (s : State), q < 65536 → u < 109 → ecc.corr = [] →
    let x := s.queue q
    let job (i : Nat) (client : Nat) (slot : Option Nat) (d : List Byte) (j : Job) : Prop := j.queue = q ∧ j.index = i ∧ j.client = client ∧ j.slot = slot
      ∧ j.desc = d ∧ j.ticket = x.ticket ∧ j.started = false ∧ j.status = if failsAll s u then some 0x0A else checkDesc u slot.isSome d
    (x.enable = true → x.stopped = false → x.cls = 0 → x.mode = 0 → serves x.unit u = true → takesFor s u = true → x.head ≠ x.tail → compRoom s q = true →
        ¬(u < 36 ∧ unitDead s u = true) → (∀ j ∈ s.jobs, j.2.queue = q → j.2.waits = false) →
        let a := x.ringBase + 64 * (x.head % 2 ^ x.ringLog2)
        ((checkRange s x.owner x.ticket 0 ecc a 64).1 = 0 → ∃ t j, exec (.descriptorTake q u ecc) s = .next t
          ∧ t.queue q = { x with head := (x.head + 1) % 2 ^ 32 } ∧ (∀ p, p ≠ q → t.queue p = s.queue p)
          ∧ t.unit u = { s.unit u with held := (s.unit u).held ++ [j] } ∧ job x.head x.client none (readRange s a 64) j
          ∧ (∀ v, v ≠ u → t.unit v = s.unit v)
          ∧ t = { s with regs := t.regs, ts := t.ts, rm := { s.rm with queues := t.rm.queues, units := t.rm.units, ready := t.rm.ready } }
          ∧ RegsBut (RM_SVT_SVT :: t.rm.ready.map RM_CLIENT_ACCT_VT) [] s t)
        ∧ ((checkRange s x.owner x.ticket 0 ecc a 64).1 ≠ 0 → ∃ t, exec (.descriptorTake q u ecc) s = .next t
          ∧ t.queue q = { x with fault := true, stopped := true } ∧ bit (t.get (INT_STAT 3)) 5 = true))
    ∧ (∀ id p, s.slot id = some p → (∀ y ∈ s.planSlots, y.id = id → y = p) → takingSlot s q u = some (p, false) → 3300 < toBoundary s → compRoom s q = true → slotUnit s p = u → slotQueue s p = q → x.enable = true → x.stopped = false →
        currentSlot s u = none → (x.mode = 1 ∨ x.head ≠ x.tail) →
        ((s.slotRun id).taken + 1 = p.count ∨ (x.mode ≠ 1 ∧ (x.head + 1) % 2 ^ 32 = x.tail)) →
        let n := if x.mode = 1 then (s.slotRun id).taken else x.head
        let a := x.ringBase + 64 * (n % 2 ^ x.ringLog2)
        (checkRange s x.owner x.ticket 0 ecc a 64).1 = 0 → ∃ t j, exec (.planSlotTake id ecc) s = .next t
          ∧ t.queue q = { x with head := (x.head + 1) % 2 ^ 32 } ∧ (∀ p, p ≠ q → t.queue p = s.queue p)
          ∧ t.unit u = { s.unit u with held := (s.unit u).held ++ [j] } ∧ job n x.client (some id) (readRange s a 64) j
          ∧ (∀ v, v ≠ u → t.unit v = s.unit v)
          ∧ t.slotRun id = { s.slotRun id with taken := (s.slotRun id).taken + 1 } ∧ (∀ k, k ≠ id → t.slotRun k = s.slotRun k)
          ∧ t = { s with ts := t.ts, rm := { s.rm with queues := t.rm.queues, units := t.rm.units }, plan := { s.plan with slots := t.plan.slots } })

/-- O38: JOB_COMPLETE writes the 16-byte record of Table 7-2, moves CTAIL on, posts the credit, and charges the client (R275, R276, R79, R305, R308). (R275, R276, R79, R305, R308) -/
def Obligations.JobsCompleteWithTheirRecord : Prop :=
  ∀ (u cycles bytes energy : Nat) (ecc : Ecc) (s : State) (j : Job), u < 109 → completing (s.unit u) = some j → j.commit = none → s.isl.reint ≠ 1 →
    let x := s.queue j.queue
    let a := x.compBase + 16 * (if x.mode = 1 then j.index else x.ctail % 2 ^ x.compLog2)
    let phase := if x.mode = 1 then Nat.xor (s.get RM_FRAME_MAJOR % 2) (s.get RM_STATUS_FRAME_IDX % 2) else (x.ctail / 2 ^ x.compLog2 + 1) % 2
    let word0 := dTag j.desc * 2 ^ 32 + min cycles 0x7FFFFF * 2 ^ 9 + j.status.getD 0 * 2 + phase
    let word1 := s.get RM_STATUS_FRAME_IDX * 2 ^ 59 + s.get RM_FRAME_MAJOR % 2 ^ 11 * 2 ^ 48 + j.entry % 65536 * 2 ^ 32 + j.index % 2 ^ 32
    let c := j.client % 1024
    ∃ t, exec (.jobComplete u cycles bytes energy ecc) s = .next t
      ∧ (x.stopped = true → (j.clash = [] → t.mem = s.mem) ∧ t.queue j.queue = x)
      ∧ (x.stopped = false → (checkRange s x.owner x.ticket 1 ecc a 16).1 ≠ 0 → (t.queue j.queue).fault = true ∧ (t.queue j.queue).stopped = true)
      ∧ (x.stopped = false → (checkRange s x.owner x.ticket 1 ecc a 16).1 = 0 →
          (j.clash = [] → t.mem = (s.act (writeRange a (leBytes 8 word0 ++ leBytes 8 word1))).mem)
          ∧ t.queue j.queue = { x with ctail := if x.mode = 0 then (x.ctail + 1) % 2 ^ 32 else x.ctail })
      ∧ t.get (RM_CLIENT_ACCT_CYCLES c) = (s.get (RM_CLIENT_ACCT_CYCLES c) + min cycles 0x7FFFFF) % 2 ^ 64
      ∧ t.get (RM_CLIENT_ACCT_BYTES c) = (s.get (RM_CLIENT_ACCT_BYTES c) + bytes) % 2 ^ 64
      ∧ ((x.stopped = true ∨ (checkRange s x.owner x.ticket 1 ecc a 16).1 = 0) →
          (currentSlot s u = none → t.unit u = (s.unit u).done j
            ∧ (j.post = true → dPostEn j.desc = true → s.get (CE_CTR_VALUE (dCtrDie j.desc) (dPostCtr j.desc)) < 0xFFFF →
                t.get (CE_CTR_VALUE (dCtrDie j.desc) (dPostCtr j.desc)) = s.get (CE_CTR_VALUE (dCtrDie j.desc) (dPostCtr j.desc)) + 1)
            ∧ (j.slot = none → j.status ≠ some 1 → j.status ≠ some 2 → s.get (RM_CLIENT_SHARE_SHARE c) ≠ 0 → (c ∈ s.rm.ready ∨ c ∉ t.rm.ready) →
                let charge := s.get RM_CHARGE_W_CYC_W * min cycles 0x7FFFFF + s.get RM_CHARGE_W_BYTE_W * ((bytes + 4095) / 4096) + s.get RM_CHARGE_W_NRG_W * energy
                t.get (RM_CLIENT_ACCT_VT c) = (s.get (RM_CLIENT_ACCT_VT c)
                  + (charge * 65536 + s.get (RM_CLIENT_SHARE_SHARE c) - 1) / s.get (RM_CLIENT_SHARE_SHARE c)) % 2 ^ 64))
          ∧ (∀ id p, j.slot = some id → s.slot id = some p → slotUnit s p = u → (s.slotRun id).checked = false → (s.slotRun id).displaced = false →
              (j.status = some 0 ∨ j.status = some 1 → t.slotRun id = { s.slotRun id with good := (s.slotRun id).good + 1 })
              ∧ (j.status ≠ some 0 → j.status ≠ some 1 → t.slotRun id = { s.slotRun id with bad := true })))
      ∧ t.fw = s.fw ∧ t.grid = s.grid ∧ t.time = s.time ∧ t.silicon = s.silicon ∧ t.dbg = s.dbg ∧ t.boot = s.boot ∧ (s.tt.taking = none → t.tt = s.tt)

/-- O39: OPEN work starts, resumes and is suspended; a credit starts one waiter; a job that is to stop ends at its tile boundary (R304, R157, R154, R81, R78). (R304, R154, R157, R81, R78) -/
def Obligations.WorkStartsSuspendsAndStops : Prop :=
  ∀ (u : Nat) (s : State), u < 109 →
    (∀ ecc j, unitFree s u = true → mayOpen s u = true → ¬(u < 36 ∧ unitDead s u = true) → (s.unit u).suspended = some j → j.status = none →
        ∃ t, exec (.openDispatch u ecc) s = .next t
          ∧ t.unit u = { s.unit u with running := some j, suspended := none, held := (s.unit u).running.toList ++ (s.unit u).held }
          ∧ (∀ v, v ≠ u → t.unit v = s.unit v)
          ∧ t = { s with regs := t.regs, rm := { s.rm with units := t.rm.units, ready := t.rm.ready } }
          ∧ RegsBut (RM_SVT_SVT :: (readyClients s ++ t.rm.ready).map RM_CLIENT_ACCT_VT) [] s t)
    ∧ (∀ ecc x j0, unitFree s u = true → mayOpen s u = true → ¬(u < 36 ∧ unitDead s u = true) → (s.unit u).suspended = none → (s.unit u).running = none →
        openChoice (s.act refreshReady) u = some x → x.slot = none → sourceHead s x u = some (some j0) → creditTurn (s.act refreshReady) j0 = true →
        (s.unit u).held = [] → (∀ j ∈ s.jobs, x.owns j.2 = false) → ecc.corr = [] → failsAll s u = false →
        let q := s.queue x.queue
        let a := q.ringBase + 64 * (q.head % 2 ^ q.ringLog2)
        let d := readRange s a 64
        (checkRange s q.owner q.ticket 0 ecc a 64).1 = 0 → (checkDesc u false d = none ∨ checkDesc u false d = some 1) →
        ∃ t j, exec (.openDispatch u ecc) s = .next t ∧ (t.unit u).running = some j ∧ (t.unit u).held = [] ∧ j.started = true ∧ j.desc = d
          ∧ j.queue = x.queue ∧ j.index = q.head ∧ j.client = x.client ∧ j.slot = none ∧ j.beganTk = s.grid.tk
          ∧ t.queue x.queue = { q with head := (q.head + 1) % 2 ^ 32 }
          ∧ t = { s with regs := t.regs, ts := t.ts, rm := { s.rm with queues := t.rm.queues, units := t.rm.units, lastQ := t.rm.lastQ, ready := t.rm.ready } }
          ∧ RegsBut ((if dWaitEn d then [CE_CTR_VALUE (dCtrDie d) (dWaitCtr d)] else []) ++ RM_SVT_SVT :: (readyClients s ++ t.rm.ready).map RM_CLIENT_ACCT_VT) [] s t)
    ∧ (∀ die ctr q j, die < 4 → ctr < 256 → (plannedWaiters s die ctr).find? (fun y => y.1 == q) = some (q, u) →
        (∀ y ∈ plannedWaiters s die ctr ++ openWaiters s die ctr, q ≤ y.1) → nextPlanned s u = some j → failsAll s u = false →
        ∃ t k, exec (.creditWaitStart die ctr) s = .next t
          ∧ (t.unit u).running = some k ∧ k = { j with started := true, began := s.inFrame, beganTk := s.grid.tk, beganFrame := k.beganFrame, hist := k.hist, clash := k.clash } ∧ t.get (CE_CTR_VALUE die ctr) = (s.get (CE_CTR_VALUE die ctr) - 1) % 2 ^ 16
          ∧ t = { s with regs := t.regs, rm := { s.rm with units := t.rm.units, ready := t.rm.ready } }
          ∧ RegsBut (CE_CTR_VALUE die ctr :: RM_SVT_SVT :: t.rm.ready.map RM_CLIENT_ACCT_VT) [] s t)
    ∧ (runsOpen s u = true → planNear s u 3301 = true →
        exec (.preemptRequest u) s = .next { s with rm := { s.rm with units := mset s.rm.units u { s.unit u with switching := true } } })
    ∧ (∀ cycles, isCopyUnit u = false → (s.unit u).switching = true → runsOpen s u = true → currentSlot s u = none →
        ∃ t, exec (.preemptRelease u cycles) s = .next t
          ∧ t = { s with regs := t.regs, rm := { s.rm with units := mset s.rm.units u { s.unit u with suspended := (s.unit u).running.map (fun j => { j with kept := keptSelection s u j }), running := none, switching := false } } }
          ∧ (36 ≤ u ∨ serving s u = none → t.regs = s.regs)
          ∧ (∀ g, u < 36 → serving s u = some g → t.get (TE_PRE_PRE_CNT g) = min (s.get (TE_PRE_PRE_CNT g) + 1) 0xFFFF
              ∧ t.get (TE_PRE_PRE_MAX g) = min (max (s.get (TE_PRE_PRE_MAX g)) cycles) 0xFFFF ∧ RegsBut [TE_PRE_PRE_CNT g, TE_PRE_PRE_MAX g] [] s t))
    ∧ (isCopyUnit u = true → (s.unit u).switching = true → runsOpen s u = true → currentSlot s u = none →
        exec (.copySwitchDone u) s
          = .next { s with rm := { s.rm with units := mset s.rm.units u { s.unit u with suspended := (s.unit u).running, running := none, switching := false } } })
    ∧ (∀ j st, (s.unit u).running = some j → j.status = none → j.stopWith = some st →
        ∃ t, exec (.jobStopAtTile u) s = .next t
          ∧ t.unit u = { s.unit u with running := some { j with status := some st, stopWith := none } } ∧ (∀ v, v ≠ u → t.unit v = s.unit v)
          ∧ t.mem = (s.act (loseOuts u j)).mem
          ∧ t = { s with mem := t.mem, hot := t.hot, tt := t.tt, fresh := t.fresh, rm := { s.rm with units := t.rm.units } })

/-- O40: SLOT_START begins a slot and its first ready job, SLOT_DEADLINE checks it: misses are counted, interrupt and raise doubt (R293, R297, R298). (R293, R297, R298, R158) -/
def Obligations.SlotsStartAndAreChecked : Prop :=
  ∀ (id : Nat) (p : Slot) (s : State), s.slot id = some p → slotRuns s p = true → p.typ ≠ 3 → (s.slotRun id).checked = false →
    let u := slotUnit s p
    let r := s.slotRun id
    let steps := if p.typ = 0 then (List.range 36).map TE_STATUS_GOLD_STEP else []
    (r.started = false → slotStartAt s p ≤ s.inFrame → s.inFrame < slotEndAt s p → unitDead s u = false → (p.typ = 0 → safeExempt s u = false) →
      ((s.unit u).running = none → (s.unit u).switching = false → currentSlot s u = none → failsAll s u = false →
        ∃ t, exec (.slotStart id) s = .next t ∧ t.slotRun id = { r with started := true }
          ∧ ((∀ j ∈ (s.unit u).held, j.slot = some id → j.waits = false) → t.rm = s.rm ∧ RegsBut steps [] s t)
          ∧ (∀ g, p.typ = 0 → u < 36 → serving s u = some g → t.get (TE_STATUS_GOLD_STEP g) = s.frameIdx % 2 ^ (TE_STATUS_GOLD_STEP g).width)
          ∧ (∀ j, (s.unit u).held.find? (fun j => j.slot == some id && j.waits) = some j → mayStart s j = true → compRoom s j.queue = true → creditTurn s j = true →
              (∃ k, t.unit u = { s.unit u with running := some k, held := (s.unit u).held.erase j }
                ∧ k = { j with started := true, began := s.inFrame, beganTk := s.grid.tk, beganFrame := k.beganFrame, hist := k.hist, clash := k.clash })
              ∧ RegsBut (steps ++ if dWaitEn j.desc then [CE_CTR_VALUE (dCtrDie j.desc) (dWaitCtr j.desc)] else []) [] s t
              ∧ (dWaitEn j.desc = true → t.get (CE_CTR_VALUE (dCtrDie j.desc) (dWaitCtr j.desc)) = (s.get (CE_CTR_VALUE (dCtrDie j.desc) (dWaitCtr j.desc)) - 1) % 2 ^ 16))
          ∧ t = { s with regs := t.regs, rm := { s.rm with units := t.rm.units }, plan := { s.plan with slots := t.plan.slots } })
      ∧ (∀ j g, (s.unit u).running = some j → j.status = none → u < 36 → serving s u = some g →
          ∃ t, exec (.slotStart id) s = .next t ∧ g ∈ t.eng.failedEng ∧ (p.typ ≠ 2 → (2, u / 9) ∈ t.isl.wires)))
    ∧ (slotEndAt s p ≤ s.inFrame →
        ∃ t, exec (.slotDeadline id) s = .next t ∧ t.slotRun id = { r with checked := true }
          ∧ (∀ v, (t.unit v).held = (s.unit v).held.map fun j => if j.slot == some id && j.waits then { j with status := some 0x0B } else j)
          ∧ ((∀ v j, isCopyUnit v = true → (s.unit v).running = some j → j.slot = some id → j.status ≠ none) → t.mem = s.mem)
          ∧ t = { s with regs := t.regs, mem := t.mem, hot := t.hot, tt := t.tt, fresh := t.fresh, log := t.log, rm := { s.rm with units := t.rm.units }, plan := { s.plan with slots := t.plan.slots }, isl := { s.isl with wires := t.isl.wires, awaiting := t.isl.awaiting }, bus := { s.bus with files := t.bus.files } }
          ∧ (let exempt : Bool := diePark s (unitDie p.unit) || s.plan.exempt.contains (unitDie p.unit)
            (p.typ = 0 → exempt = true → t.isl.awaiting = s.isl.awaiting.filter (fun e => !((testsOf s p).contains e)) ∧ (∀ e ∈ testsOf s p, e ∈ s.isl.awaiting → t.get (EL_CAR_RUNNING e) = 0)
              ∧ RegsBut ((testsOf s p).map EL_CAR_RUNNING) [] s t)
            ∧ (p.typ ≠ 0 ∨ exempt = false → t.isl.awaiting = s.isl.awaiting ∧ RegsBut [RM_MISS_CNT_CTRL_MISS, RM_MISS_CNT_PERC_MISS, INT_STAT 3] [1, 21, 37, 53, 69] s t))
          ∧ (r.asOpen = false → (p.typ = 0 → safeExempt s p.unit = false) →
            let doubtful := if p.typ = 1 then r.doubtful.eraseDups.map (fun d => (2, d)) else []
            (slotComplete s p = true → t.regs = s.regs ∧ t.isl.wires = s.isl.wires ++ doubtful)
            ∧ (slotComplete s p = false → p.typ = 2 → t.get RM_MISS_CNT_PERC_MISS = min (s.get RM_MISS_CNT_PERC_MISS + 1) 0xFFFF
                ∧ t.get RM_MISS_CNT_CTRL_MISS = s.get RM_MISS_CNT_CTRL_MISS ∧ bit (t.get (INT_STAT 3)) 2 = true ∧ t.isl.wires = s.isl.wires)
            ∧ (slotComplete s p = false → p.typ ≠ 2 → t.get RM_MISS_CNT_CTRL_MISS = min (s.get RM_MISS_CNT_CTRL_MISS + 1) 0xFFFF
                ∧ t.get RM_MISS_CNT_PERC_MISS = s.get RM_MISS_CNT_PERC_MISS ∧ bit (t.get (INT_STAT 3)) 1 = true
                ∧ t.isl.wires = s.isl.wires ++ [(2, 4)] ++ doubtful)))

/-- O41: CONTROL_FRAME_BOUNDARY every 550,000 cycles: the frame index counts to 19, a plan takes over at index 0 with major frame 0 (R29, R30, R286). (R29, R30, R286, R287, R289) -/
def Obligations.BoundariesCountFramesAndSwitchPlans : Prop :=
  ∀ s : State,
    ((s.grid.running = true → s.grid.now < s.grid.boundaryAt + 550000) → (s.grid.running = false → ∀ p, s.plan.next = some p → s.grid.now < p.2) →
      exec .controlFrameBoundary s = .next s)
    ∧ ∀ b, (s.grid.running = true → b = s.grid.boundaryAt + 550000) → (s.grid.running = false → ∃ p, s.plan.next = some p ∧ p.2 = b) → b ≤ s.grid.now →
      let idx := if s.grid.running then (s.get RM_STATUS_FRAME_IDX + 1) % 20 else 0
      ∃ t, exec .controlFrameBoundary s = .next t
        ∧ t.grid.running = true ∧ t.grid.boundaryAt = b ∧ t.grid.tk = s.timestamp ∧ t.grid.now = s.grid.now
        ∧ t.get RM_STATUS_FRAME_IDX = idx
        ∧ (∀ p, s.plan.next = some p → idx = 0 → p.2 ≤ b →
            t.plan.inForce = some p.1 ∧ t.plan.next = none ∧ t.get RM_PLAN_ID_ID = p.1.planId % 2 ^ 64 ∧ t.get RM_STATUS_PLAN = 1 ∧ t.get RM_FRAME_MAJOR = 0)
        ∧ ((∀ p, s.plan.next = some p → idx ≠ 0 ∨ b < p.2) →
            t.get RM_FRAME_MAJOR = (if s.grid.running ∧ idx = 0 then (s.get RM_FRAME_MAJOR + 1) % 2 ^ 48 else s.get RM_FRAME_MAJOR % 2 ^ 48)
            ∧ t.plan.next = s.plan.next
            ∧ (s.plan.stopping = true → idx = 0 → t.plan.inForce = none ∧ t.get RM_STATUS_PLAN = 0)
            ∧ (s.plan.stopping = false ∨ idx ≠ 0 → t.plan.inForce = s.plan.inForce ∧ t.get RM_STATUS_PLAN = s.get RM_STATUS_PLAN))
        ∧ t.fw = s.fw ∧ t.silicon = s.silicon ∧ t.dbg = s.dbg ∧ t.time = s.time

/-- O42: LINEAR, STRIDED, GATHER, SCATTER and FILL store at each destination what the source holds, converted when CONVERT is 1 (R70, R71, R73, Table 2-6). (R70, R71, R73, R121, R76, R77) -/
def Obligations.CopyEnginesMoveRows : Prop :=
  ∀ (u : Nat) (ecc : Ecc) (s : State) (j : Job), isCopyUnit u = true → ecc.corr = [] → copyOdd j.desc = false →
    let d := j.desc
    let g := (u - 40) / 16
    let mayRead (a n : Nat) : Prop := (checkRange s u j.ticket 0 ecc a n).1 = 0
    let mayWrite (rs : List (Nat × Nat)) : Prop := ∀ w ∈ rs, (checkRange s u j.ticket 1 ecc w.1 w.2).1 = 0
    let ends (c : Instr) (puts : List (Nat × List Byte)) : Prop := ∃ t, exec c s = .next t
      ∧ ((t.unit u).running.map fun k => (k.status, k.desc, k.index)) = some (some 0, d, j.index) ∧ (∀ v, v ≠ u → t.unit v = s.unit v)
      ∧ t.mem = (s.act (forA puts fun w => writeRange w.1 w.2)).mem
      ∧ t = { s with regs := t.regs, mem := t.mem, fresh := t.fresh, rm := { s.rm with units := t.rm.units }, wear := { s.wear with lost := t.wear.lost }, hot := { s.hot with spoiled := t.hot.spoiled }, bus := { s.bus with sent := t.bus.sent }, yl := t.yl, ts := t.ts, tt := t.tt }
      ∧ RegsBut (CE_CVT_CNT_OUT_OF_RANGE g :: CE_CVT_CNT_NAN_LOST g :: (List.range 4).map BT_HBM_HEALTH_LOST_USED) [] s t
    let moves (c : Instr) (rows : List (Nat × Nat)) : Prop :=
      (∀ r ∈ rows, bcastLeft d r.2 = false) → (∀ r ∈ rows, mayRead r.1 (cpSrcBytes d)) → mayWrite (copyDests d rows) →
      (∀ p ∈ storageOf s (copyDests d rows), ∀ q ∈ storageOf s (rows.map fun r => (r.1, cpSrcBytes d)), rangesMeet p q = false) →
      ends c (rows.zipIdx.flatMap fun q => (cpTargets d q.1.2).map fun a =>
        (a, (copyRow d (q.2 * cpLength d) (readRange s q.1.1 (cpSrcBytes d))).bytes))
    (∀ n bs, cpConvert d = false → (copyRow d n bs).bytes = bs ∧ cpSrcBytes d = cpLength d ∧ cpDstBytes d = cpLength d)
    ∧ (workingJob s u 0x20 = some j → moves (.linear u ecc) [(cpSrc d, cpDst d)])
    ∧ (workingJob s u 0x21 = some j → moves (.strided u ecc) ((List.range (cpRows d)).map fun i => (cpSrc d + i * cpSrcStride d, cpDst d + i * cpDstStride d)))
    ∧ (workingJob s u 0x22 = some j → mayRead (cpList d) (8 * cpCount d) → listOdd (cpCount d) (readRange s (cpList d) (8 * cpCount d)) = false →
        moves (.gather u ecc) ((List.range (cpCount d)).map fun i => (le (readRange s (cpList d) (8 * cpCount d)) (8 * i) 8 % 2 ^ 48, cpDst d + i * cpDstBytes d)))
    ∧ (workingJob s u 0x23 = some j → mayRead (cpList d) (8 * cpCount d) → listOdd (cpCount d) (readRange s (cpList d) (8 * cpCount d)) = false →
        moves (.scatter u ecc) ((List.range (cpCount d)).map fun i => (cpSrc d + i * cpSrcBytes d, le (readRange s (cpList d) (8 * cpCount d)) (8 * i) 8 % 2 ^ 48)))
    ∧ (workingJob s u 0x24 = some j → bcastLeft d (cpDst d) = false → mayWrite ((cpTargets d (cpDst d)).map fun a => (a, cpLength d)) →
        ends (.fill u ecc) ((cpTargets d (cpDst d)).map fun a =>
          (a, (List.range (cpLength d)).map fun i => BitVec.ofNat 8 (dWord d 1 / 2 ^ (8 * (i % 8))))))
    ∧ (∀ i, workingJob s u 0x21 = some j → i < cpRows d → bcastLeft d (cpDst d + i * cpDstStride d) = true →
        ∃ t, exec (.strided u ecc) s = .next t ∧ ((t.unit u).running.map fun k => k.status) = some (some 0x07))
    ∧ (∀ st, workingJob s u 0x20 = some j → bcastLeft d (cpDst d) = false → (checkRange s u j.ticket 0 ecc (cpSrc d) (cpSrcBytes d)).1 = st → st ≠ 0 →
        ∃ t, exec (.linear u ecc) s = .next t ∧ ((t.unit u).running.map fun k => k.status) = some (some st))

/-- O43: MATMUL and CONV with RAW output, ELTWISE and REDUCE write the results of Chapter 4 and end with DONE (R127, R128, R136, R148, R150). (R127, R128, R136, R145, R148, R150) -/
def Obligations.EnginesComputeTheirOutput : Prop :=
  ∀ (u g : Nat) (ecc : Ecc) (s : State) (j : Job), isEngineUnit u = true → serving s u = some g → ecc.corr = [] →
    (∀ b ∈ ecc.uncorr, b < 2 ^ 48) →
    let d := j.desc
    let rd : Reader := fun o n => readRange s (dieAddr (u / 9) o) n
    let legal (ins outs : List (Nat × Nat)) : Prop :=
      (∀ r ∈ ins, (checkRange s u j.ticket 0 ecc (dieAddr (u / 9) r.1) r.2).1 = 0)
      ∧ (∀ r ∈ outs, (checkRange s u j.ticket 1 ecc (dieAddr (u / 9) r.1) r.2).1 = 0)
      ∧ someMeet outs = false ∧ ∀ o ∈ outs, ∀ i ∈ ins, rangesMeet o i = false
    let ends (c : Instr) (outs : List (Nat × Nat)) (rows : List (List Byte)) : Prop := ∃ t, exec c s = .next t
      ∧ t.mem = (s.act (forA (outs.zip rows) fun w => writeRange (dieAddr (u / 9) w.1.1) w.2)).mem
      ∧ t.unit u = { s.unit u with running := some { j with status := some 0, stopWith := none } } ∧ (∀ v, v ≠ u → t.unit v = s.unit v)
      ∧ t = { s with regs := t.regs, mem := t.mem, fresh := t.fresh, rm := { s.rm with units := t.rm.units }, plan := { s.plan with slots := t.plan.slots }, wear := { s.wear with lost := t.wear.lost }, hot := { s.hot with spoiled := t.hot.spoiled }, bus := { s.bus with sent := t.bus.sent }, yl := t.yl, ts := t.ts, tt := t.tt }
      ∧ RegsBut ([TE_CVT_CNT_OUT_OF_RANGE g, TE_CVT_CNT_NAN_LOST g, TE_ACC_CNT_ACC_SAT g, TE_CTRL_CHK_NAN_SEEN g, TE_CTRL_CHK_SAT_SEEN g, TE_CTRL_CHK_INF_SEEN g]
          ++ (List.range 4).map BT_HBM_HEALTH_LOST_USED) [] s t
    (∀ x y : List Int, x.length = y.length → x.length ≤ 32 → (dotInt x y).1 = satS 32 ((x.zip y).foldl (fun n p => n + p.1 * p.2) 0))
    ∧ (∀ (v w : Val) (x y : List Val), x.length = y.length → x.length < 32 →
        dotFloat (v :: x) (w :: y) = f32 (((x.zip y).map fun p => p.1.mul p.2).foldl Val.add (v.mul w)))
    ∧ (∀ op c, ((op = 0x40 ∧ c = Instr.matmul u ecc) ∨ (op = 0x41 ∧ c = Instr.conv u ecc)) → workingJob s u op = some j →
        ∀ p, pairPath (dAFmt d) (dBFmt d) = some p → dRaw d = true →
        let a := matOf d p
        legal (a.aRanges ++ a.bRows) a.outRows →
        ends c a.outRows ((a.accs rd).map fun r => r.flatMap fun x => leBytes 4 x.1))
    ∧ (workingJob s u 0x42 = some j → isScaled (dOutFmt d) = false → dAct d = false →
        let m := elRows d
        let n := elCols d
        let ys := if dField d 4 63 32 = 0 then 1 else m
        let x (i : Nat) : List Nat := (rowVals (dAFmt d) n (rd (dField d 1 31 0 + i * dField d 4 31 0) (rowBytes (dAFmt d) n))).map toF32
        let y (i : Nat) : List Nat := if elBinary d then (rowVals (dBFmt d) n (rd (dField d 1 63 32 + (if ys = 1 then 0 else i) * dField d 4 63 32) (rowBytes (dBFmt d) n))).map toF32 else []
        legal (tensorRanges d).1 (tensorRanges d).2 →
        ends (.eltwise u ecc) (tensorRanges d).2 ((List.range m).map fun i =>
          (convertRow (dOutFmt d) (srRow (dSR d) (dField d 6 63 32) i n) (((x i).zipIdx.map fun q => elOp (dOpx d) q.1 ((y i).getD q.2 0)).map f32Val)).bytes))
    ∧ (workingJob s u 0x43 = some j →
        let rows := (tensorRanges d).1.map fun r => (rowVals (dAFmt d) (elCols d) (rd r.1 r.2)).map toF32
        let lists := if rdAxis d then (List.range (elCols d)).map fun c => rows.map fun r => r.getD c 0 else rows
        legal (tensorRanges d).1 (tensorRanges d).2 →
        ends (.reduce u ecc) (tensorRanges d).2 [(lists.map fun xs =>
          if rdOp d = 4 ∨ rdOp d = 5 then rdArg (rdOp d) xs else if rdAxis d then (rdFold (rdOp d) (xs.map (rdElem (rdOp d)))).getD 0
          else rdLanes (rdOp d) (xs.map (rdElem (rdOp d)))).flatMap (leBytes 4)])

/-- O44: Golden comparisons: a right signature passes, a wrong or missing one fails the engine with doubt, a test is seen and fails nothing (R169 to R171). (R169, R170, R171, R151) -/
def Obligations.GoldenSignaturesAreCompared : Prop :=
  (∀ (g step : Nat) (wrong : Option (Option Nat)) (s : State), g < 36 → step = s.frameIdx → step < 20 → stepRun s g = true →
      (s.get (TE_STATUS_STATE g) = 1 ∨ s.get (TE_STATUS_STATE g) = 2) → s.get (TE_STATUS_SERVES g) < 16 →
      let u := 9 * (g / 9) + s.get (TE_STATUS_SERVES g)
      let shown := shownSig (goldenSig step) wrong
      let want := s.get (TE_GOLD_SIG_SIG g step)
      let test := s.eng.sigTest.contains g
      ∃ t, exec (.goldenCompare g step wrong) s = .next t ∧ t.get (TE_STATUS_GOLD_STEP g) = step ∧ g ∈ t.plan.compared
        ∧ (∀ v, shown = some v → t.get (TE_GOLD_LAST_SIG g) = v % 2 ^ 64)
        ∧ (test = false → shown = some want → g ∈ t.eng.passed
            ∧ t = { s with regs := t.regs, eng := { s.eng with passed := t.eng.passed }, plan := { s.plan with slots := t.plan.slots, compared := g :: s.plan.compared } }
            ∧ RegsBut [TE_STATUS_GOLD_STEP g, TE_GOLD_LAST_SIG g, RM_MISS_CNT_WCET_OVER] [] s t
            ∧ (∀ p, s.get (TE_STATUS_STATE g) = 1 → safeSlot s u = some p → t.slotRun p.id = { s.slotRun p.id with matched := true }))
        ∧ (test = false → shown ≠ some want → g ∈ t.eng.failedEng
            ∧ t.get (TE_GOLD_STAT_FAIL_CNT g) = min (s.get (TE_GOLD_STAT_FAIL_CNT g) + 1) 0xFFFF
            ∧ (shown = none → t.is (TE_GOLD_STAT_MISSING g) = true) ∧ (shown ≠ none → t.is (TE_GOLD_STAT_MISMATCH g) = true)
            ∧ t.isl.wires = s.isl.wires ++ (if s.get (TE_STATUS_STATE g) = 1 then [(0, g / 9)] else [])
            ∧ t.fw = s.fw ∧ t.doubt = s.doubt ∧ t.time = s.time ∧ t.tt = s.tt)
        ∧ (∀ v, test = true → shown = some v → g ∉ t.eng.sigTest ∧ t.eng.failedEng = s.eng.failedEng
            ∧ t.get (TE_GOLD_STAT_FAIL_CNT g) = s.get (TE_GOLD_STAT_FAIL_CNT g) ∧ t.get (TE_GOLD_STAT_MISMATCH g) = s.get (TE_GOLD_STAT_MISMATCH g)
            ∧ t.isl.wires = s.isl.wires ∧ t.mem = s.mem
            ∧ (v ≠ 2 ^ 64 - 1 - want → t.is (TE_GOLD_STAT_TEST_SEEN g) = true ∧ t.doubt = s.doubt)
            ∧ (v = 2 ^ 64 - 1 - want → s.isl.awaiting.contains (55 + g) = true → bit t.doubt.bits 10 = true)))
    ∧ (∀ (g step : Nat) (wrong : Option (Option Nat)) (s : State), step ≠ s.frameIdx ∨ stepRun s g = false → exec (.goldenCompare g step wrong) s = .next s)
    ∧ (∀ (u g : Nat) (wrong : List (Nat × Option Nat)) (s : State) (j : Job), isEngineUnit u = true → workingJob s u 0x44 = some j → serving s u = some g →
      let right (st : Nat) : Prop := shownSig (goldenSig st) (wrongAt wrong st) = some (s.get (TE_GOLD_SIG_SIG g st))
      ((∀ st ∈ stepsOf (stepMask j.desc), right st) → ∃ t, exec (.golden u wrong) s = .next t ∧ g ∈ t.eng.passed
          ∧ t = { s with regs := t.regs, eng := { s.eng with passed := t.eng.passed }, rm := { s.rm with units := mset s.rm.units u { s.unit u with running := some { j with status := some 0, stopWith := none } } } }
          ∧ RegsBut [TE_STATUS_GOLD_STEP g, TE_GOLD_LAST_SIG g] [] s t)
      ∧ (∀ st ∈ stepsOf (stepMask j.desc), ¬right st → ∃ t, exec (.golden u wrong) s = .next t ∧ g ∈ t.eng.failedEng
          ∧ t.is (TE_GOLD_STAT_MISMATCH g) = true ∧ t.isl.wires = s.isl.wires ∧ t.doubt = s.doubt))
    ∧ (∀ (init tkt g : Nat) (s : State), isInit init = true → isTicket tkt = true → g < 36 → isIsland init = true →
      Reaches s init tkt 1 (pageAddr (pageTE g) 0x010) 8 →
      exec (.teSigTest init tkt g) s = .next { s with eng := { s.eng with sigTest := g :: s.eng.sigTest.filter fun y => y != g } })

/-- O45: The KV check and KV_GOLD: a right signature passes, a wrong or missing one fails the KV unit, a test fails nothing (R264, R265). (R264, R265) -/
def Obligations.KvChecksAreCompared : Prop :=
  (∀ (d step : Nat) (wrong : Option (Option Nat)) (s : State), d < 4 → step = s.frameIdx → step < 20 → safeRunning s (36 + d) = true →
      s.plan.compared.contains (36 + d) = false → s.get (KV_STATUS_STATE d) = 1 →
      let shown := shownSig (kvSig step) wrong
      let want := s.get (KV_GOLD_SIG_SIG d step)
      let test := s.eng.kvSigTest.contains d
      ∃ t, exec (.kvCheckCompare d step wrong) s = .next t
        ∧ (test = false → shown = some want →
            t = { s with regs := t.regs, plan := { s.plan with slots := t.plan.slots, compared := (36 + d) :: s.plan.compared } }
            ∧ RegsBut [RM_MISS_CNT_WCET_OVER] [] s t
            ∧ ∀ p, safeSlot s (36 + d) = some p → t.slotRun p.id = { s.slotRun p.id with matched := true })
        ∧ (test = false → shown ≠ some want → d ∈ t.eng.failedKv
            ∧ t.get (KV_GOLD_STAT_FAIL_CNT d) = min (s.get (KV_GOLD_STAT_FAIL_CNT d) + 1) 0xFFFF
            ∧ (shown = none → t.is (KV_GOLD_STAT_MISSING d) = true) ∧ (shown ≠ none → t.is (KV_GOLD_STAT_MISMATCH d) = true)
            ∧ t.isl.wires = s.isl.wires ++ [(0, d)] ∧ t.fw = s.fw ∧ t.doubt = s.doubt ∧ t.time = s.time ∧ t.tt = s.tt)
        ∧ (∀ v, test = true → shown = some v → d ∉ t.eng.kvSigTest ∧ t.eng.failedKv = s.eng.failedKv
            ∧ t.get (KV_GOLD_STAT_FAIL_CNT d) = s.get (KV_GOLD_STAT_FAIL_CNT d) ∧ t.isl.wires = s.isl.wires ∧ t.mem = s.mem
            ∧ (v ≠ 2 ^ 64 - 1 - want → t.is (KV_GOLD_STAT_TEST_SEEN d) = true ∧ t.doubt = s.doubt)))
    ∧ (∀ (d step : Nat) (wrong : Option (Option Nat)) (s : State), step ≠ s.frameIdx ∨ safeRunning s (36 + d) = false → exec (.kvCheckCompare d step wrong) s = .next s)
    ∧ (∀ (u : Nat) (wrong : List (Nat × Option Nat)) (s : State) (j : Job), isKvUnit u = true → workingJob s u 0x64 = some j → s.eng.failedKv.contains (u - 36) = false →
      let right (st : Nat) : Prop := shownSig (kvSig st) (wrongAt wrong st) = some (s.get (KV_GOLD_SIG_SIG (u - 36) st))
      ((∀ st ∈ stepsOf (stepMask j.desc), right st) → exec (.kvGold u wrong) s
          = .next { s with rm := { s.rm with units := mset s.rm.units u { s.unit u with running := some { j with status := some 0, stopWith := none } } } })
      ∧ (∀ st ∈ stepsOf (stepMask j.desc), ¬right st → ∃ t, exec (.kvGold u wrong) s = .next t ∧ u - 36 ∈ t.eng.failedKv
          ∧ t.is (KV_GOLD_STAT_MISMATCH (u - 36)) = true ∧ t.isl.wires = s.isl.wires ∧ t.doubt = s.doubt))
    ∧ (∀ (init tkt d : Nat) (s : State), isInit init = true → isTicket tkt = true → d < 4 → isIsland init = true →
      Reaches s init tkt 1 (pageAddr (pageKV d) 0x010) 8 →
      exec (.kvSigTest init tkt d) s = .next { s with eng := { s.eng with kvSigTest := d :: s.eng.kvSigTest.filter fun y => y != d } })

/-- O46: APPEND, ATTN and ATTN_BWD take their batch entry in its context, and end with DONE or with the status that stops it (R235, R236, R240, R252, R255, R256). (R214, R235, R236, R240, R252, R255, R256) -/
def Obligations.KvUnitsRunTheirEntries : Prop :=
  (∀ (d c : List Byte) (m : Mask) (q0 r : Nat) (q : List Nat),
      attnRow d c m q0 r q [] = (List.replicate (cDim c) 0, f32Inf true, f32Inf true))
    ∧ (∀ (m : Mask) (r q k : Nat), q < k → allowed true m r q k = false)
    ∧ (∀ (c : List Byte) (p : PageRef) (k n : Nat), tokenRanges c p k n
        = [(p.addr + k % cTpp c * (cDim c * fmtBits (cFmt c) / 8), n * (cDim c * fmtBits (cFmt c) / 8)),
          (p.addr + 16384 + k % cTpp c * (cDim c * fmtBits (cFmt c) / 8), n * (cDim c * fmtBits (cFmt c) / 8))])
    ∧ ∀ (u : Nat) (ecc : Ecc) (races : Races) (s : State) (j : Job) (e : Entry), isKvUnit u = true → ecc.corr = [] → s.eng.failedKv.contains (u - 36) = false →
      result (batchE s u j.ticket ecc j.desc) = .ok [e] → e.ok = true → e.qrows ≠ 0 →
      ((mget s.hot.entries e.ctx).isSome = true ∨ (ctxCheck s j.ticket 0 e.ctx).1 = 0) →
      let s1 := (s.act (chargeSpans u j.ticket (spans (batchE s u j.ticket ecc j.desc)))).act (useCtx j.ticket e.ctx)
      let runs (c : Instr) (r : Rd Act) : Prop :=
        (∀ a, result r = .ok a → exec c s = .next (((s1.act (chargeSpans u j.ticket (spans r))).act a).act (endRunning u 0)))
        ∧ (∀ x, result r = .error x → x.res.1 = 0 → ∃ t, exec c s = .next t
            ∧ ((t.unit u).running.map fun k => (k.status, k.entry)) = ((s1.unit u).running.map fun k => if k.status.isSome then (k.status, k.entry) else (some x.st, 0)))
      (workingJob s u 0x60 = some j → runs (.append u ecc) (appendEntry s1 u j.ticket ecc j.desc e))
      ∧ (workingJob s u 0x61 = some j → runs (.attn u ⟨ecc, races⟩) (attnEntry s1 u j.ticket ecc races j.kept 0 j.desc e))
      ∧ (workingJob s u 0x62 = some j → runs (.attnBwd u ⟨ecc, races⟩) (bwdEntry false s1 u j.ticket ecc races j.desc e))

/-- O47: CTX: WRITE, READ, ADVANCE, TRUNCATE, PIN, UNPIN, RELEASE and SUMMARY of one entry (R226, R237, R238, Table 6-6). (R226, R237, R238, R242) -/
def Obligations.ContextsAreWrittenAndPinned : Prop :=
  ∀ (u : Nat) (ecc : Ecc) (s : State) (j : Job) (e : Entry), isKvUnit u = true → ecc.corr = [] → s.eng.failedKv.contains (u - 36) = false →
    workingJob s u 0x63 = some j → result (batchE s u j.ticket ecc j.desc) = .ok [e] → e.ok = true →
    ((mget s.hot.entries e.ctx).isSome = true ∨ (ctxCheck s j.ticket 0 e.ctx).1 = 0) →
    let s1 := (s.act (chargeSpans u j.ticket (spans (batchE s u j.ticket ecc j.desc)))).act (useCtx j.ticket e.ctx)
    let c := ctxBytes s1 e.ctx
    let a := dField j.desc 1 47 0
    let done (t : State) (st : Nat) : Prop := (s1.unit u).running = some j → (t.unit u).running = some { j with status := some st, stopWith := none }
    let others (t : State) : Prop := t = { s1 with ts := t.ts, hot := { s1.hot with entries := t.hot.entries, spoiled := t.hot.spoiled }, rm := { s1.rm with units := t.rm.units } }
        ∧ ∀ k, k ≠ e.ctx → mget t.hot.entries k = mget s1.hot.entries k
    (dOpx j.desc = 0 → (checkRange s1 u j.ticket 0 ecc a 128).1 = 0 → ∃ t, exec (.ctxWrite u ecc) s = .next t ∧ done t 0 ∧ others t
        ∧ ctxBytes t e.ctx = cSetBatch (readRange s1 a 128) (cInBatch c) (cGroup c))
    ∧ (dOpx j.desc = 1 → ctxOk c = true → (checkRange s1 u j.ticket 1 ecc a 128).1 = 0 → ∃ t, exec (.ctxRead u ecc) s = .next t ∧ done t 0
        ∧ t.mem = (s1.act (writeRange a c)).mem ∧ t.hot.entries = s1.hot.entries)
    ∧ (dOpx j.desc = 2 → ctxOk c = true → cLength c + e.qrows ≤ 1048576 → ∃ t, exec (.ctxAdvance u ecc) s = .next t ∧ done t 0 ∧ others t
        ∧ cLength (ctxBytes t e.ctx) = cLength c + e.qrows ∧ (ctxBytes t e.ctx).drop 8 = c.drop 8)
    ∧ (dOpx j.desc = 2 → ctxOk c = true → 1048576 < cLength c + e.qrows → ∃ t, exec (.ctxAdvance u ecc) s = .next t ∧ t.hot = s1.hot
        ∧ ((s1.unit u).running = some j → ((t.unit u).running.map fun k => (k.status, k.entry)) = some (some 0x13, 0)))
    ∧ (dOpx j.desc = 3 → ctxOk c = true → e.qrows ≤ cLength c → ∀ p, result (eachPage u j ecc s1 c ((List.range (cBlocks c - e.qrows / cTpp c)).map fun i => e.qrows / cTpp c + i)
          fun b p => writeRange p.pteAddr (leBytes 8 (pteSetFill (pteBump p.pte) (if b = e.qrows / cTpp c then e.qrows % cTpp c else 0)))) = .ok p →
        ∃ t, exec (.ctxTruncate u ecc) s = .next t ∧ done t 0 ∧ t.mem = (s1.act p).mem ∧ cLength (ctxBytes t e.ctx) = e.qrows)
    ∧ (dOpx j.desc = 3 → ctxOk c = true → cLength c < e.qrows → ∃ t, exec (.ctxTruncate u ecc) s = .next t ∧ t.hot = s1.hot
        ∧ ((s1.unit u).running = some j → ((t.unit u).running.map fun k => (k.status, k.entry)) = some (some 0x02, 0)))
    ∧ (dOpx j.desc = 4 → ctxOk c = true → wouldPin s1 e.ctx ≤ 3584 → ∃ t, exec (.ctxPin u ecc) s = .next t ∧ done t 0 ∧ others t
        ∧ (mget t.hot.entries e.ctx).map (fun h => (h.pinSw, h.data)) = (mget s1.hot.entries e.ctx).map fun h => (true, h.data))
    ∧ (dOpx j.desc = 4 → ctxOk c = true → 3584 < wouldPin s1 e.ctx → ∃ t, exec (.ctxPin u ecc) s = .next t ∧ t.hot = s1.hot
        ∧ ((s1.unit u).running = some j → ((t.unit u).running.map fun k => (k.status, k.entry)) = some (some 0x14, 0)))
    ∧ (dOpx j.desc = 5 → ctxOk c = true → ∃ t, exec (.ctxUnpin u ecc) s = .next t ∧ done t 0 ∧ others t
        ∧ (mget t.hot.entries e.ctx).map (fun h => (h.pinSw, h.data)) = (mget s1.hot.entries e.ctx).map fun h => (false, h.data))
    ∧ (dOpx j.desc = 6 → ctxOk c = true → (checkRange s1 u j.ticket 1 ecc (cPlHead c) (4 * min (cPlCap c) (cBlocks c * cLh c))).1 = 0 → ∀ p,
        result (eachPage u j ecc s1 c (List.range (cBlocks c)) fun _ p => seq [writeRange p.pteAddr (leBytes 8 (clearBit (pteBump p.pte) 62)),
          charge u j.ticket true (cPlHead c + 4 * p.lp) 4, writeRange (cPlHead c + 4 * p.lp) (leBytes 4 (clearBit p.entry 31))]) = .ok p →
        ∃ t, exec (.ctxRelease u ecc) s = .next t ∧ done t 0 ∧ t.mem = (s1.act p).mem ∧ cLength (ctxBytes t e.ctx) = 0)
    ∧ (dOpx j.desc = 7 → ctxOk c = true → cIdx c = 0 → ∃ t, exec (.ctxSummary u ecc) s = .next t ∧ done t 0 ∧ t = { s1 with ts := t.ts, rm := { s1.rm with units := t.rm.units } })
    ∧ (dOpx j.desc = 7 → ctxOk c = true → cIdx c ≠ 0 →
        (∀ b < cBlocks c, ∀ h ∈ kvHeads j.desc, ∃ p, result (pageE s1 u j.ticket ecc c (b * cLh c + h)) = .ok p ∧ p.owned e.ctx = true
          ∧ (checkRange s1 u j.ticket 0 ecc p.addr (pteFill p.pte * cRow c)).1 = 0
          ∧ (pteFill p.pte ≠ 0 → (checkRange s1 u j.ticket 1 ecc (cIdx c + 64 * p.lp) 64).1 = 0)) →
        ∃ t, exec (.ctxSummary u ecc) s = .next t ∧ done t 0 ∧ t.hot.entries = s1.hot.entries
          ∧ t.mem = (s1.act (forA (List.range (cBlocks c)) fun b => forA (kvHeads j.desc) fun h => match result (pageE s1 u j.ticket ecc c (b * cLh c + h)) with
              | .ok p => withS fun s2 => whenA (pteFill p.pte != 0)
                  (writeRange (cIdx c + 64 * p.lp) (summary c (pteFill p.pte) (readRange s2 p.addr (pteFill p.pte * cRow c))))
              | .error _ => skip)).mem)

/-- O48: Serving groups: JOIN, LEAVE and SETQ apply or are refused with REQ_ERR, STEP asks, a publication writes the list of the next step (R310 to R313). (R259, R310, R311, R312, R313) -/
def Obligations.ServingGroupsTakeRequestsAndPublish : Prop :=
  (∀ (init g ctx qrows : Nat) (s : State), isInit init = true → g < 16 → ctx < 2 ^ 18 → qrows < 2 ^ 20 →
      Reaches s init (ticketOf s init) 1 (pageAddr 3 0x480) 8 →
      let on := s.is (RM_SG_CFG_ENABLE g)
      let x := s.group g
      let free : Prop := ∀ h < 16, ctx ∉ (s.group h).published ∧ ∀ m ∈ (s.group h).members, m.1 ≠ ctx
      let pend : Prop := ∃ m ∈ x.members, m.1 = ctx
      let takes (c : Instr) (ms : List (Nat × Nat)) : Prop := exec c s = .next { s with rm := { s.rm with groups := mset s.rm.groups g { x with members := ms } } }
      let refused (c : Instr) : Prop := ∃ t, exec c s = .next t ∧ t.get (RM_SG_STAT_REQ_ERR g) = 1 ∧ bit (t.get (INT_STAT 3)) 6 = true
        ∧ t = { s with regs := t.regs, log := t.log, bus := { s.bus with files := t.bus.files } }
        ∧ RegsBut [RM_SG_STAT_REQ_ERR g, INT_STAT 3] [1, 21, 37, 53, 69] s t
      (on = true → qrows ≠ 0 → free → x.members.length < 1024 → takes (.sgJoin init g ctx qrows) (x.members ++ [(ctx, qrows)]))
      ∧ (on = false ∨ qrows = 0 ∨ ¬free ∨ 1024 ≤ x.members.length → refused (.sgJoin init g ctx qrows))
      ∧ (on = true → pend → takes (.sgLeave init g ctx) (x.members.filter fun m => m.1 != ctx))
      ∧ (on = false ∨ ¬pend → refused (.sgLeave init g ctx))
      ∧ (on = true → qrows ≠ 0 → pend → takes (.sgSetq init g ctx qrows) (x.members.map fun m => if m.1 = ctx then (ctx, qrows) else m))
      ∧ (on = false ∨ qrows = 0 ∨ ¬pend → refused (.sgSetq init g ctx qrows)))
    ∧ (∀ (init mask : Nat) (s : State), isInit init = true → mask < 2 ^ 16 → Reaches s init (ticketOf s init) 1 (pageAddr 3 0x488) 4 →
      let named (g : Nat) : Prop := bit mask g = true ∧ s.is (RM_SG_CFG_ENABLE g) = true
      ∃ t, exec (.sgStep init mask) s = .next t ∧ t = { s with regs := t.regs, rm := { s.rm with groups := t.rm.groups } }
        ∧ (∀ g, t.group g = { s.group g with after := (t.group g).after })
        ∧ (∀ g h, h ∈ (t.group g).after ↔ h ∈ (s.group g).after ∨ (g < 16 ∧ named g ∧ named h ∧ h < g))
        ∧ RegsBut ((List.range 16).flatMap fun g => [RM_SG_STAT_PENDING g, RM_SG_STAT_STEP_MERGED g]) [] s t
        ∧ ∀ g < 16, (bit mask g = true → s.is (RM_SG_CFG_ENABLE g) = true → t.is (RM_SG_STAT_PENDING g) = true
              ∧ (s.is (RM_SG_STAT_PENDING g) = true → t.get (RM_SG_STAT_STEP_MERGED g) = 1)
              ∧ (s.is (RM_SG_STAT_PENDING g) = false → t.get (RM_SG_STAT_STEP_MERGED g) = s.get (RM_SG_STAT_STEP_MERGED g)))
            ∧ (bit mask g = false ∨ s.is (RM_SG_CFG_ENABLE g) = false → t.get (RM_SG_STAT_PENDING g) = s.get (RM_SG_STAT_PENDING g)
              ∧ t.get (RM_SG_STAT_STEP_MERGED g) = s.get (RM_SG_STAT_STEP_MERGED g)))
    ∧ (∀ (g : Nat) (ecc : Ecc) (s : State), g < 16 →
      let x := s.group g
      let n := x.nextStep
      let a := s.get (RM_SG_CFG_BUF_BASE g) + n % 2 * 0x8000
      let ready : Prop := stacksUsable s = true ∧ s.is (RM_SG_CFG_ENABLE g) = true ∧ s.is RM_CTRL_SG_EN_ALL = true ∧ s.is (RM_SG_STAT_PENDING g) = true
        ∧ x.after = [] ∧ bufferInUse s g (n % 2) = false
      (¬ready → exec (.sgPublish g ecc) s = .next s)
      ∧ (ready → (checkRange s 0x0A0 (s.get FW_HK_TKT_PLAN_TKT) 1 ecc a (listBytes n x.members).length).1 = 0 → ∃ t, exec (.sgPublish g ecc) s = .next t
          ∧ t.group g = ⟨x.members.map fun m => (m.1, 1), x.members.map Prod.fst, (n + 1) % 2 ^ 32, []⟩
          ∧ (∀ h, h ≠ g → t.group h = { s.group h with after := (s.group h).after.filter fun k => k != g })
          ∧ t.get (RM_SG_STAT_STEP g) = n % 2 ^ 32 ∧ t.get (RM_SG_STAT_MEMBERS g) = x.members.length % 2 ^ 11 ∧ t.get (RM_SG_STAT_PENDING g) = 0
          ∧ (x.published = x.members.map Prod.fst →
              t.mem = (s.act (writeRange a (leBytes 8 (n % 2 ^ 32 + x.members.length * 2 ^ 32) ++ List.replicate 56 0#8 ++ listEntries 0 (byCtx x.members)))).mem
              ∧ t.hot.entries = s.hot.entries
              ∧ (s.is (RM_SG_CFG_POST_EN g) = true → s.get (CE_CTR_VALUE (s.get (RM_SG_CFG_CTR_DIE g)) (s.get (RM_SG_CFG_POST_CTR g))) < 0xFFFF →
                  s.get (RM_SG_CFG_CTR_DIE g) < 4 → s.get (RM_SG_CFG_POST_CTR g) < 256 →
                  t.get (CE_CTR_VALUE (s.get (RM_SG_CFG_CTR_DIE g)) (s.get (RM_SG_CFG_POST_CTR g)))
                    = s.get (CE_CTR_VALUE (s.get (RM_SG_CFG_CTR_DIE g)) (s.get (RM_SG_CFG_POST_CTR g))) + 1))))
    ∧ (∀ (init tkt g : Nat) (s : State), isInit init = true → isTicket tkt = true → g < 16 → Reaches s init tkt 1 (pageAddr 3 (0x400 + 8 * g)) 8 →
      (s.is (RM_SG_CFG_ENABLE g) = false → exec (.sgDisable init tkt g) s = .next s)
      ∧ (s.is (RM_SG_CFG_ENABLE g) = true → ∃ t, exec (.sgDisable init tkt g) s = .next t ∧ t.group g = ⟨[], [], 0, []⟩
          ∧ (∀ h, h ≠ g → t.group h = { s.group h with after := (s.group h).after.filter fun k => k != g })
          ∧ t.is (RM_SG_CFG_ENABLE g) = false ∧ t.is (RM_SG_STAT_PENDING g) = false ∧ t.get (RM_SG_STAT_MEMBERS g) = 0
          ∧ ((s.group g).published = [] → t = { s with regs := t.regs, rm := { s.rm with groups := t.rm.groups } }
              ∧ RegsBut [RM_SG_CFG_ENABLE g, RM_SG_STAT_PENDING g, RM_SG_STAT_MEMBERS g] [] s t)))

/-- O49: STAGE, its read, ACTIVATE, STOP and DISCARD by the island: what they stage, schedule or refuse with a code of Table 7-7 (R284 to R290). (R284, R285, R286, R287, R289, R290) -/
def Obligations.PlansAreStagedActivatedAndStopped : Prop :=
  ∀ s : State,
    let busy : Prop := s.plan.reading.isSome = true ∨ s.plan.next.isSome = true ∨ s.plan.stopping = true
    let refused (c : Instr) (code : Nat) : Prop := ∃ t, exec c s = .next t ∧ t.get RM_PLAN_STAT_LAST = 2 ∧ t.get RM_PLAN_STAT_REJ_REASON = code % 256
      ∧ bit (t.get (INT_STAT 3)) 0 = true ∧ t.plan.inForce = s.plan.inForce ∧ t.plan.next = s.plan.next ∧ t.plan.slots = s.plan.slots
      ∧ t = { s with regs := t.regs, log := t.log, plan := t.plan, bus := { s.bus with files := t.bus.files } }
      ∧ RegsBut [RM_PLAN_STAT_LAST, RM_PLAN_STAT_REJ_REASON, RM_STATUS_STAGED, INT_STAT 3] [1, 21, 37, 53, 69] s t
    (∀ init tkt, isInit init = true → isTicket tkt = true → isIsland init = true → Reaches s init tkt 1 (pageAddr 3 0x108) 8 →
      (busy → ∀ c ∈ [Instr.stage init tkt, .activate init tkt, .stop init tkt, .discard init tkt], ∃ t, exec c s = .next t
          ∧ t.get RM_PLAN_STAT_LAST = 3 ∧ bit (t.get (INT_STAT 3)) 0 = true ∧ t = { s with regs := t.regs, bus := { s.bus with files := t.bus.files } }
          ∧ RegsBut [RM_PLAN_STAT_LAST, INT_STAT 3] [] s t)
      ∧ (¬busy → s.get RM_PLAN_ADDR_ADDR % 64 = 0 → ∃ t, exec (.stage init tkt) s = .next t
          ∧ t = { s with regs := t.regs, plan := { s.plan with staged := none, reading := some (s.get RM_PLAN_ADDR_ADDR) } } ∧ t.get RM_STATUS_STAGED = 0 ∧ RegsBut [RM_STATUS_STAGED] [] s t)
      ∧ (¬busy → s.get RM_PLAN_ADDR_ADDR % 64 ≠ 0 → refused (.stage init tkt) 0x0C)
      ∧ (¬busy → s.plan.staged = none → refused (.activate init tkt) 0x0E)
      ∧ (∀ p, ¬busy → s.plan.staged = some p → activateCode s p ≠ 0 → refused (.activate init tkt) (activateCode s p))
      ∧ (∀ p, ¬busy → s.plan.staged = some p → activateCode s p = 0 → ∃ t, exec (.activate init tkt) s = .next t
          ∧ t.plan = { s.plan with staged := none, next := some (p, s.grid.now + if s.plan.inForce.isSome then 55000 else 550000) }
          ∧ t.get RM_STATUS_STAGED = 0 ∧ t.get RM_STATUS_PLAN = 2 ∧ t.get RM_PLAN_STAT_LAST = 1 ∧ t.get RM_PLAN_STAT_REJ_REASON = 0
          ∧ (p.pins = [] → t = { s with regs := t.regs, plan := t.plan, bus := { s.bus with files := t.bus.files } }
              ∧ RegsBut [RM_PLAN_STAT_LAST, RM_PLAN_STAT_REJ_REASON, RM_STATUS_STAGED, RM_STATUS_PLAN, INT_STAT 3] [] s t))
      ∧ (¬busy → s.is TT_CTRL_RUN = true → refused (.stop init tkt) 0x0D)
      ∧ (¬busy → s.is TT_CTRL_RUN = false → ∃ t, exec (.stop init tkt) s = .next t ∧ t.get RM_PLAN_STAT_LAST = 1 ∧ t.get RM_PLAN_STAT_REJ_REASON = 0
          ∧ (s.plan.inForce.isSome = true → t.get RM_STATUS_PLAN = 3)
          ∧ t = { s with regs := t.regs, plan := { s.plan with stopping := s.plan.inForce.isSome } }
          ∧ RegsBut [RM_PLAN_STAT_LAST, RM_PLAN_STAT_REJ_REASON, RM_STATUS_PLAN] [] s t)
      ∧ (¬busy → ∃ t, exec (.discard init tkt) s = .next t ∧ t = { s with regs := t.regs, plan := { s.plan with staged := none } }
          ∧ t.get RM_STATUS_STAGED = 0 ∧ t.get RM_PLAN_STAT_LAST = 1 ∧ RegsBut [RM_PLAN_STAT_LAST, RM_PLAN_STAT_REJ_REASON, RM_STATUS_STAGED] [] s t))
    ∧ (∀ ecc a, ecc.corr = [] → s.plan.reading = some a → s.boot.step ≠ 11 →
      let k := planBytes (readRange s a 128)
      let n := if 128 ≤ k ∧ k ≤ 0x100000 then k else 128
      (checkRange s 0x0A0 (s.get FW_HK_TKT_PLAN_TKT) 0 ecc a 128).1 = 0 → (checkRange s 0x0A0 (s.get FW_HK_TKT_PLAN_TKT) 0 ecc a n).1 = 0 →
      (stageCode (readRange s a n) = 0 → ∃ t, exec (.stageReadDone ecc) s = .next t
          ∧ t = { s with regs := t.regs, plan := { s.plan with reading := none, staged := some (planOf (readRange s a n)) }, ts := t.ts, bus := { s.bus with files := t.bus.files } }
          ∧ t.get RM_STATUS_STAGED = 1 ∧ t.get RM_PLAN_STAT_LAST = 1 ∧ t.get RM_PLAN_STAT_REJ_REASON = 0 ∧ bit (t.get (INT_STAT 3)) 0 = true
          ∧ RegsBut [RM_PLAN_STAT_LAST, RM_PLAN_STAT_REJ_REASON, RM_STATUS_STAGED, INT_STAT 3] [] s t)
      ∧ (stageCode (readRange s a n) ≠ 0 → ∃ t, exec (.stageReadDone ecc) s = .next t ∧ t.get RM_PLAN_STAT_LAST = 2
          ∧ t.get RM_PLAN_STAT_REJ_REASON = stageCode (readRange s a n) % 256 ∧ t.plan = { s.plan with reading := none }))

/-- O50: APPEND, ATTN and ATTN_BWD of one entry complete with DONE when its operands, context and pages can be used, and store what Chapter 6 computes. (R235, R236, R240, R242, R243, R249, R252, R255, R256, R257) -/
def Obligations.KvEntriesComplete : Prop :=
  ∀ (u : Nat) (ecc : Ecc) (races : Races) (s : State) (j : Job) (e : Entry), isKvUnit u = true → ecc.corr = [] → s.eng.failedKv.contains (u - 36) = false →
    result (batchE s u j.ticket ecc j.desc) = .ok [e] → e.ok = true → e.qrows ≠ 0 →
    ((mget s.hot.entries e.ctx).isSome = true ∨ (ctxCheck s j.ticket 0 e.ctx).1 = 0) →
    let s1 := (s.act (chargeSpans u j.ticket (spans (batchE s u j.ticket ecc j.desc)))).act (useCtx j.ticket e.ctx)
    let d := j.desc
    let c := ctxBytes s1 e.ctx
    let at_ (off : Nat) : Nat := dieAddr (u - 36) off
    let mrd (a n : Nat) : Prop := (checkRange s1 u j.ticket 0 ecc a n).1 = 0
    let mwr (a n : Nat) : Prop := (checkRange s1 u j.ticket 1 ecc a n).1 = 0
    let rd (off n : Nat) : Prop := inDie off n = true ∧ mrd (at_ off) n
    let wr (off n : Nat) : Prop := inDie off n = true ∧ mwr (at_ off) n
    let freq : List Nat := if kvRope d = true ∧ kvPairs d ≠ 0 then (List.range (kvPairs d)).map fun i => le (readRange s1 (at_ (kvRopeOff d)) (4 * kvPairs d)) (4 * i) 4 else []
    let page (b h : Nat) : Except Stop PageRef := result (pageE s1 u j.ticket ecc c (b * cLh c + h))
    let heads := kvNh d * kvGqa d
    let q0 := cLength c - e.qrows
    let f := kvQFmt d
    let readable (p : PageRef) : Prop := ∀ n ≤ 16384, mrd p.addr n ∧ mrd (p.addr + 16384) n
    ctxOk c = true → e.qrows ≤ cLength c → (kvRope d = true → 2 * kvPairs d ≤ cDim c) →
    (kvRope d = true → kvPairs d ≠ 0 → rd (kvRopeOff d) (4 * kvPairs d)) →
    (workingJob s u 0x60 = some j →
      let n := kvNh d * rowBytes f (cDim c)
      let koff (r : Nat) : Nat := lo32 d 1 + (e.qrow0 + r) * lo32 d 2
      let voff (r : Nat) : Nat := hi32 d 1 + (e.qrow0 + r) * hi32 d 2
      let span (b : Nat) : Nat × Nat := appendSpan c e.qrows b
      (∀ r < e.qrows, rd (koff r) n ∧ rd (voff r) n) →
      (∀ b ∈ appendBlocks c e.qrows, ∀ h ∈ kvHeads d, ∃ p, page b h = .ok p ∧ p.owned e.ctx = true
        ∧ (∀ r ∈ tokenRanges c p (span b).1 (span b).2, mwr r.1 r.2) ∧ mwr p.pteAddr 8
        ∧ (fillsPage c p (span b).1 (span b).2 = true → mrd p.addr ((span b).1 % cTpp c * cRow c) ∧ mwr (cIdx c + 64 * p.lp) 64)) →
      let k (b h i : Nat) : RowConv := convertRow (cFmt c) (fun _ => none)
        ((ropeIf d freq (cPosBase c + (span b).1 + i) false (headOf f (cDim c) (h - kvH0 d) (readRange s1 (at_ (koff ((span b).1 + i - q0))) n))).map fun x =>
          f32Val (fdiv x (cKScale c)))
      let v (b h i : Nat) : RowConv := convertRow (cFmt c) (fun _ => none)
        ((headOf f (cDim c) (h - kvH0 d) (readRange s1 (at_ (voff ((span b).1 + i - q0))) n)).map fun x => f32Val (fdiv x (cVScale c)))
      exec (.append u ecc) s = .next (((s1.act (chargeSpans u j.ticket (spans (appendEntry s1 u j.ticket ecc d e)))).act (forA (appendBlocks c e.qrows) fun b => forA (kvHeads d) fun h => match page b h with
        | .ok p => seq [appendPage c p (span b).1 (span b).2 ((List.range (span b).2).map (k b h)) ((List.range (span b).2).map (v b h)),
            countF (KV_MISC_CNT_OUT_OF_RANGE (u - 36)) ((List.range (span b).2).foldl (fun x i => x + (k b h i).oor + (v b h i).oor) 0)]
        | .error _ => skip)).act (endRunning u 0)))
    ∧ (∀ m, workingJob s u 0x61 = some j → result (maskE s1 u j.ticket ecc c e.qrows) = .ok m →
      let ob := rowBytes (dOutFmt d) (cDim c)
      let qn := heads * rowBytes f (cDim c)
      let qoff (r : Nat) : Nat := lo32 d 1 + (e.qrow0 + r) * lo32 d 2
      let ooff (r : Nat) : Nat := hi32 d 1 + (e.qrow0 + r) * hi32 d 2
      let soff (r : Nat) : Nat := kvStat d + 8 * (e.qrow0 + r) * heads
      let qs : List (List Byte) := (List.range e.qrows).map fun r => readRange s1 (at_ (qoff r)) qn
      let want (b : Nat) : Bool := pageWanted (kvCausal d) m c e.qrows (kvGqa d) b
      (∀ r < e.qrows, rd (qoff r) qn ∧ wr (ooff r) (heads * ob) ∧ wr (soff r) (8 * heads)) →
      (∀ b < cBlocks c, ∀ h ∈ kvHeads d, want b = true → ∃ p, page b h = .ok p ∧ (p.present = true → readable p)
        ∧ (kvRetrieve d = false → p.accepted races (pteGen p.pte) e.ctx = true)) →
      (kvRetrieve d = true → e.qrows * kvGqa d ≤ 128 ∧ cIdx c ≠ 0 ∧ (∀ b < cBlocks c, ∀ h ∈ kvHeads d, mrd (cIdx c + 64 * (b * cLh c + h)) 64)
        ∧ ∀ x ∈ j.kept, ∀ b ∈ x.2.reserve, b < cBlocks c) →
      ∃ got : Nat → List Page × Nat × Nat × List Nat,
        (∀ i < kvNh d, result (if kvRetrieve d then retrieveE s1 u j.ticket ecc races (mget j.kept (keptKey 0 (kvH0 d + i))) d m c e (kvH0 d + i) (groupHeads d c freq e qs i)
          else (fun ps => (ps, 0, 0, List.range (cBlocks c))) <$> allPagesE s1 u j.ticket ecc races (kvCausal d) m c e.ctx e.qrows (kvGqa d) (kvH0 d + i)) = .ok (got i))
        ∧ exec (.attn u ⟨ecc, races⟩) s = .next (((s1.act (chargeSpans u j.ticket (spans (attnEntry s1 u j.ticket ecc races j.kept 0 d e)))).act (forA (List.range (kvNh d)) fun i => seq [
            forA (List.range e.qrows) (fun r => forA (List.range (kvGqa d)) fun g =>
              let o := attnRow d c m q0 r (queryHead d c freq e qs i r g) (got i).1
              seq [writeRange (at_ (ooff r + (i * kvGqa d + g) * ob)) (convertRow (dOutFmt d) (fun _ => none) (o.1.map f32Val)).bytes,
                writeRange (at_ (soff r + 8 * (i * kvGqa d + g))) (leBytes 4 o.2.1 ++ leBytes 4 o.2.2)]),
            countF (KV_STALE_CNT_REPLACED (u - 36)) (got i).2.1, countF (KV_STALE_CNT_DROPPED (u - 36)) (got i).2.2.1,
            countF (KV_MISC_CNT_BLOCKS_SKIPPED (u - 36)) (skippedBlocks (kvCausal d) m c e.qrows (kvGqa d) (got i).2.2.2)])).act (endRunning u 0)))
    ∧ (∀ m, workingJob s u 0x62 = some j → result (maskE s1 u j.ticket ecc c e.qrows) = .ok m →
      let qn := heads * rowBytes f (cDim c)
      let dqn := heads * cDim c * 4
      let dkn := kvNh d * cDim c * 4
      let row (off r n : Nat) : Nat := off + (e.qrow0 + r) * n
      let bytes (off r : Nat) : List Byte := readRange s1 (at_ (row off r qn)) qn
      let hd (b : List Byte) (x : Nat) : List Nat := headOf f (cDim c) x b
      (∀ r < e.qrows, rd (row (lo32 d 1) r qn) qn ∧ rd (row (hi32 d 1) r qn) qn ∧ rd (row (lo32 d 2) r qn) qn
        ∧ rd (kvStat d + 8 * (e.qrow0 + r) * heads) (8 * heads) ∧ wr (row (hi32 d 2) r dqn) dqn) →
      wr (hi32 d 3 + e.krow0 * dkn) (cLength c * dkn) → wr (lo32 d 3 + e.krow0 * dkn) (cLength c * dkn) →
      (∀ b < cBlocks c, ∀ h ∈ kvHeads d, pageWanted (kvCausal d) m c e.qrows (kvGqa d) b = true →
        ∃ p, page b h = .ok p ∧ readable p ∧ p.accepted races (pteGen p.pte) e.ctx = true) →
      let put (off : Nat) (xs : List Nat) : Act := writeRange (at_ off) (xs.flatMap (leBytes 4))
      ∃ ps : Nat → List Page,
        (∀ i < kvNh d, result (allPagesE s1 u j.ticket ecc races (kvCausal d) m c e.ctx e.qrows (kvGqa d) (kvH0 d + i)) = .ok (ps i))
        ∧ exec (.attnBwd u ⟨ecc, races⟩) s = .next (((s1.act (chargeSpans u j.ticket (spans (bwdEntry false s1 u j.ticket ecc races d e)))).act (forA (List.range (kvNh d)) fun i =>
            let a := ((List.range e.qrows).flatMap fun r => (List.range (kvGqa d)).map fun g => (r, g)).foldl (fun a rg =>
              let x := i * kvGqa d + rg.2
              let st := readRange s1 (at_ (kvStat d + 8 * (e.qrow0 + rg.1) * heads)) (8 * heads)
              bwdRow d c m q0 rg.1 (ropeIf d freq (cPosBase c + q0 + rg.1) false (hd (bytes (lo32 d 1) rg.1) x)) (hd (bytes (hi32 d 1) rg.1) x)
                (hd (bytes (lo32 d 2) rg.1) x) (le st (8 * x) 4, le st (8 * x + 4) 4) (ps i) a) ⟨[], [], []⟩
            let zero := List.replicate (cDim c) 0
            seq [
              forA (List.range e.qrows) (fun r => forA (List.range (kvGqa d)) fun g =>
                put (row (hi32 d 2) r dqn + (i * kvGqa d + g) * cDim c * 4) (ropeIf d freq (cPosBase c + q0 + r) true (a.dq.getD (r * kvGqa d + g) zero))),
              forA (List.range (cLength c)) (fun t => seq [
                put (hi32 d 3 + (e.krow0 + t) * dkn + i * cDim c * 4) (ropeIf d freq (cPosBase c + t) true ((mget a.dk t).getD zero)),
                put (lo32 d 3 + (e.krow0 + t) * dkn + i * cDim c * 4) ((mget a.dv t).getD zero)]),
              countF (KV_MISC_CNT_BLOCKS_SKIPPED (u - 36)) (skippedBlocks (kvCausal d) m c e.qrows (kvGqa d) (List.range (cBlocks c)))])).act (endRunning u 0)))

/-- O51: A sample that a stream takes is discarded or stored in its slot and counted; streams are enabled and reinstated by writes (R382 to R392, R401, R404). (R382, R383, R384, R385, R386, R387, R388, R389, R392, R401, R404, R405) -/
def Obligations.SamplesEnterTheirStream : Prop :=
  (∀ (i : Nat) (a : Arrival) (s : State), i < 64 →
    let x := s.stream i
    let g := s.get (FU_STREAM_CFG_GROUP i)
    let grouped := s.is (FU_STREAM_CFG_IN_GROUP i)
    let sel := s.get (FU_STREAM_SEL_SEL i)
    let slot := slotAddr s i x.seq
    let now := s.timestamp
    let image := s.get (FU_STREAM_CFG_CONTENT i) == 1
    let gone (ts : Int) : Prop := (now : Int) < ts ∨ ts < (now : Int) - 1000000000 ∨ ∃ l, x.lastTs = some l ∧ ts ≤ (l : Int)
    let words (ts short corrupt derived len src : Nat) : List Byte :=
      leBytes 8 now ++ leBytes 8 (x.seq % 65536 * 2 ^ 48 + (corrupt + 2 * short + 4 * ofBool (isLate s i ts) + 8 * derived) * 2 ^ 44 + i * 2 ^ 32 + len % 2 ^ 32)
        ++ leBytes 8 (src % 2 ^ 32)
    let visible (t : State) (ts : Nat) (unusable : Bool) (puts : List (Nat × List Byte)) : Prop :=
      t.stream i = ⟨x.seq + 1, some ts, if unusable || isLate s i ts then x.samples else ⟨x.seq, ts, slot⟩ :: x.samples, x.reinstate⟩
      ∧ t.get (FU_STREAM_CNT_SAMPLES i) = min (s.get (FU_STREAM_CNT_SAMPLES i) + 1) 0xFFFF
      ∧ t.get (FU_STREAM_CNT_BAD i) = (if unusable then min (s.get (FU_STREAM_CNT_BAD i) + 1) 0xFFFF else s.get (FU_STREAM_CNT_BAD i))
      ∧ (isLate s i ts = true → t.get (FU_STREAM_CNT_LATE i) = min (s.get (FU_STREAM_CNT_LATE i) + 1) 0xFFFF
          ∧ (t.fgroup g).late = (s.fgroup g).late + 1 ∧ t.get FU_LATE_HEAD_LATE_HEAD = (s.get FU_LATE_HEAD_LATE_HEAD + 1) % 2 ^ 32
          ∧ bit (t.get (INT_STAT pageFU)) 2 = true)
      ∧ (grouped = true →
          let seen := s.get (FU_STREAM_WIN_WIN_SEEN i) + 1
          let lates := s.get (FU_STREAM_WIN_WIN_LATE i) + ofBool (isLate s i ts)
          (seen < lwin s i → t.get (FU_STREAM_WIN_WIN_SEEN i) = seen ∧ t.get (FU_STREAM_WIN_WIN_LATE i) = lates % 2 ^ 11
            ∧ t.get (FU_STREAM_LATE_UNREL i) = s.get (FU_STREAM_LATE_UNREL i))
          ∧ (lwin s i ≤ seen → t.get (FU_STREAM_WIN_WIN_SEEN i) = 0 ∧ t.get (FU_STREAM_WIN_WIN_LATE i) = 0
            ∧ t.is (FU_STREAM_LATE_UNREL i) = (s.is (FU_STREAM_LATE_UNREL i)
                || (decide (s.get (FU_STREAM_LATE_LATE_THR i) * lwin s i < 1024 * lates) && x.reinstate != some s.grid.now))))
      ∧ (s.is (FU_STREAM_CFG_POST_EN i) = true → s.get (FU_STREAM_CFG_PORT i) ≠ 5 →
          let c := CE_CTR_VALUE (s.get (FU_STREAM_CFG_CTR_DIE i) % 4) (s.get (FU_STREAM_CFG_POST_CTR i) % 256)
          s.get c ≤ 0xFFFF → t.get c = min (s.get c + 1) 0xFFFF)
      ∧ (isLate s i ts = false → t.mem = (s.act (forA puts fun w => writeRange w.1 w.2)).mem)
      ∧ (grouped = false → s.is (FU_STREAM_CFG_POST_EN i) = false →
          t = { s with regs := t.regs, mem := t.mem, fresh := t.fresh, fu := { s.fu with streams := t.fu.streams, cal := t.fu.cal }, wear := { s.wear with lost := t.wear.lost }, hot := { s.hot with spoiled := t.hot.spoiled }, bus := { s.bus with sent := t.bus.sent }, yl := t.yl, ts := t.ts, tt := t.tt, isl := { s.isl with imu := t.isl.imu, imuAt := t.isl.imuAt } }
          ∧ RegsBut ([FU_STREAM_CNT_SAMPLES i, FU_STREAM_CNT_BAD i, FU_CAL_STAT_REJECTS, CE_CTR_VALUE (field sel 9 8) (field sel 7 0)]
              ++ (List.range 4).map BT_HBM_HEALTH_LOST_USED) [] s t)
    let arrives (c : Instr) (ts : Int) (p : List Byte) (corrupt : Bool) (src : Nat) : Prop :=
      let body := p.take (slotRoom s i)
      let short := decide (slotRoom s i < p.length) || (image && p.isEmpty)
      (gone ts → ∃ t, exec c s = .next t ∧ t.get (FU_STREAM_CNT_BAD i) = min (s.get (FU_STREAM_CNT_BAD i) + 1) 0xFFFF
          ∧ t = { s with regs := t.regs, fresh := t.fresh, isl := { s.isl with imu := t.isl.imu, imuAt := t.isl.imuAt } } ∧ RegsBut [FU_STREAM_CNT_BAD i] [] s t)
      ∧ (¬gone ts → 0 ≤ ts → Passes s initFU (fuTicket s) 1 slot (32 + body.length) → ∃ t, exec c s = .next t
          ∧ visible t ts.toNat (corrupt || short) [(slot + 32, body), (slot + 8, words ts.toNat (ofBool short) (ofBool corrupt) 0 body.length src), (slot, leBytes 8 ts.toNat)])
    let stamp (raw : Int) : Int := raw - toSigned 32 (s.get (FU_STREAM_TS_LAT i)) + toSigned 32 (s.get (FU_STREAM_TS_OFS i))
    let raw := ingress s (s.get (FU_STREAM_CFG_INST i)) ((a.rawTs * 65536 : Nat) : Int) / 65536
    let d := if bit sel 7 then a.data.take (field sel 15 8 + 1) else a.data
    let mirrors : Bool := s.is EL_NET_CFG_IMU_EN && s.get EL_NET_CFG_IMU_STREAM == i && s.get (FU_STREAM_CFG_PORT i) == 2 && s.is (FU_STREAM_CFG_EN i)
    (∀ q ∈ [(0, Instr.csi2Frame i a), (1, .ethernetSample i a), (3, .i3cSample i a), (4, .canFrame i a)], takes s i q.1 a.sel = false → exec q.2 s = .next s)
    ∧ (takes s i 0 a.sel = true → csiTypeOk (csiType s i) = true →
        arrives (.csi2Frame i a) (stamp a.rawTs) (if image then unpackRaw (csiType s i) a.data else a.data) (!a.good) (field sel 9 0))
    ∧ (takes s i 1 a.sel = true → a.good = true →
        arrives (.ethernetSample i a) (if s.is (FU_STREAM_CFG_TS_SRC i) then
          (embeddedTs s i a.data : Nat) + toSigned 32 (s.get (FU_STREAM_TS_OFS i)) else stamp raw) a.data false (field sel 15 0))
    ∧ (s.get (FU_STREAM_SEL_EMB_OFF i) + 8 ≤ a.data.length → embeddedTs s i a.data = le a.data (s.get (FU_STREAM_SEL_EMB_OFF i)) 8)
    ∧ (takes s i 2 a.sel = true → a.good = true → arrives (.spiDrdy i a) (stamp a.rawTs) (a.data.take (field sel 7 0 + 1)) false 0)
    ∧ (a.good = true → ∃ t, exec (.spiDrdy i a) s = .next t ∧ (mirrors = true → t.isl.imu = a.data.take (field sel 7 0 + 1))
        ∧ (mirrors = false → t.isl.imu = s.isl.imu ∧ (takes s i 2 a.sel = false → t = s)))
    ∧ (takes s i 3 a.sel = true → a.good = true → arrives (.i3cSample i a) (stamp a.rawTs) d false 0)
    ∧ (takes s i 4 a.sel = true → a.good = true → arrives (.canFrame i a) (stamp a.rawTs) a.data false (field sel 28 0))
    ∧ ((streamOn s i && s.get (FU_STREAM_CFG_PORT i) == 5 && s.get (CE_CTR_VALUE (field sel 9 8) (field sel 7 0)) != 0) = false → exec (.derivedRecord i a) s = .next s)
    ∧ (streamOn s i = true → s.get (FU_STREAM_CFG_PORT i) = 5 → s.get (CE_CTR_VALUE (field sel 9 8) (field sel 7 0)) ≠ 0 → Passes s initFU (fuTicket s) 1 slot 32 →
        let ts := le (readRange s slot 32) 0 8
        let len := min (le (readRange s slot 32) 16 4) (slotRoom s i)
        let short := decide (slotRoom s i < le (readRange s slot 32) 16 4) || (image && le (readRange s slot 32) 16 4 == 0)
        Passes s initFU (fuTicket s) 0 slot (32 + len) → ∃ t, exec (.derivedRecord i a) s = .next t
          ∧ (s.is (FU_STREAM_CFG_POST_EN i) = false →
              t.get (CE_CTR_VALUE (field sel 9 8) (field sel 7 0)) = (s.get (CE_CTR_VALUE (field sel 9 8) (field sel 7 0)) - 1) % 2 ^ 16)
          ∧ (gone ts → t.stream i = x ∧ t.mem = s.mem ∧ t.get (FU_STREAM_CNT_BAD i) = min (s.get (FU_STREAM_CNT_BAD i) + 1) 0xFFFF)
          ∧ (¬gone ts → visible t ts short [(slot + 8, words ts (ofBool short) 0 1 len 0)])))
  ∧ (∀ (init tkt i : Nat) (s : State), isInit init = true → isTicket tkt = true → i < 64 → Reaches s init tkt 1 (pageAddr pageFU (0x1000 + 32 * i)) 8 →
      let full : Prop := s.get (FU_STREAM_CFG_PORT i) = 0 ∧ 16 ≤ ((List.range 64).filter fun k => k != i && s.is (FU_STREAM_CFG_EN k) && s.get (FU_STREAM_CFG_PORT k) == 0).length
      ∃ t, exec (.fuStreamEnable init tkt i) s = .next t
        ∧ (¬full → t.get (FU_STREAM_CFG_EN i) = 1 ∧ t = { s with regs := t.regs } ∧ RegsBut [FU_STREAM_CFG_EN i] [] s t)
        ∧ (full → t.get (FU_STREAM_CFG_EN i) = s.get (FU_STREAM_CFG_EN i) ∧ t.is (ERRW_VALID pageFU) = true
            ∧ (s.get (ERRW_VALID pageFU) = 0 → t.get (ERRW_KIND pageFU) = 4)))
  ∧ (∀ (init i : Nat) (s : State), isInit init = true → i < 64 → Reaches s init (ticketOf s init) 1 (pageAddr pageFU (0x2000 + 32 * i)) 4 →
      ∃ t, exec (.reinstate init i) s = .next t ∧ t = { s with fu := { s.fu with streams := t.fu.streams } }
        ∧ t.stream i = { s.stream i with reinstate := some s.grid.now } ∧ ∀ k, k ≠ i → t.stream k = s.stream k)

/-- O52: Cycles of alignment groups close and are processed by FUSE; groups are disabled and calibration is committed by writes (R396 to R400, R407, R420, R421, R425). (R396, R397, R398, R399, R400, R407, R417, R420, R421, R423, R425, R428) -/
def Obligations.FusionCyclesCloseAndAreProcessed : Prop :=
  (∀ (g : Nat) (s : State), g < 16 →
    let x := s.fgroup g
    let ms := members s g
    (x.opened = none → exec (.cycleClose g) s = .next s)
    ∧ (∀ c, x.opened = some c →
      let present (i : Nat) : List Sample := if s.is (FU_STREAM_LATE_UNREL i) then []
        else ((s.stream i).samples.filter fun a => decide (c.tPrev < (a.ts : Int)) && a.ts ≤ c.tRef).reverse
      let all : Prop := ∀ m ∈ ms, s.is (FU_STREAM_CFG_ROLE m.2) = true → s.is (FU_STREAM_LATE_UNREL m.2) = false → present m.2 ≠ []
      (¬all → s.grid.now < closeLimit s g c → exec (.cycleClose g) s = .next s)
      ∧ (all ∨ closeLimit s g c ≤ s.grid.now → ∃ t h, exec (.cycleClose g) s = .next t
          ∧ t = { s with regs := t.regs, fu := { s.fu with groups := t.fu.groups }, bus := { s.bus with files := t.bus.files } }
          ∧ RegsBut [FU_GROUP_STAT_CYC_LOST g, FU_GROUP_STAT_TIMEOUTS g, FU_GROUP_STAT_CYCLE g, FU_GROUP_LAST_OUT_TIME g, FU_STATUS_HELD, INT_STAT pageFU] [] s t
          ∧ t.fgroup g = { x with opened := none, held := some h, prevRef := some c.tRef, missRun := (t.fgroup g).missRun, late := 0 }
          ∧ h.cycle = s.get (FU_GROUP_STAT_CYCLE g) ∧ h.info = c
          ∧ h.hist = x.histories.filter (fun p => !(ms.any fun m => m.1 == p.1 && s.is (FU_STREAM_LATE_UNREL m.2)))
          ∧ h.snap = (ms.filter fun m => !(present m.2).isEmpty).map (fun m => (m.1, m.2, present m.2))
          ∧ h.seen = ms.map (fun m => ⟨m.1, m.2, (present m.2).isEmpty, (mget x.missRun m.1).getD 0⟩)
          ∧ (∀ m ∈ ms, mget (t.fgroup g).missRun m.1 = some (if present m.2 = [] then (mget x.missRun m.1).getD 0 + 1 else 0))
          ∧ (∀ m ∈ ms, bit h.status (48 + m.1) = (present m.2).isEmpty ∧ bit h.status (32 + m.1) = s.is (FU_STREAM_LATE_UNREL m.2))
          ∧ field h.status 31 24 = min x.late 255 ∧ (bit h.status 8 = true ↔ ¬all)
          ∧ (bit h.status 9 = true ↔ ∃ m ∈ ms, safetyStream s m.2 = true ∧ present m.2 = [])
          ∧ t.get (FU_GROUP_STAT_CYCLE g) = (s.get (FU_GROUP_STAT_CYCLE g) + 1) % 2 ^ 32 ∧ t.get (FU_GROUP_LAST_OUT_TIME g) = c.tRef % 2 ^ 64
          ∧ bit (t.get FU_STATUS_HELD) g = true
          ∧ (x.held ≠ none → t.get (FU_GROUP_STAT_CYC_LOST g) = min (s.get (FU_GROUP_STAT_CYC_LOST g) + 1) 0xFFFF ∧ bit (t.get (INT_STAT pageFU)) 6 = true)
          ∧ (¬all → t.get (FU_GROUP_STAT_TIMEOUTS g) = min (s.get (FU_GROUP_STAT_TIMEOUTS g) + 1) 0xFFFF))))
  ∧ (∀ (ecc : Ecc) (s : State), workingJob s unitFU 0x80 = none → exec (.fuse unitFU ecc) s = .next s)
  ∧ (∀ (ecc : Ecc) (s : State) (j : Job), workingJob s unitFU 0x80 = some j → ecc.corr = [] →
    let g := fuseGroup j.desc
    let x := s.fgroup g
    let ends (t : State) (st : Nat) : Prop := t.unit unitFU = { s.unit unitFU with running := some { j with status := some st, stopWith := none } }
    (x.held = none → j.slot = none → exec (.fuse unitFU ecc) s = .next s)
    ∧ (j.slot ≠ none → s.is (FU_GROUP_CFG_EN g) = false → ∃ t, exec (.fuse unitFU ecc) s = .next t ∧ ends t 0x50
        ∧ t = { s with rm := { s.rm with units := t.rm.units } })
    ∧ (∀ h, x.held = some h → (j.slot = none ∨ (s.is (FU_GROUP_CFG_EN g) = true ∧ h.info.at_ = s.grid.boundaryAt)) → membersClash s g = false →
        let base := resultBase s g h.cycle
        let mayWrite (rs : List (Nat × Nat)) : Prop := ∀ r ∈ rs, (checkRange s unitFU j.ticket 1 ecc r.1 r.2).1 = 0
        let done (t : State) (status : Nat) : Prop :=
          ends t (if h.seen.any (fun p => safetyStream s p.stream && p.absent && decide (s.get (FU_GROUP_CFG_MISS_TOL g) < p.run + 1)) then 0x51 else 0) ∧ t.get (FU_GROUP_LAST_STATUS g) = status % 2 ^ 64
          ∧ bit (t.get FU_STATUS_HELD) g = false ∧ (t.fgroup g).held = none ∧ (t.fgroup g).opened = x.opened ∧ (t.fgroup g).prevRef = x.prevRef
          ∧ (t.fgroup g).missRun = x.missRun
        (s.is (FU_GROUP_CFG_KIND g) = false → mayWrite [(base, 1088)] → ∃ t, exec (.fuse unitFU ecc) s = .next t ∧ done t h.status
          ∧ (t.fgroup g).emitted = stateValues s g h ∧ (t.fgroup g).tracks = x.tracks
          ∧ t.mem = (s.act (writeRange base (resultHeader h h.status 0 0 ++ (List.range 16).flatMap fun m =>
              (((mget (stateValues s g h) m).getD []) ++ List.replicate (16 - ((mget (stateValues s g h) m).getD []).length) 0).flatMap (leBytes 4)))).mem
          ∧ RegsBut ([FU_GROUP_LAST_STATUS g, FU_STATUS_HELD] ++ (List.range 4).map BT_HBM_HEALTH_LOST_USED) [] s t)
        ∧ (∀ pb all, s.is (FU_GROUP_CFG_KIND g) = true → readOk s unitFU j.ticket ecc (s.get (FU_GROUP_PB_PB g)) 128 = .ok pb →
            result (mapE (seenE s j.ticket ecc) h.snap) = .ok all → (∀ q ∈ all, q.2.2.isSome = true) →
            let r := sceneResult s g h (scenePar pb) (all.flatMap fun q => q.2.2.getD [])
            let status := h.status + min 255 r.disputes * 2 ^ 16 + r.check * 2 ^ 12 + ofBool (r.check != 0) * 2 ^ 11
              + ofBool (r.disputes != 0) * 2 ^ 10 + ofBool r.gridMiss * 2 ^ 7 + ofBool r.full * 2 ^ 6
            mayWrite ((base, 64) :: (base + r.unused.1, r.unused.2) :: r.sections.map fun q => (base + q.1, q.2.length)) → ∃ t, exec (.fuse unitFU ecc) s = .next t ∧ done t status
              ∧ (t.fgroup g).tracks = r.tracks
              ∧ t.mem = (s.act (seq [writeRange base (resultHeader h status 1 r.nTrk), loseRange (base + r.unused.1) r.unused.2,
                  forA r.sections fun q => writeRange (base + q.1) q.2])).mem)))
  ∧ (∀ (ta tb tRef ch last : Nat) (va vb : List Nat) (e : Bool), ta ≤ tRef → tRef < tb →
      stateValue [(tb, vb), (ta, va)] tRef ch e last = fadd (va.getD ch 0)
        (fmul (fsub (vb.getD ch 0) (va.getD ch 0)) (fdiv (f32Int ((tRef : Int) - ta)) (f32Int ((tb : Int) - ta))))
      ∧ stateValue [(ta, va)] tRef ch e last = va.getD ch 0 ∧ stateValue [(tb, vb)] tRef ch e last = last)
  ∧ (∀ (init g : Nat) (s : State), isInit init = true → g < 16 → Reaches s init (ticketOf s init) 1 (pageAddr pageFU (0x3000 + 32 * g)) 8 →
      ∃ t, exec (.groupDisable init g) s = .next t ∧ t.get (FU_GROUP_CFG_EN g) = 0 ∧ bit (t.get FU_STATUS_HELD) g = false
        ∧ t.fgroup g = { s.fgroup g with opened := none, held := none } ∧ (∀ k, k ≠ g → t.fgroup k = s.fgroup k)
        ∧ t = { s with regs := t.regs, fu := { s.fu with groups := t.fu.groups } } ∧ RegsBut [FU_GROUP_CFG_EN g, FU_STATUS_HELD] [] s t)
  ∧ (∀ (init i : Nat) (s : State), isInit init = true → i < 64 → Reaches s init (ticketOf s init) 1 (pageAddr pageFU 0x230) 8 →
      ∃ t, exec (.calCommit init i) s = .next t ∧ (∀ k, k < 64 → bit (t.get FU_CAL_COMMIT_MARK) k = (bit (s.get FU_CAL_COMMIT_MARK) k || k == i))
        ∧ mget t.fu.online i = none
        ∧ (mget s.fu.online i = none → t = { s with regs := t.regs } ∧ RegsBut [FU_CAL_COMMIT_MARK] [] s t)
        ∧ (∀ new old, mget s.fu.online i = some (new, old) →
            t.mem = if fuRead s (calPending s i) = new then (s.act (fuWrite (calPending s i) old)).mem else s.mem))

/-- O53: Midway: clearing, updates, commit and copy of the map, PLAN and EMIT (R435, R436, R438 to R440, R442, R448, R455 to R459). (R435, R436, R437, R438, R439, R440, R442, R448, R455, R456, R459, R463) -/
def Obligations.MidwayKeepsItsMapAndPlans : Prop :=
  (∀ (init : Nat) (s : State), isInit init = true → Reaches s init (ticketOf s init) 1 (pageAddr pageMW 0x010) 8 →
    (s.is MW_CTRL_EN = true → exec (.mapClear init) s = .next s)
    ∧ (s.is MW_CTRL_EN = false → ∃ t, exec (.mapClear init) s = .next t ∧ t.get MW_CTRL_EN = 1 ∧ t.get MW_STATUS_CLEARING = 1
        ∧ (∀ f ∈ [MW_GEN_FRONT_GEN, MW_STATUS_MAP_VALID, MW_LOST_GEN_LOST_GEN, MW_CHG_HEAD_CHG_HEAD, MW_STATUS_SET_VALID, MW_STATUS_COPY_PEND], t.get f = 0)
        ∧ t = { s with regs := t.regs, mem := t.mem, fresh := t.fresh, mw := { s.mw with dynCount := 0, genDyn := 0, ring := [], nCand := 0, startBad := false } }
        ∧ RegsBut [MW_CTRL_EN, MW_STATUS_CLEARING, MW_GEN_FRONT_GEN, MW_STATUS_MAP_VALID, MW_LOST_GEN_LOST_GEN, MW_CHG_HEAD_CHG_HEAD, MW_STATUS_SET_VALID,
            MW_STATUS_COPY_PEND] [] s t
        ∧ MemBut [(mapBuf 0, 0x2800000)] s t))
  ∧ (∀ s : State, (mwClearing s = false → exec .mapClearDone s = .next s)
    ∧ (mwClearing s = true → ∃ t, exec .mapClearDone s = .next t ∧ mwClearing t = false
        ∧ t = { s with regs := t.regs, mem := t.mem, mw := { s.mw with dims0 := mwDims s, dims1 := mwDims s } }
        ∧ RegsBut [MW_STATUS_CLEARING] [] s t ∧ MemBut [(mapBuf 0, 0x2800000)] s t
        ∧ ∀ b cell, b < 2 → cell < 2 ^ 24 → cellBits t b cell = 1
            ∧ t.stored (mapDist b + cell) = BitVec.ofInt 8 (-(4 * (mwDims s).getD 0 1 : Nat))))
  ∧ (∀ s : State, (workingJob s unitMW 0x92 = none → exec (.mapCommit unitMW) s = .next s)
    ∧ (mwBusyMap s = true → exec (.mapCommit unitMW) s = .next s)
    ∧ (∀ j, workingJob s unitMW 0x92 = some j → mwBusyMap s = false → ∃ t, exec (.mapCommit unitMW) s = .next t
        ∧ t.get MW_STATUS_FRONT = 1 - s.get MW_STATUS_FRONT ∧ t.get MW_GEN_FRONT_GEN = (s.get MW_GEN_FRONT_GEN + 1) % 2 ^ 32
        ∧ t.get MW_STATUS_MAP_VALID = 1 ∧ t.get MW_STATUS_COPY_PEND = 1
        ∧ t.get MW_LOST_GEN_LOST_GEN = max (s.get MW_LOST_GEN_LOST_GEN) ((s.get MW_GEN_FRONT_GEN + 1) % 2 ^ 32 - 255) % 2 ^ 32
        ∧ (t.unit unitMW).running = some { j with status := some 0, stopWith := none }
        ∧ (∀ k, (s.unit unitMW).suspended = some k → k.status = none → (dOpcode k.desc = 0x93 ∨ dOpcode k.desc = 0x94) →
            (t.unit unitMW).suspended = some { k with status := some 0x59 } ∧ t.get MW_CNT_SNAP_LOST = min (s.get MW_CNT_SNAP_LOST + 1) 0xFFFF)
        ∧ t.mw = { s.mw with genDyn := 0 }
        ∧ ((s.unit unitMW).suspended = none → t = { s with regs := t.regs, mem := t.mem, fresh := t.fresh, rm := { s.rm with units := t.rm.units }, mw := t.mw }
            ∧ RegsBut [MW_STATUS_FRONT, MW_GEN_FRONT_GEN, MW_STATUS_MAP_VALID, MW_LOST_GEN_LOST_GEN, MW_STATUS_COPY_PEND] [] s t
            ∧ MemBut [(mapBuf (mwFront s), 0x1400000)] s t)))
  ∧ (∀ s : State, (s.is MW_STATUS_COPY_PEND = false → exec .mapCopyDone s = .next s)
    ∧ (s.is MW_STATUS_COPY_PEND = true → s.mem.wf → ∃ t, exec .mapCopyDone s = .next t ∧ t.get MW_STATUS_COPY_PEND = 0
        ∧ t = { s with regs := t.regs, mem := t.mem, mw := { s.mw with dims0 := t.mw.dims0, dims1 := t.mw.dims1 } } ∧ RegsBut [MW_STATUS_COPY_PEND] [] s t
        ∧ MemBut [(mapBuf (1 - mwFront s), 0x1400000)] s t
        ∧ ∀ i, i < 0x1400000 → lostAt s.mem.lost (mapBuf (mwFront s) + i) = none →
            t.mem.byte (mapBuf (1 - mwFront s) + i) = s.mem.byte (mapBuf (mwFront s) + i)))
  ∧ (∀ (op : Nat) (c : Instr) (s : State), ((op = 0x90 ∧ ∃ e, c = .mapCells unitMW e) ∨ (op = 0x91 ∧ ∃ e, c = .mapFuse unitMW e) ∨ (op = 0x93 ∧ ∃ e, c = .plan unitMW e)
        ∨ (op = 0x94 ∧ ∃ e, c = .emit unitMW e)) → (workingJob s unitMW op = none ∨ mwClearing s = true) → exec c s = .next s)
  ∧ (∀ (ecc : Ecc) (s : State) (j : Job), ecc.corr = [] →
    let d := j.desc
    let b := mwBack s
    let ends (t : State) (st : Nat) : Prop := t.unit unitMW = { s.unit unitMW with running := some { j with status := some st, stopWith := none } }
    let only (c : Instr) (st : Nat) : Prop := ∃ t, exec c s = .next t ∧ ends t st ∧ t = { s with ts := t.ts, rm := { s.rm with units := t.rm.units } }
    let updated (t : State) (v : Upd) : Prop := (∀ cell, cell < 2 ^ 24 → cellBits t b cell = v.get s cell)
      ∧ ((v.changed s).length + s.get MW_CHG_HEAD_CHG_HEAD) % 2 ^ 32 = t.get MW_CHG_HEAD_CHG_HEAD % 2 ^ 32
      ∧ t.mw.ring = (v.changed s).foldl (fun r _ => pushRun (s.get MW_GEN_FRONT_GEN + 1) (if 65536 ≤ runLength r then dropRun r else r)) s.mw.ring
      ∧ (runLength s.mw.ring + (v.changed s).length ≤ 65536 → t.get MW_LOST_GEN_LOST_GEN = s.get MW_LOST_GEN_LOST_GEN)
    (∀ bs, workingJob s unitMW 0x90 = some j → mwBusyMap s = false →
      let n := dField d 2 31 0
      let entry (i : Nat) : Nat := le bs (4 * i) 4
      let inside (e : Nat) : Bool := inMap s (e % 512) (e / 512 % 512) (e % 2 ^ 24 / 2 ^ 18)
      readOk s unitMW j.ticket ecc (dField d 1 47 0) (4 * n) = .ok bs → mapMeetsE s ecc ((cellsUpd s n bs).1.offsets s) = .ok () →
      ∃ t, exec (.mapCells unitMW ecc) s = .next t ∧ ends t 0 ∧ updated t (cellsUpd s n bs).1
        ∧ (∀ cell, cell < 2 ^ 24 → cellBits t b cell =
            match ((List.range n).map entry).reverse.find? fun e => inside e && e % 2 ^ 24 == cell with
            | some e => cellBits s b cell / 2 * 2 + ofBool (bit e 24)
            | none => cellBits s b cell)
        ∧ t.get MW_CNT2_OUT_OF_MAP = satU 16 (s.get MW_CNT2_OUT_OF_MAP + ((List.range n).filter fun i => !(inside (entry i))).length)
        ∧ MemBut [(mapBuf b, 0x1400000), (mapBase + 0x2C00000, 0x40000)] s t)
    ∧ (∀ f, workingJob s unitMW 0x91 = some j → mwBusyMap s = false → result (fuseReadE s ecc j) = .ok f →
      let r := (chunks 64 f.nTrk f.tracks).foldl (fun r x => trackUpd s (trackCells s f.p x) r)
        (gridUpd s f.p f.grid f.bmp (f.old.foldl (fun v c => v.setD s c false) ⟨[], []⟩), [], 0)
      mapMeetsE s ecc (r.1.offsets s) = .ok () →
      ∃ t, exec (.mapFuse unitMW ecc) s = .next t ∧ ends t 0 ∧ updated t r.1 ∧ t.mw.dynCount = r.2.1.length
        ∧ (∀ i < r.2.1.length, t.mem.bytes (mapBase + 0x2C80000 + 4 * i) 4 = leBytes 4 (r.2.1.getD i 0))
        ∧ t.get MW_CNT2_DYN_FULL = satU 16 (s.get MW_CNT2_DYN_FULL + r.2.2)
        ∧ MemBut [(mapBuf b, 0x1400000), (mapBase + 0x2C00000, 0x40000), (mapBase + 0x2C80000, 0x20000)] s t)
    ∧ (∀ pb, workingJob s unitMW 0x91 = some j → mwBusyMap s = false → readOk s unitMW j.ticket ecc (dField d 2 47 0) 64 = .ok pb →
      fuseParOk pb (fusePar pb) = false → ∃ t, exec (.mapFuse unitMW ecc) s = .next t ∧ ends t 2 ∧ t.mem = s.mem ∧ t.mw = s.mw)
    ∧ (∀ rb, workingJob s unitMW 0x93 = some j → mwClearing s = false → readOk s unitMW j.ticket ecc (dField d 1 47 0) 128 = .ok rb →
      let q := reqOf rb
      let lim : PlanLim := ⟨dField d 2 15 0, dField d 2 19 16, dField d 2 24 20⟩
      let gen := s.get MW_GEN_FRONT_GEN
      let held (t : State) (cs : List Built) (bad : Bool) : Prop := ends t 0 ∧ t.get MW_STATUS_CUR_SET = 1 - s.get MW_STATUS_CUR_SET ∧ t.get MW_STATUS_SET_VALID = 1
        ∧ t.mw = { s.mw with setGen := gen, nCand := cs.length, startBad := bad }
      (reqOk s rb q = false → only (.plan unitMW ecc) 2)
      ∧ (reqOk s rb q = true → s.is MW_STATUS_MAP_VALID = false → only (.plan unitMW ecc) 0x58)
      ∧ (reqOk s rb q = true → s.is MW_STATUS_MAP_VALID = true →
          (planE s ecc lim q = .ok none → ∃ t, exec (.plan unitMW ecc) s = .next t ∧ held t [] true ∧ t.mem = s.mem)
          ∧ (∀ cs full, planE s ecc lim q = .ok (some (cs, full)) → mapMeetsE s ecc (planOffsets s cs) = .ok () → ∃ t, exec (.plan unitMW ecc) s = .next t ∧ held t cs false
              ∧ t.get MW_CNT2_OPEN_FULL = satU 16 (s.get MW_CNT2_OPEN_FULL + full)
              ∧ t.mem = (s.act (seq [lose (mapBase + 0x2D00000) 0x300000, forA cs.zipIdx fun y =>
                  store (mapBase + candOff (1 - s.get MW_STATUS_CUR_SET) y.2) (candBytes q gen y.2 y.1)])).mem)))
    ∧ (∀ pose, workingJob s unitMW 0x94 = some j → mwClearing s = false → readOk s unitMW j.ticket ecc (dField d 1 47 0) 32 = .ok pose →
      let out := dField d 2 47 0
      let none_ := !(s.is MW_STATUS_MAP_VALID) || s.mw.nCand == 0
      let full := !none_ && decide (s.mw.setGen ≤ s.get MW_LOST_GEN_LOST_GEN)
      let emits (bs : List Byte) (hold : Bool) : Prop := (checkRange s unitMW j.ticket 1 ecc out bs.length).1 = 0 → ∃ t, exec (.emit unitMW ecc) s = .next t ∧ ends t 0
        ∧ t.mem = (s.act (ownWrite out bs)).mem
        ∧ t.get MW_CNT_HELD = (if hold then min (s.get MW_CNT_HELD + 1) 0xFFFF else s.get MW_CNT_HELD) ∧ (hold = true → bit (t.get (INT_STAT pageMW)) 0 = true)
        ∧ t.get MW_CNT_FULL_REVAL = (if full then min (s.get MW_CNT_FULL_REVAL + 1) 0xFFFF else s.get MW_CNT_FULL_REVAL)
        ∧ t = { s with regs := t.regs, mem := t.mem, fresh := t.fresh, rm := { s.rm with units := t.rm.units }, wear := { s.wear with lost := t.wear.lost }, hot := { s.hot with spoiled := t.hot.spoiled }, bus := { s.bus with sent := t.bus.sent, files := t.bus.files }, yl := t.yl, ts := t.ts, tt := t.tt }
      let held := holdBytes s j.beganTk (4 * ofBool full + 8 * ofBool (s.mw.nCand == 0 && s.mw.startBad)) pose
      (none_ = true → emits held true)
      ∧ (∀ cells c, none_ = false → (if full then cells = none else ∃ cs, ringCellsE s ecc s.mw.setGen = .ok cs ∧ cells = some cs) →
          pickE s ecc cells s.mw.nCand = .ok c → match c with
            | some (_, h, w) => emits (emitBytes s j.beganTk full h w) false
            | none => emits held true)))

/-- O54: SOLVE writes output record and state block, CMD the joint commands and its seal, or they end ILLEGAL, EMPTY or NO_SOLUTION (R477, R485, R488 to R494). (R477, R485, R488, R489, R490, R491, R492, R493, R494) -/
def Obligations.SolverJobsWriteTheirOutput : Prop :=
  (∀ (times : List Nat) (store : Bool) (ecc : Ecc) (s : State), (workingJob s unitTP 0xA0 = none → exec (.solve unitTP times store ecc) s = .next s)
    ∧ (workingJob s unitTP 0xA1 = none → exec (.cmd unitTP ecc) s = .next s))
  ∧ (∀ (ecc : Ecc) (s : State) (j : Job), ecc.corr = [] → (s.unit unitTP).suspended = none → j.spoiled = false →
    let d := j.desc
    let ctrl : Bool := jobSlotType s j == 1
    let ends (t : State) (st : Nat) : Prop := t.unit unitTP = { s.unit unitTP with running := some { j with status := some st, stopWith := none } }
    let only (c : Instr) (st : Nat) : Prop := ∃ t, exec c s = .next t ∧ ends t st ∧ t = { s with ts := t.ts, rm := { s.rm with units := t.rm.units } }
    let rd (a n : Nat) (bs : List Byte) : Prop := readOk s unitTP j.ticket ecc a n = .ok bs
    (∀ times b, workingJob s unitTP 0xA0 = some j → rd (dField d 1 47 0) 128 b →
      let h := hdrOf b
      let out := dField d 3 47 0
      let sa := dField d 2 47 0
      let size := 64 + 4 * (h.n + 2 * h.m)
      let empty : Prop := (if h.mpc then h.nh else h.n) = 0
      (hdrOk b h = false → ∀ store, only (.solve unitTP times store ecc) 2)
      ∧ (hdrOk b h = true → empty → ∀ store, only (.solve unitTP times store ecc) 1)
      ∧ (hdrOk b h = true → ¬empty → ∀ sb bs, rd sa size sb → mapE (fun a => readOk s unitTP j.ticket ecc a.1 a.2) h.arrays = .ok bs →
          let st := startOf h (mget s.tp (phys s sa)) sb
          st.moved = false → Passes s unitTP j.ticket 1 out size → Passes s unitTP j.ticket 1 sa size →
          let tm := timesOf s h j.ticket (dField d 1 47 0) sa out
          let dl := if jobSlotType s j = 0 then 0 else h.deadline
          let late : Prop := dl ≠ 0 ∧ dl < j.began + 300 + tm.tIn + tm.tSetup + tm.tIt + tm.tOut
          ∀ o, (late → o = shiftOutput st 0 0 0 0xFFFF false) →
            (¬late → o = solveAll h (if h.mpc then mpcProb h (bs.getD 0 []) (bs.getD 1 []) else denseProb h bs) st j.began times dl tm) →
          let dlRun := if o.shift || o.best then min (st.dlRun + 1) 255 else 0
          let status := if ctrl && (o.shift || o.best) && st.cold then 0x40 else if ctrl && decide (h.dlLim < dlRun) then 0x41 else 0
          ∃ t, exec (.solve unitTP times false ecc) s = .next t ∧ ends t status
            ∧ t.mem = (s.act (seq [writeRange out (recordHeader j.beganTk o st.cold ++ o.vectors), writeRange (sa + 64) o.vectors,
                writeRange sa (stateHeader s h o dlRun)])).mem
            ∧ t.tp = mset s.tp (phys s sa) ⟨stateHeader s h o dlRun, h.pt⟩
            ∧ t.get TP_CNT_SOLVES = min (s.get TP_CNT_SOLVES + 1) 0xFFFF
            ∧ t.get TP_LAST_FLAGS = o.flags st.cold % 2 ^ 8 ∧ t.get TP_LAST_RES = o.res % 2 ^ 32 ∧ t.get TP_LAST_ITERS_RUN = o.run % 2 ^ 7 ∧ t.get TP_LAST_BEST_IT = o.bestIt % 2 ^ 7
            ∧ (ctrl = true → o.ovf = true → t.is TP_CHK_OVF_SEEN = true) ∧ (ctrl = true → h.pivLim < o.nPiv → t.is TP_CHK_PIV_SEEN = true)
            ∧ t.isl.wires = s.isl.wires ++ (if ctrl && o.ovf then [(6, 4)] else []) ++ (if ctrl && decide (h.pivLim < o.nPiv) then [(6, 4)] else [])
            ∧ t = { s with regs := t.regs, mem := t.mem, fresh := t.fresh, rm := { s.rm with units := t.rm.units }, isl := { s.isl with wires := t.isl.wires }, wear := { s.wear with lost := t.wear.lost }, hot := { s.hot with spoiled := t.hot.spoiled }, bus := { s.bus with sent := t.bus.sent, files := t.bus.files }, yl := t.yl, ts := t.ts, tt := t.tt, tp := t.tp }
            ∧ RegsBut ([TP_CNT_SOLVES, TP_CNT_OVF_JOBS, TP_CNT_PIV_JOBS, TP_CNT_DL_OUT, TP_LAST_RES, TP_LAST_BEST_IT, TP_LAST_ITERS_RUN, TP_LAST_FLAGS, TP_CHK_OVF_SEEN,
                TP_CHK_PIV_SEEN, INT_STAT pageTP] ++ (List.range 4).map BT_HBM_HEALTH_LOST_USED) [] s t))
    ∧ (∀ hd, workingJob s unitTP 0xA1 = some j → rd (dField d 1 47 0) 64 hd →
      let n := le hd 0 2
      let m := le hd 4 2
      let k := dField d 5 8 0
      let current : Prop := bit (le hd 0 8) 63 = true ∧ le hd 8 8 = j.beganFrame
      (¬current → ∃ t, exec (.cmd unitTP ecc) s = .next t ∧ ends t 0x40 ∧ t.mem = s.mem ∧ bit (t.get (INT_STAT pageTP)) 4 = true ∧ RegsBut [INT_STAT pageTP] [] s t)
      ∧ (∀ mp, current → rd (dField d 2 47 0) (8 * k) mp →
        let es := (List.range k).map fun i => le mp (8 * i) 8
        let odd (e : Nat) : Prop := ¬(onlyBits e [(11, 0), (13, 12), (20, 16), (63, 32)] = true ∧ field e 13 12 ≤ 2 ∧ field e 63 32 % 4 = 0
          ∧ field e 11 0 < if field e 13 12 = 0 then n else m)
        ((∃ e ∈ es, odd e) → only (.cmd unitTP ecc) 2)
        ∧ (∀ ve, (∀ e ∈ es, ¬odd e) → rd (dField d 1 47 0 + 64) (4 * (n + 2 * m)) ve →
          let sb := hd ++ ve
          let sealAt := dField d 4 47 0
          let ovf := es.any fun e => (mapValue sb n m e).2
          let ws := es.map (fun e => (dField d 3 47 0 + field e 63 32, leBytes 4 (code32 (mapValue sb n m e).1)))
            ++ if sealAt = 0 then [] else [(sealAt, leBytes 8 (j.beganFrame + 1))]
          (∀ w ∈ ws, (checkRange s unitTP j.ticket 1 ecc w.1 w.2.length).1 = 0) → ∃ t, exec (.cmd unitTP ecc) s = .next t ∧ ends t 0
            ∧ t.mem = (s.act (forA ws fun w => writeRange w.1 w.2)).mem
            ∧ (ovf = true → t.get TP_CNT_OVF_JOBS = min (s.get TP_CNT_OVF_JOBS + 1) 0xFFFF)
            ∧ t.isl.wires = s.isl.wires ++ (if ctrl && ovf then [(6, 4)] else [])
            ∧ (ovf = false → RegsBut ((List.range 4).map BT_HBM_HEALTH_LOST_USED) [] s t)))))

/-- O55: FEED packs rows in shuffle order, writes rows and skip log, and ends with its status; an overrun skips the next record (R583, R586 to R592). (R583, R586, R587, R588, R590, R591) -/
def Obligations.FeedsPackRowsInShuffleOrder : Prop :=
  (∀ (times : List Nat) (ecc : Ecc) (s : State), workingJob s unitRP 0xB0 = none →
    exec (.feed unitRP times ecc) s = .next s ∧ exec (.decodeBudgetOverrun unitRP ecc) s = .next s)
  ∧ (∀ (times : List Nat) (ecc : Ecc) (s : State) (j : Job) (b : List Byte), workingJob s unitRP 0xB0 = some j → ecc.corr = [] →
    readOk s unitRP j.ticket ecc (fdFile j.desc) 64 = .ok b →
    let d := j.desc
    let goes (c : Instr) (forced : Bool) (times : List Nat) : Prop :=
      (fileHdr b = none → ∃ t, exec c s = .next t ∧ t.mem = s.mem ∧ ((t.unit unitRP).running.map fun k => k.status) = some (some 0x60) ∧ t.feed.run = none)
      ∧ (∀ h x, fileHdr b = some h →
        let r : FeedStep := feedLoop s j.ticket ecc d h forced (h.n + 1 - (feedRun s j).pos + 1) ⟨feedRun s j, [], [], 0, 0, 0, 0, false, []⟩ times
        let ws := x.logs.map (fun l => (fdSkip d + 8 * l.1, l.2)) ++ x.rows.map fun q => (fdOut d + q.1 * (feedOffsets d).2.2, q.2)
        (∀ e, r = .stop x e → ∃ t, exec c s = .next t ∧ ((t.unit unitRP).running.map fun k => k.status) = some (some e.st) ∧ t.feed.run = none)
        ∧ ∀ fin, (r = .pause x ∧ fin = none) ∨ (∃ st, r = .done x st ∧ fin = some st) →
        ∃ t, exec c s = .next t
          ∧ t.mem = (s.act (forA ws fun w => seq [writeRange (w.1 + 64) (w.2.drop 64), writeRange w.1 (w.2.take 64)])).mem
          ∧ t.unit unitRP = { s.unit unitRP with running := some { j with status := fin, stopWith := if fin = none then j.stopWith else none } }
          ∧ (fin = none → t.feed.run = some x.run) ∧ (fin ≠ none → t.feed.run = none ∧ t.get RP_LAST_A_A = meanTime s x.run % 2 ^ RP_LAST_A_A.width)
          ∧ t.get RP_CNT_ZERO = satU 16 (s.get RP_CNT_ZERO + x.zero) ∧ t.get RP_CNT_CORRUPT = satU 16 (s.get RP_CNT_CORRUPT + x.corrupt)
          ∧ t.get RP_CNT_TOO_LONG = satU 16 (s.get RP_CNT_TOO_LONG + x.tooLong) ∧ t.get RP_CNT_SKIPPED = satU 16 (s.get RP_CNT_SKIPPED + x.skipped)
          ∧ RegsBut ([RP_CNT_ZERO, RP_CNT_CORRUPT, RP_CNT_TOO_LONG, RP_CNT_SKIPPED, RP_LAST_A_A, INT_STAT pageRP] ++ (List.range 4).map BT_HBM_HEALTH_LOST_USED) [] s t)
    goes (.feed unitRP times ecc) false times
    ∧ (fdReplay d = true → exec (.decodeBudgetOverrun unitRP ecc) s = .next s) ∧ (fdReplay d = false → goes (.decodeBudgetOverrun unitRP ecc) true []))
  ∧ (∀ (s : State) (tkt : Nat) (ecc : Ecc) (d : List Byte) (x : FeedOut) (i : Nat) (r : Rec) (forced : Bool) (times : List Nat),
    let place : FeedStep := placeRec s tkt ecc d x i r forced times
    let mayClose : Prop := (checkRange s unitRP tkt 1 ecc (fdOut d + x.run.row * (feedOffsets d).2.2) (feedOffsets d).2.2).1 = 0
    let mayLog : Prop := (checkRange s unitRP tkt 1 ecc (fdSkip d + 8 * x.run.logged) 8).1 = 0
    let n := r.len / fdElem d
    let passed : FeedRun := { x.run with pos := x.run.pos + 1, nSkip := x.run.nSkip + 1 }
    (r.len = 0 → place = .go { x with run := passed, zero := x.zero + 1 } times)
    ∧ (r.len ≠ 0 → r.sample = none → place = .go { x with run := passed, corrupt := x.corrupt + 1 } times)
    ∧ (∀ bs, r.len ≠ 0 → r.sample = some bs →
      let closes : Prop := fdElems d < x.run.used + n ∨ x.run.segs.length = fdSegMax d
      let fits : Prop := fdReplay d = true ∨ (forced = false ∧ times.headD 0 ≤ budget s x.run)
      (fdElems d < n → place = .go { x with run := passed, tooLong := x.tooLong + 1 } times)
      ∧ (n ≤ fdElems d → closes → mayClose → fdRows d ≤ x.run.row + 1 → ∃ y, place = .done y 0 ∧ y.rows = x.rows ++ [(x.run.row, rowBytesOf d x.run false)]
          ∧ y.run.pos = x.run.pos ∧ y.logs = x.logs)
      ∧ (n ≤ fdElems d → ¬closes → fits → ∃ y, place = .go y (times.drop 1) ∧ y.rows = x.rows
          ∧ y.run.segs = x.run.segs ++ [⟨i, r.typ, r.flags, x.run.used, n⟩] ∧ y.run.data = x.run.data ++ bs ∧ y.run.used = x.run.used + n ∧ y.run.pos = x.run.pos + 1)
      ∧ (n ≤ fdElems d → ¬closes → ¬fits → x.run.logged ≠ fdCap d → mayLog → ∃ y, y.run = { passed with logged := x.run.logged + 1 }
          ∧ y.logs = x.logs ++ [(x.run.logged, leBytes 4 x.run.pos ++ leBytes 4 i)] ∧ y.skipped = x.skipped + 1
          ∧ place = if forced then .pause y else .go y (times.drop 1))
      ∧ (n ≤ fdElems d → ¬closes → ¬fits → x.run.logged = fdCap d → place = .done x 0x63)))

/-- O56: The shuffle of R580 is a bijection: each epoch visits every record exactly once. (15 Data feed and the record format) -/
def Obligations.ShuffleVisitsEveryRecordOnce : Prop :=
  ∀ n seed epoch : Nat, 1 ≤ n → n ≤ 2 ^ 32 → seed < 2 ^ 32 → epoch < 2 ^ 32 →
    (∀ p, p < n → perm p n seed epoch < n)
    ∧ (∀ p q, p < n → q < n → perm p n seed epoch = perm q n seed epoch → p = q)
    ∧ (∀ i, i < n → ∃ p, p < n ∧ perm p n seed epoch = i)

/-- O57: Tightrope: grid points, feedback frames and their deadline, the take of the staging set, and the update of a ring's axes (R497 to R521, R527, R541). (R497, R500, R502, R508, R511, R513, R515, R519, R520, R521, R526, R527) -/
def Obligations.TightropeRunsItsAxes : Prop :=
  (∀ s : State, let p := nextPoint s.grid
    let returns : Prop := s.isl.reint = 3 ∧ p = s.grid.boundaryAt ∧ s.isl.reintBits = 0
    (pointDue s.grid = false → exec .axisGridPoint s = .next s)
    ∧ (pointDue s.grid = true → ∃ t, exec .axisGridPoint s = .next t ∧ t.mem = s.mem ∧ t.time = s.time ∧ t.rm = s.rm ∧ t.plan = s.plan ∧ KeepsTrust s t
        ∧ t.grid = { s.grid with pointAt := p, pointOld := s.grid.point + 1, point := 4 * frameNumber s + (p - s.grid.boundaryAt) / 137500, applyNow := s.grid.applyNext, applyNext := s.timestamp + 137500 * s.time.inc / 2 ^ 32 }
        ∧ (returns → t.doubt.bits = 0 ∧ t.get TT_STATUS_OWNER_ISL = 0 ∧ t.get EL_NET_STAT_OWNER = 0 ∧ t.get EL_REINT_RESULT = 0 ∧ t.isl.reint = 0)
        ∧ (¬returns → t.doubt = s.doubt)
        ∧ (¬returns → ∀ q, s.isl.handoverAt = some q → q ≤ p → t.get TT_STATUS_OWNER_ISL = 1 ∧ t.get EL_NET_STAT_OWNER = 1 ∧ t.isl.handoverAt = none)
        ∧ (∀ a, a < 128 → ((s.axis a).due = true → t.get (TT_AXIS_ST_MISS_CNT a) = min (s.get (TT_AXIS_ST_MISS_CNT a) + 1) 0xFFFF)
            ∧ (∀ e, (s.axis a).sent = some e → t.get (TT_AXIS_ST_I_LAST a) = ofSigned 32 e.1)
            ∧ (axisRuns s a = true → t.grid.point % axisDiv s a = 0 → (t.axis a).due = true ∧ (t.axis a).missing = true ∧ (t.axis a).got = false
                ∧ (t.axis a).iPrev = toSigned 32 (t.get (TT_AXIS_ST_I_LAST a))))))
  ∧ (∀ s : State, let late : Prop := s.grid.running = true ∧ s.grid.pointAt + s.get TT_TIMING_FB_DL ≤ s.grid.now
    (¬late → exec .fbDeadline s = .next s)
    ∧ (late → ∃ t, exec .fbDeadline s = .next t
        ∧ t = { s with regs := t.regs, tt := { s.tt with axes := t.tt.axes }, log := t.log, isl := { s.isl with wires := t.isl.wires }, bus := { s.bus with files := t.bus.files } }
        ∧ ∀ a, a < 128 → ((s.axis a).due = false → t.axis a = s.axis a ∧ t.get (TT_AXIS_ST_MISS_CNT a) = s.get (TT_AXIS_ST_MISS_CNT a) ∧ t.get (TT_AXIS_ST_STATE a) = s.get (TT_AXIS_ST_STATE a))
          ∧ ((s.axis a).due = true → t.axis a = { s.axis a with due := false, missed := true, missRun := (s.axis a).missRun + 1 }
              ∧ t.get (TT_AXIS_ST_MISS_CNT a) = min (s.get (TT_AXIS_ST_MISS_CNT a) + 1) 0xFFFF
              ∧ (max 1 (s.get (TT_AXIS_CFG_MISS_LIM a)) ≤ (s.axis a).missRun + 1 → t.get (TT_AXIS_ST_STATE a) = 3 ∧ bit (t.get (TT_AXIS_ST_FAULT a)) 1 = true)
              ∧ ((s.axis a).missRun + 1 < max 1 (s.get (TT_AXIS_CFG_MISS_LIM a)) → t.get (TT_AXIS_ST_STATE a) = s.get (TT_AXIS_ST_STATE a)))))
  ∧ (∀ (r : Nat) (f : List Byte) (s : State), r < 4 → s.boot.step ≠ 7 → ∀ c ∈ [Instr.fbFrame r f, .axisFrameOther r f, .discRsp r f, .identRsp r f],
    let other : Prop := f.length < 18 ∨ ofBe ((f.drop 12).take 2) ≠ 0x8100 ∨ ofBe ((f.drop 16).take 2) ≠ s.get (TT_RING_CFG_ETHERTYPE r)
    let typ := (f.getD 19 0#8).toNat
    (other → exec c s = .next { s with bus := { s.bus with sent := s.bus.sent ++ [⟨5, r, f⟩] } })
    ∧ (¬other → frameGood f = false → ∃ t, exec c s = .next t ∧ t = { s with regs := t.regs } ∧ t.get (TT_RING_STAT_CRC_ERR r) = min (s.get (TT_RING_STAT_CRC_ERR r) + 1) 0xFFFF
        ∧ RegsBut [TT_RING_STAT_CRC_ERR r] [] s t)
    ∧ (¬other → frameGood f = true → typ ≠ 2 → typ ≠ 4 → typ ≠ 6 → exec c s = .next s)
    ∧ (¬other → frameGood f = true → typ = 4 → (∀ q, s.tt.cmd = some q → q.op = 1 → q.ring ≠ r) → exec c s = .next s)
    ∧ (∀ q, ¬other → frameGood f = true → typ = 4 → s.tt.cmd = some q → q.op = 1 → q.ring = r → ∃ t, exec c s = .next t
        ∧ t.ring r = { s.ring r with found := (s.ring r).found ++ [((f.getD 21 0#8).toNat, le f 34 6, (f.getD 40 0#8).toNat)] }
        ∧ t = { s with tt := { s.tt with rings := t.tt.rings } })
    ∧ (¬other → frameGood f = true → typ = 2 → sampleOf s r f = none → ∃ t, exec c s = .next t ∧ t = { s with regs := t.regs }
        ∧ t.get (TT_RING_STAT_DROPPED r) = min (s.get (TT_RING_STAT_DROPPED r) + 1) 0xFFFF ∧ RegsBut [TT_RING_STAT_DROPPED r] [] s t)
    ∧ (∀ a, ¬other → frameGood f = true → typ = 2 → sampleOf s r f = some a →
        let x := s.axis a
        let th := nrQ f 34
        let w := nrQ f 42
        let beyond := decide (th < toSigned 32 (s.get (TT_AXIS_LIM_POS_MIN a))) || decide (toSigned 32 (s.get (TT_AXIS_LIM_POS_MAX a)) < th)
          || decide (toSigned 32 (s.get (TT_AXIS_LIM_VEL_MAX a)) < (w.natAbs : Int))
        ∃ t, exec c s = .next t ∧ (∀ b, b ≠ a → t.axis b = s.axis b)
          ∧ t.axis a = { x with due := false, got := true, missRun := 0, seen := true, lastTh := th, lastW := w, posRef := some (x.posRef.getD th), th := if x.loopDue then th else x.th, w := if x.loopDue then w else x.w, thm := if x.loopDue then le f 38 4 else x.thm, missing := !x.loopDue && x.missing }
          ∧ t.get (TT_AXIS_ST_MISS_CNT a) = 0 ∧ bit (t.get (TT_AXIS_ST_FAULT a)) 2 = (bit (s.get (TT_AXIS_ST_FAULT a)) 2 || bit (le f 54 4) 0)
          ∧ bit (t.get (TT_AXIS_ST_FAULT a)) 3 = (bit (s.get (TT_AXIS_ST_FAULT a)) 3 || beyond)
          ∧ t.mem = (match mirrorAt s a with
            | some m => s.mem.write m ((f.drop 34).take 24 ++ (f.drop 26).take 8)
            | none => s.mem)
          ∧ t = { s with regs := t.regs, mem := t.mem, tt := { s.tt with axes := t.tt.axes }, log := t.log, isl := { s.isl with wires := t.isl.wires }, bus := { s.bus with files := t.bus.files } }))
  ∧ (∀ (ecc : Ecc) (s : State), ecc.corr = [] →
    let b := s.get TT_STAGE_BASE
    let complete : Prop := stageOk s = true ∧ ofLe (readRange s b 8) = frameNumber s + 1
    let readable : Prop := (checkRange s initTT (ttTicket s) 0 ecc b 8).1 = 0 ∧ ∀ a ∈ takenAxes s, (checkRange s initTT (ttTicket s) 0 ecc (b + 64 + 16 * a) 12).1 = 0
    (takeDue s = false → exec (.takePoint ecc) s = .next s)
    ∧ (takeDue s = true → readable → complete → ∃ t, exec (.takePoint ecc) s = .next t ∧ t.get TT_SET_SET_FRAME = (frameNumber s + 1) % 2 ^ 48
        ∧ t.tt = { s.tt with axes := t.tt.axes, takenAt := some s.grid.pointAt, setAt := s.grid.boundaryAt + 550000, taking := some ⟨s.grid.now, b, takenAxes s⟩ }
        ∧ (∀ a ∈ takenAxes s, let e := readRange s (b + 64 + 16 * a) 12
            t.axis a = { s.axis a with posRef := some (nrQ e 0), velRef := nrQ e 4, tauFf := nrQ e 8 })
        ∧ (∀ a, a ∉ takenAxes s → t.axis a = s.axis a) ∧ t.isl = { s.isl with reint := if s.isl.reint = 2 then 3 else s.isl.reint }
        ∧ t = { s with regs := t.regs, tt := t.tt, isl := t.isl, ts := t.ts } ∧ RegsBut [TT_SET_SET_FRAME] [] s t)
    ∧ (takeDue s = true → readable → ¬complete → ∃ t, exec (.takePoint ecc) s = .next t ∧ t.tt = { s.tt with takenAt := some s.grid.pointAt }
        ∧ t.get TT_SET_SET_MISS = min (s.get TT_SET_SET_MISS + 1) 0xFFFF ∧ bit (t.get (INT_STAT pageTT)) 2 = true ∧ (s.isl.reint = 2 → t.isl.reint = 0 ∧ t.get EL_REINT_RESULT = 6)
        ∧ t.mem = s.mem))
  ∧ (∀ (r : Nat) (s : State), r < 4 →
    let as := (ringAxes s r).filter fun a => boundaryNext s a && (s.axis a).on
    let sends : Bool := !(s.is TT_STATUS_OWNER_ISL) && cmdPasses s r as.length
    let pos (a : Nat) : Int := ((s.axis a).posRef).getD 0
    (updateDue s r = false → ∀ mem, (∀ a ∈ mem, a < 128) → exec (.axisUpdate r mem) s = .next s)
    ∧ (updateDue s r = true → (∀ a ∈ as, (s.axis a).posRef ≠ none) → ∃ t, exec (.axisUpdate r []) s = .next t
        ∧ (t.ring r).updated = some s.grid.pointAt ∧ t.mem = s.mem ∧ t.grid = s.grid ∧ t.doubt = s.doubt
        ∧ t.bus.sent = s.bus.sent ++ (if sends && !as.isEmpty then [⟨4, r, cmdFrame s r false (as.map fun a => ttEntry s a (pos a) none)⟩] else [])
        ∧ (∀ a, a ∉ as → t.axis a = s.axis a)
        ∧ (∀ a ∈ as, let x := s.axis a
            let i := loopIn s a (pos a) none
            let o := loopStep (loopCfg s a) x.cog x.fric i
            let faults : Prop := o.run = max 1 (s.get (TT_AXIS_CFG_FAULT_CNT a)) ∧ i.run ≠ max 1 (s.get (TT_AXIS_CFG_FAULT_CNT a))
            let learns : Prop := x.first = false ∧ x.missing = false ∧ o.limited = false ∧ toSigned 32 (s.get (TT_AXIS_CFG_LV_MIN a)) ≤ (i.w.natAbs : Int) ∧ mayLearn s a = true
            t.axis a = { x with first := false, afterReturn := false, integ := o.integ, tauBump := o.tauBump, wPred := o.wPred, thPred := o.thPred, thmPrev := i.thm, sent := if sends then some (match x.sent with | some (v, true) => (v, true) | _ => (o.i, false)) else x.sent, cog := (t.axis a).cog }
            ∧ t.get (TT_AXIS_ST_RUN a) = o.run % 2 ^ 8 ∧ t.get (TT_AXIS_ST_D_HAT a) = ofSigned 32 o.dHat
            ∧ t.get (TT_AXIS_ST_THETA a) = ofSigned 32 i.th ∧ t.get (TT_AXIS_ST_OMEGA a) = ofSigned 32 i.w
            ∧ (faults → t.get (TT_AXIS_ST_STATE a) = 3 ∧ bit (t.get (TT_AXIS_ST_FAULT a)) 0 = true)
            ∧ (¬faults → t.get (TT_AXIS_ST_STATE a) = s.get (TT_AXIS_ST_STATE a) ∧ t.get (TT_AXIS_ST_FAULT a) = s.get (TT_AXIS_ST_FAULT a))
            ∧ (¬learns → (t.axis a).cog = x.cog)
            ∧ (learns → ¬faults → (t.axis a).cog = learned x s.grid.now (learnCog x.cog (toSigned 32 (s.get (TT_AXIS_ST_MBAR a))) (s.get (TT_AXIS_CFG_LG a) : Nat) (s.get (TT_AXIS_CFG_LSTEP a) : Nat)
                (toSigned 32 (s.get (TT_AXIS_CFG_CLIM a))) o.tfb i.thm).1))))

/-- O58: RING_RUN, the TT_CMD commands ENUM, READ and CONFIG, the table registers and the clearing of faults (R510, R525, R529, R530, R532, R533). (R505, R510, R525, R529, R530, R532, R533) -/
def Obligations.AxesAreStartedAndConfigured : Prop :=
  (∀ (init tkt r : Nat) (s : State), isInit init = true → isTicket tkt = true → r < 4 → Reaches s init tkt 1 (pageAddr pageTT 0x10) 8 →
    let runs := bit (s.get TT_CTRL_RUN) r
    ((runs = true ∨ s.planOn = false) → exec (.ringRun init tkt r) s = .next s)
    ∧ (runs = false → s.planOn = true → ringBudget s r = false → ∃ t, exec (.ringRun init tkt r) s = .next t ∧ t.get (TT_RING_STAT_BUDGET_ERR r) = 1
        ∧ bit (t.get (INT_STAT pageTT)) 4 = true ∧ t = { s with regs := t.regs, bus := { s.bus with files := t.bus.files } } ∧ RegsBut [TT_RING_STAT_BUDGET_ERR r, INT_STAT pageTT] [] s t)
    ∧ (runs = false → s.planOn = true → ringBudget s r = true → ∃ t, exec (.ringRun init tkt r) s = .next t ∧ t.get (TT_RING_STAT_BUDGET_ERR r) = 0
        ∧ bit (t.get TT_CTRL_RUN) r = true ∧ bit (t.get TT_STATUS_RUNNING) r = true
        ∧ (∀ a ∈ ringAxes s r, t.axis a = { s.axis a with on := true, first := true, afterReturn := false, missing := true, due := false, missRun := 0, sent := none, posRef := none, velRef := 0, tauFf := 0 }
            ∧ t.get (TT_AXIS_ST_STATE a) = if s.get (TT_AXIS_ST_STATE a) = 3 then 3 else 2)
        ∧ (∀ a, a ∉ ringAxes s r → t.axis a = s.axis a) ∧ t = { s with regs := t.regs, tt := { s.tt with axes := t.tt.axes } }
        ∧ RegsBut ([TT_RING_STAT_BUDGET_ERR r, TT_CTRL_RUN, TT_STATUS_RUNNING, EL_NET_STAT_ARMED, EL_NET_STAT_BUDGET_ERR] ++ (List.range 128).map TT_AXIS_ST_STATE) [] s t))
  ∧ (∀ (init tkt r n a : Nat) (ecc : Ecc) (s : State), isInit init = true → isTicket tkt = true → isIsland init = true → r < 4 → n < 64 → a < 128 →
    Reaches s init tkt 1 (pageAddr pageTT 0x180) 8 →
    let ends (c : Instr) (result : Nat) : Prop := ∃ t, exec c s = .next t ∧ t.get TT_CMD_STAT_RESULT = result ∧ t.get TT_CMD_STAT_BUSY = 0 ∧ bit (t.get (INT_STAT pageTT)) 5 = true
      ∧ t = { s with regs := t.regs, tt := { s.tt with cmd := none }, bus := { s.bus with files := t.bus.files }, ts := t.ts } ∧ RegsBut [TT_CMD_STAT_RESULT, TT_CMD_STAT_BUSY, INT_STAT pageTT] [] s t
    let begins (c : Instr) (q : TtCmd) (out : List Out) : Prop := ∃ t, exec c s = .next t ∧ t.tt.cmd = some q ∧ t.get TT_CMD_STAT_BUSY = 1
      ∧ t.bus.sent = s.bus.sent ++ out ∧ (∀ b, t.axis b = s.axis b) ∧ RegsBut [TT_CMD_STAT_BUSY] [] s t
    let frame (da ty node : Nat) (body : List Byte) : List Out :=
      let f := axisFrame s r da 5 ty 0 node 0 0 body
      if gatePasses s r 5 (f.length + 24) then [⟨4, r, f⟩] else []
    (s.is TT_CMD_STAT_BUSY = true → ∀ c ∈ [Instr.enum init tkt r, .read init tkt r n a, .config init tkt a r n ecc], exec c s = .next s)
    ∧ (s.is TT_CMD_STAT_BUSY = false →
        (bit (s.get TT_CTRL_RUN) r = true → ends (.enum init tkt r) 7)
        ∧ (bit (s.get TT_CTRL_RUN) r = false → begins (.enum init tkt r) ⟨1, r, 0, 0, 0, 1⟩ (frame (s.get (TT_RING_DST_MAC r)) 3 0 (leBytes 8 0)))
        ∧ begins (.read init tkt r n a) ⟨2, r, n, a, 0, 1⟩ (match (s.ring r).found.find? fun m => m.1 == n with
          | some m => frame m.2.1 5 n (leBytes 2 0 ++ leBytes 2 1024 ++ leBytes 4 0)
          | none => [])
        ∧ (ecc.corr = [] → (checkRange s initTT (ttTicket s) 0 ecc (s.get TT_IDENT_BUF_ADDR) 5376).1 = 0 →
            let b := readRange s (s.get TT_IDENT_BUF_ADDR) 5376
            let g (i : Nat) : Nat := ofSigned 32 ((identDerived b).getD i (0, false)).1
            (identResult b ≠ 0 → ends (.config init tkt a r n ecc) (identResult b))
            ∧ (identResult b = 0 → ∃ t, exec (.config init tkt a r n ecc) s = .next t ∧ t.get TT_CMD_STAT_RESULT = 0 ∧ t.get TT_CMD_STAT_BUSY = 0 ∧ t.get (TT_AXIS_ST_STATE a) = 1
                ∧ t.get (TT_AXIS_CFG_KTG a) = g 0 ∧ t.get (TT_AXIS_CFG_INV_KTG a) = g 1 ∧ t.get (TT_AXIS_CFG_INV_J a) = g 2 ∧ t.get (TT_AXIS_CFG_INV_VSTEP a) = g 3
                ∧ t.get (TT_AXIS_LIM_I_MAX a) = le b 40 4 ∧ t.get (TT_AXIS_LIM_TAU_MAX a) = le b 44 4 ∧ t.get (TT_AXIS_LIM_VEL_MAX a) = le b 48 4
                ∧ t.get (TT_AXIS_LIM_POS_MIN a) = le b 52 4 ∧ t.get (TT_AXIS_LIM_POS_MAX a) = le b 56 4
                ∧ (t.axis a).fric = (List.range 256).map (fun i => nrQ b (128 + 4 * i)) ∧ (t.axis a).first = true ∧ (∀ c, c ≠ a → t.axis c = s.axis c)
                ∧ ((s.is (TT_AXIS_ST_COG_VALID a) = false ∨ s.get (TT_AXIS_LIM_SERIAL a) ≠ le b 16 8) → (t.axis a).cog = (List.range 1024).map (fun i => nrQ b (1152 + 4 * i))
                    ∧ t.get (TT_AXIS_LIM_SERIAL a) = le b 16 8 ∧ t.get (TT_AXIS_ST_COG_VALID a) = 1)
                ∧ (s.is (TT_AXIS_ST_COG_VALID a) = true → s.get (TT_AXIS_LIM_SERIAL a) = le b 16 8 → (t.axis a).cog = (s.axis a).cog)
                ∧ MemBut [(s.get EL_NET_TAB_ADDR + 64 * a, 64)] s t))))
  ∧ (∀ s : State, s.boot.step ≠ 7 →
    let ends (c : Instr) (result : Nat) : Prop := ∃ t, exec c s = .next t ∧ t.get TT_CMD_STAT_RESULT = result ∧ t.get TT_CMD_STAT_BUSY = 0 ∧ t.tt = { s.tt with cmd := none } ∧ t.mem = s.mem
    (s.tt.cmd = none → exec .enumDone s = .next s ∧ exec .identReqTimeout s = .next s)
    ∧ (∀ q, s.tt.cmd = some q → q.ring < 4 →
      let resend (q : TtCmd) : List Out := match (s.ring q.ring).found.find? fun m => m.1 == q.node with
        | some m => let f := axisFrame s q.ring m.2.1 5 5 0 q.node 0 0 (leBytes 2 q.offset ++ leBytes 2 (identLen q.offset) ++ leBytes 4 0)
          if gatePasses s q.ring 5 (f.length + 24) then [⟨4, q.ring, f⟩] else []
        | none => []
      (q.op ≠ 1 → exec .enumDone s = .next s) ∧ (q.op ≠ 2 → exec .identReqTimeout s = .next s)
      ∧ (q.op = 1 → (s.is (TT_RING_STAT_LINK q.ring) = false → ends .enumDone 1)
          ∧ (s.is (TT_RING_STAT_LINK q.ring) = true → enumOk (s.ring q.ring).found = false → ends .enumDone 2)
          ∧ (s.is (TT_RING_STAT_LINK q.ring) = true → enumOk (s.ring q.ring).found = true → ∃ t, exec .enumDone s = .next t ∧ t.get TT_CMD_STAT_RESULT = 0
              ∧ t.get (TT_RING_STAT_NODES q.ring) = (s.ring q.ring).found.length % 2 ^ 7 ∧ t.tt = { s.tt with cmd := none }))
      ∧ (q.op = 2 → (3 ≤ q.attempt → ends .identReqTimeout 3)
          ∧ (q.attempt < 3 → ∃ t, exec .identReqTimeout s = .next t ∧ t.tt = { s.tt with cmd := some { q with attempt := q.attempt + 1 } }
              ∧ t.regs = s.regs ∧ t.bus.sent = s.bus.sent ++ resend q))
      ∧ (∀ f, q.op = 2 → ofBe ((f.drop 12).take 2) = 0x8100 → ofBe ((f.drop 16).take 2) = s.get (TT_RING_CFG_ETHERTYPE q.ring) → 18 ≤ f.length → frameGood f = true → (f.getD 19 0#8).toNat = 6 →
          q.node = (f.getD 21 0#8).toNat → le f 34 2 = q.offset → le f 36 2 = identLen q.offset →
          let a := s.get TT_IDENT_BUF_ADDR + q.offset
          Passes s initTT (ttTicket s) 1 a (identLen q.offset) → ∃ t, exec (.identRsp q.ring f) s = .next t
            ∧ t.mem = (s.act (writeRange a ((f.drop 42).take (identLen q.offset)))).mem
            ∧ (5376 ≤ q.offset + identLen q.offset → t.tt.cmd = none ∧ t.get TT_CMD_STAT_RESULT = 0 ∧ t.get TT_CMD_STAT_BUSY = 0)
            ∧ (q.offset + identLen q.offset < 5376 → t.tt.cmd = some { q with offset := q.offset + identLen q.offset, attempt := 1 }))))
  ∧ (∀ (init data axis : Nat) (s : State), isInit init = true → data < 2 ^ 32 → axis < 128 →
    let k := s.get TT_TAB_SEL_INDEX % tabSize s
    let sel := s.get TT_TAB_SEL_AXIS
    (Reaches s init (ticketOf s init) 0 (pageAddr pageTT 0x1A8) 4 → ∃ t, exec (.tabDataAccess init false data) s = .next t
        ∧ t.get TT_TAB_SEL_INDEX = (s.get TT_TAB_SEL_INDEX + 1) % 1024 ∧ t = { s with regs := t.regs, bus := { s.bus with resp := some ⟨init, 0, 0, leBytes 4 (ofSigned 32 ((if s.is TT_TAB_SEL_TABLE then (s.axis sel).fric else (s.axis sel).cog).getD k 0))⟩ } } ∧ RegsBut [TT_TAB_SEL_INDEX] [] s t)
    ∧ (Reaches s init (ticketOf s init) 1 (pageAddr pageTT 0x1A8) 4 → ∃ t, exec (.tabDataAccess init true data) s = .next t
        ∧ t.get TT_TAB_SEL_INDEX = (s.get TT_TAB_SEL_INDEX + 1) % 1024 ∧ (∀ b, b ≠ sel → t.axis b = s.axis b)
        ∧ (if s.is TT_TAB_SEL_TABLE then (t.axis sel).fric else (t.axis sel).cog)[k]? = some (toSigned 32 data)
        ∧ (∀ i, i ≠ k → (if s.is TT_TAB_SEL_TABLE then (t.axis sel).fric else (t.axis sel).cog).getD i 0 = (if s.is TT_TAB_SEL_TABLE then (s.axis sel).fric else (s.axis sel).cog).getD i 0)
        ∧ t = { s with regs := t.regs, tt := { s.tt with axes := t.tt.axes } } ∧ RegsBut [TT_TAB_SEL_INDEX] [] s t)
    ∧ (Reaches s init (ticketOf s init) 1 (pageAddr pageTT (0x5010 + 32 * axis)) 8 → s.get (TT_AXIS_ST_FAULT axis) < 32 → ∃ t, exec (.faultClear init axis) s = .next t
        ∧ t.get (TT_AXIS_ST_FAULT axis) = 0 ∧ (s.get (TT_AXIS_ST_FAULT axis) = 0 → t = { s with regs := t.regs } ∧ RegsBut [TT_AXIS_ST_FAULT axis] [] s t)
        ∧ (s.get (TT_AXIS_ST_FAULT axis) ≠ 0 → t.axis axis = { s.axis axis with first := true, afterReturn := false }
            ∧ t.get (TT_AXIS_ST_STATE axis) = (if (s.axis axis).on then 2 else 1) ∧ (∀ b, b ≠ axis → t.axis b = s.axis b)
            ∧ t = { s with regs := t.regs, tt := { s.tt with axes := t.tt.axes } } ∧ RegsBut [TT_AXIS_ST_FAULT axis, TT_AXIS_ST_STATE axis] [] s t)))
  ∧ (∀ (ring : Nat) (up : Bool) (s : State), ring < 4 → ∃ t, exec (.portLinkChange ring up) s = .next t ∧ t.get (TT_RING_STAT_LINK ring) = ofBool up
    ∧ t = { s with regs := t.regs } ∧ RegsBut [TT_RING_STAT_LINK ring] [] s t)

/-- O59: The island: doubt latches, pairs stop, watchdogs, arming and update of the net, reintegration, carousel steps, and the error log (R537 to R539, R547 to R570). (R537, R538, R539, R542, R547, R551, R552, R556, R557, R564, R569, R570) -/
def Obligations.IslandLatchesCommandsAndLogs : Prop :=
  (∀ (ws : List (Nat × Nat)) (s : State), Instr.wellFormed (.doubtWireAssert ws) = true → let all := s.isl.wires ++ ws
    ∃ t, exec (.doubtWireAssert ws) s = .next t ∧ t.isl.wires = [] ∧ t.mem = s.mem ∧ (∀ n, bit t.doubt.bits n = (bit s.doubt.bits n || all.any fun w => w.1 == n))
      ∧ (s.doubt.bits ≠ 0 ∨ all = [] → t.doubt = { s.doubt with bits := t.doubt.bits })
      ∧ (s.doubt.bits = 0 → all ≠ [] → ∃ w ∈ all, t.doubt = ⟨t.doubt.bits, w.1, w.2, s.timestamp⟩ ∧ ∀ v ∈ all, w.1 < v.1 ∨ (w.1 = v.1 ∧ w.2 ≤ v.2))
      ∧ (all ≠ [] → s.doubt.bits = 0 → bit (t.get (INT_STAT pageEL)) 0 = true)
      ∧ (all ≠ [] → s.doubt.bits = 0 → s.is EL_NET_STAT_OWNER = false → s.isl.handoverAt = none → s.grid.running = true →
          t.isl.handoverAt = some (if s.grid.now ≤ s.grid.pointAt + s.get EL_NET_TIME_NET_OFS then s.grid.pointAt + 137500 else s.grid.pointAt + 275000)))
  ∧ (∀ (init : Nat) (s : State), isInit init = true →
    (Reaches s init (ticketOf s init) 1 (pageAddr pageEL 0x108) 4 → ∃ t, exec (.doubtRequest init) s = .next t ∧ (∀ n, bit t.doubt.bits n = (bit s.doubt.bits n || n == 14))
        ∧ (s.doubt.bits = 0 → t.doubt.firstSrc = 14 ∧ t.doubt.firstTime = s.timestamp) ∧ t.mem = s.mem)
    ∧ (Reaches s init (ticketOf s init) 1 (pageAddr pageEL 0x118) 4 → exec (.hostKick init) s = .next { s with isl := { s.isl with hostAt := s.grid.now } })
    ∧ (isIsland init = true → Reaches s init (ticketOf s init) 1 (pageAddr pageISL 0x120) 8 → ∃ t, exec (.netArm init) s = .next t ∧ t.get EL_NET_CFG_ARM = 1
        ∧ t.is EL_NET_STAT_ARMED = netBudget s ∧ t.is EL_NET_STAT_BUDGET_ERR = !netBudget s ∧ t = { s with regs := t.regs }
        ∧ RegsBut [EL_NET_CFG_ARM, EL_NET_STAT_ARMED, EL_NET_STAT_BUDGET_ERR] [] s t)
    ∧ (Reaches s init (ticketOf s init) 1 (pageAddr pageEL 0x110) 4 →
        let fails (code : Nat) : Prop := ∃ t, exec (.reintRequest init) s = .next t ∧ t.get EL_REINT_RESULT = code ∧ bit (t.get (INT_STAT pageEL)) 4 = true ∧ t.isl.reint = s.isl.reint ∧ t.doubt = s.doubt ∧ t.rm = s.rm
        (s.isl.reint ≠ 0 → fails 2)
        ∧ (s.isl.reint = 0 → (s.doubted = false → fails 1) ∧ (s.doubted = true → lockstepOk s 1 = false → fails 2)
            ∧ (s.doubted = true → lockstepOk s 1 = true → reintCondition s = false → fails 3)
            ∧ (s.doubted = true → lockstepOk s 1 = true → reintCondition s = true → (s.is EL_NET_STAT_ARMED = false ∨ s.planOn = false) → fails 4)
            ∧ (s.doubted = true → lockstepOk s 1 = true → reintCondition s = true → s.is EL_NET_STAT_ARMED = true → s.planOn = true → ∃ t, exec (.reintRequest init) s = .next t
                ∧ t.get EL_REINT_BUSY = 1 ∧ t.isl.reint = (if passUnits s = [] then 2 else 1) ∧ t.isl.reintWait = passUnits s ∧ t.isl.reintBits = 0 ∧ t.doubt = s.doubt))))
  ∧ (∀ s : State,
    let stops (c : Instr) (p : Nat) : Prop := (lockstepOk s p = false → exec c s = .next s)
      ∧ (lockstepOk s p = true → ∃ t, exec c s = .next t ∧ lockstepOk t p = false ∧ bit t.doubt.bits 12 = true ∧ t.isl.carousel = none ∧ t.isl.awaiting = [] ∧ t.isl.reint = 0 ∧ t.mem = s.mem
          ∧ (s.isl.reint ≠ 0 → t.get EL_REINT_RESULT = 2) ∧ (p = 0 → lockstepOk s 1 = true → t.get EL_NET_STAT_NET_PAIR = 1)
          ∧ t.isl.sto = (s.isl.sto && lockstepOk s (1 - p)))
    (∀ p, p < 2 → stops (.lockstepMismatch p) p) ∧ stops .watchWatchdogExpiry 1
    ∧ (s.get EL_NET_STAT_NET_PAIR = 0 → stops .netWatchdogExpiry 0) ∧ (s.get EL_NET_STAT_NET_PAIR ≠ 0 → exec .netWatchdogExpiry s = .next s)
    ∧ (∀ w, w < 3 → (mayExpire s w = false → exec (.watchdogExpiry w) s = .next s)
        ∧ (mayExpire s w = true → ∃ t, exec (.watchdogExpiry w) s = .next t ∧ (∀ n, bit t.doubt.bits n = (bit s.doubt.bits n || n == 11)) ∧ t.mem = s.mem))
    ∧ (s.isl.reint ≠ 1 → exec .reintGoldenTimeout s = .next s)
    ∧ (s.isl.reint = 1 → ∃ t, exec .reintGoldenTimeout s = .next t ∧ t.get EL_REINT_RESULT = 5 ∧ t.get EL_REINT_BUSY = 0 ∧ t.isl = { s.isl with reint := 0, reintWait := [] } ∧ t.doubt = s.doubt)
    ∧ (netDue s = false → exec .netUpdate s = .next s)
    ∧ (netDue s = true → (∀ a, a < 128 → (s.axis a).due = false) →
        (s.is EL_NET_STAT_ARMED = false → ∃ t, exec .netUpdate s = .next t ∧ t.isl = { s.isl with netAt := some s.grid.pointAt, sto := s.isl.sto && !(s.is EL_NET_STAT_OWNER) } ∧ t.tt = s.tt ∧ t.bus.sent = s.bus.sent)
        ∧ (s.is EL_NET_STAT_ARMED = true → ∃ t, exec .netUpdate s = .next t ∧ t.is EL_NET_STAT_IMU_STALE = imuStale s ∧ t.isl.netAt = some s.grid.pointAt ∧ t.mem = s.mem ∧ t.doubt = s.doubt ∧ t.grid = s.grid
            ∧ (netMode s = 2 → s.is EL_NET_STAT_OWNER = true → s.isl.stopDone = false → s.isl.handoverPoint + s.get EL_NET_TIME_T1_MAX * 137500 ≤ s.grid.pointAt →
                t.get EL_NET_STAT_STOPPED = 1 ∧ t.isl.sto = false ∧ t.isl.stopDone = true)
            ∧ (∀ a ∈ commanded s, let r := nrRing (netRec s a)
                let o := netLaw (netRec s a) (netMode s) (netAxis s a) (netSample s a).1 (netSample s a).2 (toSigned 32 (s.get (TT_AXIS_ST_I_LAST a))) ((List.range 6).map fun c => (imuChannel s c).1)
                (netAxis t a).pr = o.st.pr ∧ (netAxis t a).vr = o.st.vr
                  ∧ (netAxis t a).tg = o.st.tg ∧ (netAxis t a).tauBump = o.st.tauBump ∧ (netAxis t a).first = false ∧ (o.sat = true → t.isl.ovf = true)
                  ∧ (t.axis a).sent = (if cmdPasses s r (netRingAxes s r).length then some (o.i, true) else (s.axis a).sent))
            ∧ (∀ r, r < 4 → ringRuns s r = true → cmdPasses s r (netRingAxes s r).length = true → (t.ring r).sentAt = some s.grid.pointAt
                ∧ ∃ es, es.length = (netRingAxes s r).length ∧ ⟨4, r, cmdFrame s r true es⟩ ∈ t.bus.sent)))
    ∧ (∀ e ok, e < 102 → (s.isl.carousel ≠ some e → exec (.carouselStepDone e ok) s = .next s)
        ∧ (s.isl.carousel = some e → ∃ t, exec (.carouselStepDone e ok) s = .next t ∧ t.isl.carousel = none ∧ t.get (EL_CAR_RUNNING e) = 0 ∧ t.mem = s.mem
            ∧ (ok = true → t.get (EL_CAR_LAST_PASS e) = s.timestamp ∧ t.doubt = s.doubt) ∧ (ok = false → t.get (EL_CAR_FAIL e) = 1 ∧ bit t.doubt.bits 10 = true)))
    ∧ (∀ q, nextLogQueue s.log = some q → ∃ i, i < 5 ∧ q = (s.log.last + 1 + i) % 5 ∧ s.log.queues.getD q [] ≠ [] ∧ ∀ k, k < i → s.log.queues.getD ((s.log.last + 1 + k) % 5) [] = [])
    ∧ (let full : Prop := 4096 ≤ (s.get EL_LOG_HEAD_HEAD + 2 ^ 32 - s.get EL_LOG_TAIL_TAIL) % 2 ^ 32
        let a := 0xE408000000 + 32 * (s.get EL_LOG_HEAD_HEAD % 4096)
        (full ∨ nextLogQueue s.log = none → exec .logWrite s = .next s)
        ∧ (∀ q r rs, ¬full → nextLogQueue s.log = some q → s.log.queues.getD q [] = r :: rs → Passes s 0x0A3 (s.get FW_HK_TKT_LOG_TKT) 1 a 32 → ∃ t, exec .logWrite s = .next t
            ∧ t.log = { s.log with queues := s.log.queues.set q rs, last := q } ∧ t.get EL_LOG_HEAD_HEAD = (s.get EL_LOG_HEAD_HEAD + 1) % 2 ^ 32 ∧ bit (t.get (INT_STAT pageEL)) 1 = true
            ∧ t.mem = (s.act (writeRange a (logRecord r))).mem ∧ MemBut [(a, 32)] s t)))
  ∧ (∀ (init tkt v : Nat) (s : State), isInit init = true → isTicket tkt = true → v < 2 ^ 32 → Reaches s init tkt 1 (pageAddr pageEL 0x124) 4 →
      let beyond : Prop := 4096 < (s.get EL_LOG_HEAD_HEAD + 2 ^ 32 - v) % 2 ^ 32
      (¬beyond → ∃ t, exec (.logTailWrite init tkt v) s = .next t ∧ t.get EL_LOG_TAIL_TAIL = v ∧ t = { s with regs := t.regs } ∧ RegsBut [EL_LOG_TAIL_TAIL] [] s t)
      ∧ (beyond → ∃ t, exec (.logTailWrite init tkt v) s = .next t ∧ t.get EL_LOG_TAIL_TAIL = s.get EL_LOG_TAIL_TAIL ∧ t.is (ERRW_VALID pageEL) = true))

/-- O60: Current, power and budget windows, gain, temperatures and votes set duties, caps, allocation, misses and carousel steps (R336, R562, R599 to R618). (R336, R343, R562, R599, R600, R601, R605, R608, R610, R614, R615, R618) -/
def Obligations.PowerAndBudgetWindowsAct : Prop :=
  (∀ (raw : List Nat) (s : State), raw.length = 13 →
    let e (r : Nat) : Nat := min (raw.getD r 0 * s.get (PW_RAIL_STAT_GAIN r) / 2 ^ 14) 0xFFFF
    ∃ t, exec (.currentWindow raw) s = .next t
    ∧ t.mem = s.mem ∧ t.doubt = s.doubt ∧ t.rm = s.rm ∧ t.plan = s.plan
    ∧ t.pw.energy = (List.range 13).map (fun r => s.pw.energy.getD r 0 + railVolts s r * e r)
    ∧ t.pw.raw = (List.range 13).map (fun r => s.pw.raw.getD r 0 + raw.getD r 0) ∧ t.pw.rawWindows = s.pw.rawWindows + 1
    ∧ t.isl.wires = s.isl.wires ++ (((List.range 13).filter fun r => s.get (PW_RAIL_CFG_ILIM_HARD r) < e r).map fun r => (9, if r < 4 then r else 4))
    ∧ (∀ r, r < 13 → t.get (PW_RAIL_STAT_I_EST r) = e r ∧ t.get (PW_RAIL_STAT_I_PEAK r) = max (e r) (s.get (PW_RAIL_STAT_I_PEAK r)) % 2 ^ 16)
    ∧ (∀ d, d < 4 → let e := e d
        let n := s.get (PW_DUTY_RAIL d)
        (s.get (PW_RAIL_CFG_ILIM d) < e → t.get (PW_DUTY_RAIL d) = max 1 (n / 2) % 2 ^ 5 ∧ bit (t.get (INT_STAT pagePW)) 5 = true)
        ∧ (e ≤ s.get (PW_RAIL_CFG_ILIM d) → 8 * e ≤ 7 * s.get (PW_RAIL_CFG_ILIM d) → t.get (PW_DUTY_RAIL d) = min 16 (n + 1))
        ∧ (e ≤ s.get (PW_RAIL_CFG_ILIM d) → 7 * s.get (PW_RAIL_CFG_ILIM d) < 8 * e → t.get (PW_DUTY_RAIL d) = n))
    ∧ ((∃ r ∈ [6, 7, 8], s.get (PW_RAIL_CFG_ILIM r) < e r) → t.pw.memHalf = true)
    ∧ ((∀ r ∈ [6, 7, 8], 8 * e r ≤ 7 * s.get (PW_RAIL_CFG_ILIM r)) → t.pw.memHalf = false)
    ∧ ((∃ r ∈ [9, 10], s.get (PW_RAIL_CFG_ILIM r) < e r) → t.pw.linkHalf = true)
    ∧ ((∀ r ∈ [9, 10], 8 * e r ≤ 7 * s.get (PW_RAIL_CFG_ILIM r)) → t.pw.linkHalf = false))
  ∧ (∀ (avs pmbus : List Nat) (s : State), avs.length = 5 → pmbus.length = 8 → ∃ t, exec (.gainUpdate avs pmbus) s = .next t ∧ t.mem = s.mem ∧ t.isl = s.isl ∧ t.pw = { s.pw with raw := [], rawWindows := 0 }
    ∧ ∀ r, r < 13 → 12288 ≤ t.get (PW_RAIL_STAT_GAIN r) ∧ t.get (PW_RAIL_STAT_GAIN r) ≤ 24576
      ∧ (s.pw.raw.getD r 0 ≠ 0 → let q : Int := ((avs ++ pmbus).getD r 0 * s.pw.rawWindows * 2 ^ 14 / s.pw.raw.getD r 0 : Nat)
          let g : Int := s.get (PW_RAIL_STAT_GAIN r)
          (t.get (PW_RAIL_STAT_GAIN r) : Int) = min 24576 (max 12288 (g + (q - g) / 16)) ∧ (q < 12288 ∨ 20480 < q → bit (t.get (INT_STAT pagePW)) 6 = true)))
  ∧ (∀ (ts ks : List (List Int)) (s : State), Instr.wellFormed (.tempSample ts ks) = true →
    let read (n : Nat) : Bool := n == 4 || !(dieOff s n)
    ∃ t, exec (.tempSample ts ks) s = .next t ∧ t.mem = s.mem ∧ t.doubt = s.doubt
      ∧ (∀ n, n < 5 → read n = true → (∀ i, i < 16 → t.get (PW_TEMP_T n i) = ofSigned 12 ((ts.getD n []).getD i 0)) ∧ t.get (PW_TEMP_MAX_DIE n) = ofSigned 12 (maxI (ts.getD n [])))
      ∧ (∀ n, n < 5 → read n = false → t.get (PW_TEMP_MAX_DIE n) = s.get (PW_TEMP_MAX_DIE n))
      ∧ t.isl.wires = s.isl.wires ++ (((List.range 5).filter fun n => read n && tooHot t n).map fun n => (9, n))
      ∧ (t.pw.thermN = true ↔ s.pw.thermN = true ∧ ∀ n, n < 5 → read n = true → maxI (ts.getD n []) < 880))
  ∧ (∀ (p : Nat) (es : List (Nat × Nat × Nat)) (s : State), Instr.wellFormed (.voteReceived p es) = true →
    ((s.is PW_CTRL_VOTE_EN && s.is (YL_STATUS_UP p)) = false → exec (.voteReceived p es) s = .next s)
    ∧ ((s.is PW_CTRL_VOTE_EN && s.is (YL_STATUS_UP p)) = true → ∃ t, exec (.voteReceived p es) s = .next t
        ∧ t.pw = { s.pw with votes := es.foldl (keepVote (s.get YL_SELF_SELF)) s.pw.votes, throttled := t.pw.throttled }
        ∧ t.get PW_VOTE_APPLIED = t.pw.votes.foldl (fun n e => min n e.2.1) 16
        ∧ (∀ d, d < 4 → t.get (PW_DUTY_APPLIED d) = min (min (s.get (PW_DUTY_ALLOC d)) (s.get (PW_DUTY_RAIL d))) (min (s.get (PW_DUTY_THERM d)) (t.get PW_VOTE_APPLIED)))
        ∧ t = { s with regs := t.regs, pw := t.pw } ∧ RegsBut ([PW_VOTE_APPLIED, PW_VOTE_SEEN_PARTS] ++ (List.range 4).map PW_DUTY_APPLIED) [] s t))
  ∧ (∀ (use : PowerUse) (s : State), Instr.wellFormed (.powerWindow use) = true →
    let m := measured s use
    let shares : List (Nat × Nat) := use.rails.zipIdx.flatMap fun (x : RailUse × Nat) => ((x.1.jobs.map fun (j : JobUse) => (j.client, j.estimate)) ++ x.1.idle.map fun (e : Nat) => ((0 : Nat), e)).map fun (y : Nat × Nat) =>
      (y.1, s.pw.energy.getD x.2 0 * 1024 * y.2 / (8000 * railTotal x.1))
    (windowDue s.grid s.grid.powerWindow 110000 = false → exec (.powerWindow use) s = .next s)
    ∧ (windowDue s.grid s.grid.powerWindow 110000 = true → ∃ t, exec (.powerWindow use) s = .next t
        ∧ t.grid = { s.grid with powerWindow := if s.grid.running && decide (s.grid.powerWindow < s.grid.boundaryAt) then s.grid.boundaryAt else s.grid.powerWindow + 110000 }
        ∧ t.mem = s.mem ∧ t.doubt = s.doubt ∧ t.rm = s.rm ∧ t.pw.allocated = true
        ∧ t.get PW_MEAS_P_HUB = m.hub % 2 ^ 16 ∧ t.get PW_MEAS_M_C = m.classC % 2 ^ 16 ∧ t.get PW_MEAS_M_M = m.classM % 2 ^ 16 ∧ t.get PW_MEAS_M_L = m.classL % 2 ^ 16
        ∧ t.get PW_ENERGY_UJ = (s.get PW_ENERGY_UJ + (s.pw.energy.foldl (fun n x => n + x) 0) / 8000) % 2 ^ 64 ∧ t.pw.energy = []
        ∧ (∀ c, c < 1024 → s.get (RM_CLIENT_ACCT_ENERGY_UJ c) < 2 ^ 64 → s.get (RM_CLIENT_ACCT_ENERGY_FRAC c) < 1024 →
            t.get (RM_CLIENT_ACCT_ENERGY_UJ c) * 1024 + t.get (RM_CLIENT_ACCT_ENERGY_FRAC c)
              = (s.get (RM_CLIENT_ACCT_ENERGY_UJ c) * 1024 + s.get (RM_CLIENT_ACCT_ENERGY_FRAC c)
                + ((shares.filter fun y => y.1 == c).map Prod.snd).foldl (fun n x => n + x) 0) % 2 ^ 74)
        ∧ (∀ d, d < 4 → let n := s.get (PW_DUTY_THERM d)
            let lim : Int := s.get (PW_THERM_CFG_T_THROT d)
            (8 * lim ≤ dieTemp s d → t.get (PW_DUTY_THERM d) = (if n ≤ 1 then 1 else n - 1) % 2 ^ 5)
            ∧ (dieTemp s d < 8 * (lim - 2) → t.get (PW_DUTY_THERM d) = min 16 (n + 1))
            ∧ (8 * (lim - 2) ≤ dieTemp s d → dieTemp s d < 8 * lim → t.get (PW_DUTY_THERM d) = n)
            ∧ 1 ≤ t.get (PW_DUTY_ALLOC d) ∧ t.get (PW_DUTY_ALLOC d) ≤ 16)
        ∧ t.get PW_VOTE_OWN = ownDuty t
        ∧ (let b := 4 * pkgCap s - m.hub
          let thr := classThrottled s
          let am := min (if thr 1 then m.classM + m.classM / 8 else m.classM) b
          let ac := min (if thr 0 then m.classC + m.classC / 8 else m.classC) (b - am)
          (learnedMode s = false → t.get PW_STATUS_MODE = 1 ∧ t.get PW_ALLOC_A_M = am ∧ t.get PW_ALLOC_A_C = ac ∧ t.get PW_ALLOC_A_L = b - am - ac)
          ∧ (∀ e, learnedMode s = true → ((t.pw.look.bind Prod.snd).bind fun i => mget t.pw.phases i) = some e →
              let a := learnedAlloc b e.dc e.dm e.dl (s.get PW_FLOOR_FC) (s.get PW_FLOOR_FM) (s.get PW_FLOOR_FL)
              t.get PW_STATUS_MODE = 0 ∧ t.get PW_ALLOC_A_C = a.1 ∧ t.get PW_ALLOC_A_M = a.2.1 ∧ t.get PW_ALLOC_A_L = a.2.2))))
  ∧ (∀ b dc dm dl fc fm fl : Nat, let a := learnedAlloc b dc dm dl fc fm fl
      a.1 + a.2.1 + a.2.2 = b ∧ (dc + dm + dl ≤ b → a.2.1 = dm ∧ a.2.2 = dl) ∧ (b < dc + dm + dl → fc + fm + fl ≤ b → fc ≤ a.1 ∧ fm ≤ a.2.1 ∧ fl ≤ a.2.2))
  ∧ (∀ s : State, (windowDue s.grid s.grid.windowAt 11000 = false → exec .budgetWindow s = .next s)
    ∧ (windowDue s.grid s.grid.windowAt 11000 = true → ∃ t, exec .budgetWindow s = .next t
        ∧ t.grid = { s.grid with windowAt := if s.grid.running && decide (s.grid.windowAt < s.grid.boundaryAt) then s.grid.boundaryAt else s.grid.windowAt + 11000, window := s.grid.window + 1 }
        ∧ t.pw = { s.pw with caps := windowCaps s } ∧ t.ts.classB = [] ∧ t.mem = s.mem ∧ t.rm = s.rm
        ∧ (∀ p ∈ ports, ∀ k, k < 64 → (mget s.ts.entries (64 * p + k)).isSome = true → (tsEntry t p k).used = 0 ∧ (tsEntry t p k).admitted = 0 ∧ (tsEntry t p k).level = (tsEntry s p k).level)
        ∧ (∀ p ∈ ports, ∀ k, k < 64 → tsRate s p k ≠ 0 → s.ts.exempt.contains p = false → (tsEntry s p k).admitted + 256 < min (tsEntry s p k).demand (1000 * tsRate s p k) →
            bit (t.get (FW_GM_MISS_TKT (portPage p).1 (portPage p).2)) k = true)
        ∧ (lockstepOk s 0 = true → lockstepOk s 1 = true → s.isl.carousel = none → ∀ e r, carOrder s = e :: r →
            (carFits s e = true → t.get (EL_CAR_RUNNING e) = 1 ∧ (isComparator e = true → t.isl.awaiting = s.isl.awaiting ++ [e]) ∧ (isComparator e = false → t.isl.carousel = some e))
            ∧ (carFits s e = false → t.get (EL_CAR_POSTPONES e) = min (s.get (EL_CAR_POSTPONES e) + 1) 0xFFFF))
        ∧ ((lockstepOk s 0 = false ∨ lockstepOk s 1 = false) → t.isl.carousel = s.isl.carousel)))
end

