-- ==== Sys2Proof/Laws/Bits.lean ====
section
/-! SUPPORT. Bit fields, byte order and two's complement: what is read of what was put. -/

namespace Sys2Proof.Machine

theorem bit_eq_testBit (v n : Nat) : bit v n = v.testBit n := by
  rw [bit, Nat.testBit_eq_decide_div_mod_eq]; rfl

/-- The bits of a number above bit `k` do not see an addition at bit `k` that carries nothing. -/
theorem div_add_bit {v k n : Nat} (hk : (v / 2 ^ k) % 2 = 0) (h : k < n) : (v + 2 ^ k) / 2 ^ n = v / 2 ^ n := by
  obtain ⟨d, rfl⟩ : ∃ d, n = k + 1 + d := ⟨n - (k + 1), by omega⟩
  have e : (v + 2 ^ k) / 2 ^ (k + 1) = v / 2 ^ (k + 1) := by
    rw [Nat.pow_succ, ← Nat.div_div_eq_div_mul, ← Nat.div_div_eq_div_mul, Nat.add_div_right _ (Nat.two_pow_pos k)]
    omega
  rw [Nat.pow_add, ← Nat.div_div_eq_div_mul, ← Nat.div_div_eq_div_mul, e]

@[simp] theorem bit_setBit_same (v n : Nat) : bit (setBit v n) n = true := by
  unfold setBit
  split
  · assumption
  · rename_i h
    simp only [bit, beq_iff_eq] at h ⊢
    rw [Nat.add_div_right _ (Nat.two_pow_pos n)]
    omega

theorem bit_setBit_other (v : Nat) {n k : Nat} (h : n ≠ k) : bit (setBit v k) n = bit v n := by
  unfold setBit
  split
  · rfl
  · rename_i hk
    simp only [bit, beq_iff_eq] at hk
    have hk0 : (v / 2 ^ k) % 2 = 0 := by omega
    rcases Nat.lt_or_gt_of_ne h with h | h
    · rw [bit_eq_testBit, bit_eq_testBit, Nat.add_comm, Nat.testBit_two_pow_add_gt h]
    · simp only [bit, div_add_bit hk0 h]

theorem bit_setBit (v n k : Nat) : bit (setBit v k) n = (decide (n = k) || bit v n) := by
  by_cases h : n = k
  · subst h; simp
  · simp [bit_setBit_other v h, h]

/-- Setting a bit clears none. -/
theorem bit_setBit_mono {v n : Nat} (k : Nat) (h : bit v n = true) : bit (setBit v k) n = true := by
  simp [bit_setBit, h]

/-- Setting bits one after another. -/
theorem bit_foldl_setBit {β : Type} (f : β → Nat) (ws : List β) (v n : Nat) :
    bit (ws.foldl (fun b w => setBit b (f w)) v) n = (ws.any (fun w => f w == n) || bit v n) := by
  induction ws generalizing v with
  | nil => simp
  | cons w ws ih =>
    rw [List.foldl_cons, ih, List.any_cons, bit_setBit]
    by_cases h : n = f w
    · subst h; simp
    · have : (f w == n) = false := by simp; exact fun h2 => h h2.symm
      simp [this, h]

@[simp] theorem bit_clearBit_same (v n : Nat) : bit (clearBit v n) n = false := by
  unfold clearBit
  split
  · rename_i h
    have hle : 2 ^ n ≤ v := by
      rcases Nat.lt_or_ge v (2 ^ n) with h2 | h2
      · rw [bit, Nat.div_eq_of_lt h2] at h; simp at h
      · exact h2
    simp only [bit, beq_iff_eq] at h
    have e : (v - 2 ^ n) / 2 ^ n = v / 2 ^ n - 1 := by
      have e2 : v / 2 ^ n = (v - 2 ^ n) / 2 ^ n + 1 := by
        rw [← Nat.add_div_right _ (Nat.two_pow_pos n), Nat.sub_add_cancel hle]
      rw [e2]; rfl
    simp only [bit, e, beq_eq_false_iff_ne]
    omega
  · rename_i h; simpa using h

/-! ### Bytes -/

@[simp] theorem leBytes_length (n v : Nat) : (leBytes n v).length = n := by
  induction n generalizing v with
  | zero => rfl
  | succ n ih => simp [leBytes, ih]

/-- The number whose bytes are those of a number is that number, cut to the bytes. -/
theorem ofLe_leBytes (n v : Nat) : ofLe (leBytes n v) = v % 256 ^ n := by
  induction n generalizing v with
  | zero => simp [leBytes, ofLe]; omega
  | succ n ih =>
    have e : (256 : Nat) ^ (n + 1) = 256 * 256 ^ n := by rw [Nat.pow_succ, Nat.mul_comm]
    simp only [leBytes, ofLe, ih, BitVec.toNat_ofNat]
    rw [e, Nat.mod_mul]

theorem ofLe_lt (bs : List Byte) : ofLe bs < 256 ^ bs.length := by
  induction bs with
  | nil => simp [ofLe]
  | cons b bs ih =>
    simp only [ofLe, List.length_cons, Nat.pow_succ]
    have := b.isLt
    omega

/-- The bytes of the number whose bytes are `bs` are `bs`. -/
theorem leBytes_ofLe (bs : List Byte) : leBytes bs.length (ofLe bs) = bs := by
  induction bs with
  | nil => rfl
  | cons b bs ih =>
    have hb : b.toNat < 256 := b.isLt
    simp only [List.length_cons, leBytes, ofLe]
    congr 1
    · apply BitVec.eq_of_toNat_eq; simp only [BitVec.toNat_ofNat]; omega
    · have : (b.toNat + 256 * ofLe bs) / 256 = ofLe bs := by omega
      rw [this, ih]

@[simp] theorem tab_length {β : Type} (n : Nat) (f : Nat → β) : (tab n f).length = n := by simp [tab]

theorem getElem?_tab {β : Type} (n i : Nat) (f : Nat → β) : (tab n f)[i]? = if i < n then some (f i) else none := by
  simp only [tab, List.getElem?_map]
  split
  · rename_i h; simp [h]
  · rename_i h; simp [Nat.le_of_not_lt h]

end Sys2Proof.Machine
end

