-- ==== Sys2Proof/Laws/Map.lean ====
section
/-! SUPPORT. Sparse maps: what is read after a change, and that every change keeps the canonical form. -/

namespace Sys2Proof.Machine

variable {V : Type}

@[simp] theorem mget_nil (k : Nat) : mget ([] : SMap V) k = none := rfl

@[simp] theorem mget_mset_same (m : SMap V) (k : Nat) (v : V) : mget (mset m k v) k = some v := by
  induction m with
  | nil => simp [mset, mget]
  | cons p r ih =>
    simp only [mset]
    split
    · simp [mget]
    · split
      · simp [mget]
      · rename_i h; simp [mget, Ne.symm h, ih]

theorem mget_mset_other (m : SMap V) {k j : Nat} (v : V) (h : j ≠ k) : mget (mset m k v) j = mget m j := by
  induction m with
  | nil => simp [mset, mget, Ne.symm h]
  | cons p r ih =>
    simp only [mset]
    split
    · simp [mget, Ne.symm h]
    · split
      · rename_i h2; subst h2; simp [mget, Ne.symm h]
      · simp [mget, ih]

theorem mget_mset (m : SMap V) (k j : Nat) (v : V) : mget (mset m k v) j = if j = k then some v else mget m j := by
  by_cases h : j = k
  · subst h; simp
  · simp [h, mget_mset_other]

@[simp] theorem mget_mdel_same (m : SMap V) (k : Nat) : mget (mdel m k) k = none := by
  induction m with
  | nil => rfl
  | cons p r ih =>
    by_cases h : p.1 = k
    · simpa [mdel, h] using ih
    · simpa [mdel, h, mget] using ih

theorem mget_mdel_other (m : SMap V) {k j : Nat} (h : j ≠ k) : mget (mdel m k) j = mget m j := by
  induction m with
  | nil => rfl
  | cons p r ih =>
    by_cases h2 : p.1 = k
    · subst h2; simpa [mdel, mget, Ne.symm h] using ih
    · by_cases h3 : p.1 = j
      · subst h3; simp [mdel, h2, mget]
      · simpa [mdel, h2, mget, h3] using ih

theorem mget_mdel (m : SMap V) (k j : Nat) : mget (mdel m k) j = if j = k then none else mget m j := by
  by_cases h : j = k
  · subst h; simp
  · simp [h, mget_mdel_other]

theorem mget_mdelIf (m : SMap V) (p : Nat → Bool) (j : Nat) : mget (mdelIf m p) j = if p j then none else mget m j := by
  induction m with
  | nil => simp [mdelIf]
  | cons q r ih =>
    simp only [mdelIf] at ih
    by_cases h : p q.1 = true
    · by_cases h2 : q.1 = j
      · subst h2; simpa [mdelIf, h, mget] using ih
      · simpa [mdelIf, h, mget, h2] using ih
    · by_cases h2 : q.1 = j
      · subst h2; simp [mdelIf, h, mget]
      · simpa [mdelIf, h, mget, h2] using ih

theorem mget_mem {m : SMap V} {k : Nat} {v : V} (h : mget m k = some v) : (k, v) ∈ m := by
  induction m with
  | nil => simp at h
  | cons p r ih =>
    by_cases h2 : p.1 = k
    · subst h2; simp [mget] at h; subst h; simp
    · simp [mget, h2] at h; exact List.mem_cons_of_mem _ (ih h)

/-! ### The canonical form -/

theorem mwf_nil : mwf ([] : SMap V) := List.Pairwise.nil

theorem mwf_filter {m : SMap V} (p : Nat × V → Bool) (h : mwf m) : mwf (m.filter p) := List.Pairwise.filter _ h

theorem mwf_mdel {m : SMap V} (k : Nat) (h : mwf m) : mwf (mdel m k) := mwf_filter _ h

theorem mwf_mdelIf {m : SMap V} (p : Nat → Bool) (h : mwf m) : mwf (mdelIf m p) := mwf_filter _ h

theorem mem_mset {m : SMap V} {k : Nat} {v : V} {q : Nat × V} (h : q ∈ mset m k v) : q = (k, v) ∨ q ∈ m := by
  induction m with
  | nil => simpa [mset] using h
  | cons p r ih => grind [mset]

theorem mwf_mset {m : SMap V} (k : Nat) (v : V) (h : mwf m) : mwf (mset m k v) := by
  induction m with
  | nil => simp [mset, mwf]
  | cons p r ih =>
    simp only [mwf, List.pairwise_cons] at h
    simp only [mset]
    split
    · rename_i hk
      simp only [mwf, List.pairwise_cons]
      refine ⟨fun q hq => ?_, h⟩
      simp only [List.mem_cons] at hq
      rcases hq with rfl | hq
      · exact hk
      · exact Nat.lt_trans hk (h.1 q hq)
    · split
      · rename_i h2
        simp only [mwf, List.pairwise_cons]
        exact ⟨fun q hq => h2 ▸ h.1 q hq, h.2⟩
      · rename_i h1 h2
        simp only [mwf, List.pairwise_cons]
        refine ⟨fun q hq => ?_, ih h.2⟩
        rcases mem_mset hq with rfl | hq
        · show p.1 < k; omega
        · exact h.1 q hq

end Sys2Proof.Machine
end

