-- ==== Sys2Proof/Laws/Mem.lean ====
section
/-! SUPPORT. The storage: what a byte reads after a write, a loss or a fill, and that every operation keeps the canonical
form. -/

namespace Sys2Proof.Machine

/-! ### Ranges -/

/-- Cutting a list of lost ranges changes nothing outside the cut, and leaves nothing lost inside. -/
theorem lostAt_cut (ls : List Lost) (a b x : Nat) :
    lostAt (ls.flatMap (Lost.cut a b)) x = if a ≤ x ∧ x < b then none else lostAt ls x := by
  induction ls with
  | nil => simp [lostAt]
  | cons r rs ih =>
    have key : ∀ m, lostAt (Lost.cut a b r ++ m) x =
        if a ≤ x ∧ x < b then lostAt m x else if r.lo ≤ x ∧ x < r.hi then some r.gen else lostAt m x := by
      intro m
      unfold Lost.cut
      grind [lostAt]
    rw [List.flatMap_cons, key, ih]
    grind [lostAt]

/-- Cutting a list of filled ranges changes nothing outside the cut. -/
theorem fillAt_cut (fs : List Fill) (a b x : Nat) :
    fillAt (fs.flatMap (Fill.cut a b)) x = if a ≤ x ∧ x < b then 0#8 else fillAt fs x := by
  induction fs with
  | nil => simp [fillAt]
  | cons r rs ih =>
    have key : ∀ m, fillAt (Fill.cut a b r ++ m) x =
        if a ≤ x ∧ x < b then fillAt m x else if r.lo ≤ x ∧ x < r.hi then r.byte else fillAt m x := by
      intro m
      unfold Fill.cut
      grind [fillAt]
    rw [List.flatMap_cons, key, ih]
    grind [fillAt]

/-! ### Cells -/

theorem mget_putCell (fs : List Fill) (cs : List Host.Cell) (a x : Nat) (v : Byte) :
    mget (putCell fs cs a v) x = if x = a then (if v = fillAt fs a then none else some v) else mget cs x := by
  unfold putCell
  split
  · rw [mget_mdel]
  · rw [mget_mset]

theorem mget_putCells (fs : List Fill) (cs : List Host.Cell) (a x : Nat) (bs : List Byte) :
    mget (putCells fs cs a bs) x =
      if a ≤ x ∧ x < a + bs.length then (if bs.getD (x - a) 0#8 = fillAt fs x then none else some (bs.getD (x - a) 0#8))
      else mget cs x := by
  induction bs generalizing cs a with
  | nil => simp only [putCells, List.length_nil]; rw [if_neg (by omega)]
  | cons b bs ih =>
    simp only [putCells, ih, mget_putCell, List.length_cons]
    by_cases h : x = a
    · subst h
      rw [if_neg (by omega : ¬(x + 1 ≤ x ∧ x < x + 1 + bs.length)), if_pos rfl,
        if_pos (by omega : x ≤ x ∧ x < x + (bs.length + 1))]
      simp
    · by_cases h2 : a + 1 ≤ x ∧ x < a + 1 + bs.length
      · have e : x - a = (x - (a + 1)) + 1 := by omega
        rw [if_pos h2, if_pos (by omega : a ≤ x ∧ x < a + (bs.length + 1)), e, List.getD_cons_succ]
      · rw [if_neg h2, if_neg h, if_neg (by omega : ¬(a ≤ x ∧ x < a + (bs.length + 1)))]

/-! ### What a byte reads -/

/-- A byte of the written range reads what was written. -/
theorem Mem.byte_write_in (m : Mem) {a x : Nat} {bs : List Byte} (h : a ≤ x ∧ x < a + bs.length) :
    (m.write a bs).byte x = bs.getD (x - a) 0#8 := by
  simp only [Mem.byte, Mem.write, Mem.unlisted, mget_putCells, if_pos h, lostAt_cut]
  split
  · rename_i h2; simp only [Option.getD_none]; exact h2.symm
  · rfl

/-- A byte outside the written range reads as before. -/
theorem Mem.byte_write_out (m : Mem) {a x : Nat} {bs : List Byte} (h : ¬(a ≤ x ∧ x < a + bs.length)) :
    (m.write a bs).byte x = m.byte x := by
  simp only [Mem.byte, Mem.write, Mem.unlisted, mget_putCells, if_neg h, lostAt_cut]

/-- A byte of a lost range is the free byte of the event. -/
theorem Mem.byte_lose_in (m : Mem) {lo hi x g : Nat} (h : lo ≤ x ∧ x < hi) :
    (m.lose lo hi g).byte x = Config.freeByte g x := by
  simp [Mem.byte, Mem.lose, Mem.unlisted, mget_mdelIf, h, lostAt]

/-- A byte outside a lost range reads as before. -/
theorem Mem.byte_lose_out (m : Mem) {lo hi x g : Nat} (h : ¬(lo ≤ x ∧ x < hi)) : (m.lose lo hi g).byte x = m.byte x := by
  simp [Mem.byte, Mem.lose, Mem.unlisted, mget_mdelIf, h, lostAt, lostAt_cut]

/-- A byte of a filled range. -/
theorem Mem.byte_fill_in (m : Mem) {lo hi x : Nat} {v : Byte} (h : lo ≤ x ∧ x < hi) : (m.fill lo hi v).byte x = v := by
  simp [Mem.byte, Mem.fill, Mem.unlisted, mget_mdelIf, h, lostAt_cut, fillAt]

/-- A byte outside a filled range reads as before. -/
theorem Mem.byte_fill_out (m : Mem) {lo hi x : Nat} {v : Byte} (h : ¬(lo ≤ x ∧ x < hi)) :
    (m.fill lo hi v).byte x = m.byte x := by
  simp [Mem.byte, Mem.fill, Mem.unlisted, mget_mdelIf, h, lostAt_cut, fillAt, fillAt_cut]

/-- The bytes of a range, one by one. -/
theorem Mem.bytes_eq (m : Mem) (a n : Nat) : m.bytes a n = (List.range n).map fun i => m.byte (a + i) := by
  induction n generalizing a with
  | zero => rfl
  | succ n ih =>
    rw [Mem.bytes, ih, List.range_succ_eq_map]
    simp [Function.comp_def, Nat.add_assoc, Nat.add_comm 1]

@[simp] theorem Mem.bytes_length (m : Mem) (a n : Nat) : (m.bytes a n).length = n := by simp [Mem.bytes_eq]

/-- A range reads back what was written over it. -/
theorem Mem.bytes_write (m : Mem) (a : Nat) (bs : List Byte) : (m.write a bs).bytes a bs.length = bs := by
  rw [Mem.bytes_eq]
  apply List.ext_getElem (by simp)
  intro i h1 h2
  simp only [List.getElem_map, List.getElem_range]
  rw [Mem.byte_write_in (m := m) (by simp at h1; omega)]
  simp [List.getD_eq_getElem?_getD, h2]

/-! ### The canonical form -/

/-- The form, by what is listed. -/
theorem Mem.wf_def (m : Mem) : m.wf ↔ mwf m.cells ∧ ∀ c ∈ m.cells, c.2 ≠ fillAt m.fills c.1 ∧ lostAt m.lost c.1 = none := Iff.rfl

theorem mwf_putCell {fs : List Fill} {cs : List Host.Cell} (a : Nat) (v : Byte) (h : mwf cs) : mwf (putCell fs cs a v) := by
  unfold putCell; split
  · exact mwf_mdel _ h
  · exact mwf_mset _ _ h

theorem mwf_putCells {fs : List Fill} {cs : List Host.Cell} (a : Nat) (bs : List Byte) (h : mwf cs) :
    mwf (putCells fs cs a bs) := by
  induction bs generalizing cs a with
  | nil => exact h
  | cons b bs ih => exact ih _ (mwf_putCell a b h)

/-- What a cell put into a list is: the one put, or one of the list. -/
theorem mem_putCell {fs : List Fill} {cs : List Host.Cell} {a : Nat} {v : Byte} {c : Host.Cell} (h : c ∈ putCell fs cs a v) :
    (c = (a, v) ∧ v ≠ fillAt fs a) ∨ (c ∈ cs) := by
  unfold putCell at h
  split at h
  · exact .inr (List.mem_filter.1 h).1
  · rename_i h2
    rcases mem_mset h with h | h
    · exact .inl ⟨h, h2⟩
    · exact .inr h

/-- Every cell of a written list is one written inside the range, or one of the list outside it. -/
theorem mem_putCells {fs : List Fill} {cs : List Host.Cell} {a : Nat} {bs : List Byte} {c : Host.Cell}
    (hw : mwf cs) (h : c ∈ putCells fs cs a bs) :
    (a ≤ c.1 ∧ c.1 < a + bs.length ∧ c.2 ≠ fillAt fs c.1) ∨ (c ∈ cs ∧ ¬(a ≤ c.1 ∧ c.1 < a + bs.length)) := by
  induction bs generalizing cs a with
  | nil => right; exact ⟨h, by simp⟩
  | cons b bs ih =>
    rcases ih (mwf_putCell a b hw) h with h2 | ⟨h2, h3⟩
    · left; simp only [List.length_cons]; exact ⟨by omega, by omega, h2.2.2⟩
    · by_cases h4 : c.1 = a
      · have hu : ∀ d ∈ putCell fs cs a b, d.1 = a → d = (a, b) ∧ b ≠ fillAt fs a := by
          intro d hd hda
          unfold putCell at hd
          split at hd
          · simp [mdel, hda] at hd
          · rename_i h5
            have hm : mget (mset cs a b) a = some b := mget_mset_same _ _ _
            have hwf := mwf_mset a b hw
            refine ⟨?_, h5⟩
            have hb := mget_mem hm
            rcases d with ⟨d1, d2⟩
            simp only at hda
            subst hda
            -- two entries with one key in a rising list are one entry
            have : ∀ (l : List Host.Cell), mwf l → (d1, d2) ∈ l → (d1, b) ∈ l → d2 = b := by
              intro l hl h1 h2
              induction l with
              | nil => simp at h1
              | cons p r ihl =>
                simp only [mwf, List.pairwise_cons] at hl
                simp only [List.mem_cons] at h1 h2
                rcases h1 with h1 | h1 <;> rcases h2 with h2 | h2
                · rw [← h1] at h2; simpa using h2.symm
                · have := hl.1 _ h2; rw [← h1] at this; exact absurd this (Nat.lt_irrefl _)
                · have := hl.1 _ h1; rw [← h2] at this; exact absurd this (Nat.lt_irrefl _)
                · exact ihl hl.2 h1 h2
            rw [this _ hwf hd hb]
        obtain ⟨rfl, hb⟩ := hu c h2 h4
        left; simp only [List.length_cons]; exact ⟨Nat.le_refl _, by omega, hb⟩
      · right
        rcases mem_putCell h2 with ⟨rfl, _⟩ | h5
        · exact absurd rfl h4
        · exact ⟨h5, by simp only [List.length_cons]; omega⟩

/-- A write keeps the canonical form. -/
theorem Mem.wf_write {m : Mem} (a : Nat) (bs : List Byte) (h : m.wf) : (m.write a bs).wf := by
  refine ⟨mwf_putCells a bs h.1, fun c hc => ?_⟩
  simp only [Mem.write] at hc ⊢
  rcases mem_putCells h.1 hc with h2 | ⟨h2, h3⟩
  · refine ⟨h2.2.2, ?_⟩
    rw [lostAt_cut, if_pos ⟨h2.1, h2.2.1⟩]
  · refine ⟨(h.2 c h2).1, ?_⟩
    rw [lostAt_cut, if_neg h3]; exact (h.2 c h2).2

/-- A loss keeps the canonical form. -/
theorem Mem.wf_lose {m : Mem} (lo hi : Nat) (g : Nat) (h : m.wf) : (m.lose lo hi g).wf := by
  refine ⟨mwf_mdelIf (fun a => decide (lo ≤ a ∧ a < hi)) h.1, fun c hc => ?_⟩
  simp only [Mem.lose, mdelIf, List.mem_filter] at hc ⊢
  have h2 : ¬(lo ≤ c.1 ∧ c.1 < hi) := by have := hc.2; grind
  refine ⟨(h.2 c hc.1).1, ?_⟩
  simp [lostAt, h2, lostAt_cut, (h.2 c hc.1).2]

/-- A fill keeps the canonical form. -/
theorem Mem.wf_fill {m : Mem} (lo hi : Nat) (v : Byte) (h : m.wf) : (m.fill lo hi v).wf := by
  refine ⟨mwf_mdelIf (fun a => decide (lo ≤ a ∧ a < hi)) h.1, fun c hc => ?_⟩
  simp only [Mem.fill, mdelIf, List.mem_filter] at hc ⊢
  have h2 : ¬(lo ≤ c.1 ∧ c.1 < hi) := by have := hc.2; grind
  refine ⟨?_, ?_⟩
  · simpa [fillAt, h2, fillAt_cut] using (h.2 c hc.1).1
  · simp [lostAt_cut, h2, (h.2 c hc.1).2]

theorem mwf_moveCells {fs : List Fill} {cs : List Host.Cell} (d : Int) (xs : List Host.Cell) (h : mwf cs) :
    mwf (moveCells fs cs d xs) := by
  induction xs generalizing cs with
  | nil => exact h
  | cons x xs ih => exact ih (mwf_putCell _ _ h)

/-- Every cell of a list into which others are moved is one of the list, or one moved that does not read as its fill. -/
theorem mem_moveCells {fs : List Fill} {cs : List Host.Cell} {d : Int} {xs : List Host.Cell} {c : Host.Cell}
    (h : c ∈ moveCells fs cs d xs) :
    c ∈ cs ∨ ∃ x ∈ xs, c = ((x.1 + d).toNat, x.2) ∧ c.2 ≠ fillAt fs c.1 := by
  induction xs generalizing cs with
  | nil => exact .inl h
  | cons x xs ih =>
    rcases ih h with h2 | ⟨y, hy, h2⟩
    · rcases mem_putCell h2 with ⟨rfl, h3⟩ | h3
      · exact .inr ⟨x, List.mem_cons_self, rfl, h3⟩
      · exact .inl h3
    · exact .inr ⟨y, List.mem_cons_of_mem _ hy, h2⟩

theorem fillAt_append (fs gs : List Fill) (x : Nat) (h : ∀ f ∈ fs, ¬(f.lo ≤ x ∧ x < f.hi)) : fillAt (fs ++ gs) x = fillAt gs x := by
  induction fs with
  | nil => rfl
  | cons f fs ih =>
    simp only [List.cons_append, fillAt]
    rw [if_neg (h f List.mem_cons_self)]
    exact ih fun g hg => h g (List.mem_cons_of_mem _ hg)

theorem lostAt_append (ls ms : List Lost) (x : Nat) (h : ∀ l ∈ ls, ¬(l.lo ≤ x ∧ x < l.hi)) : lostAt (ls ++ ms) x = lostAt ms x := by
  induction ls with
  | nil => rfl
  | cons f fs ih =>
    simp only [List.cons_append, lostAt]
    rw [if_neg (h f List.mem_cons_self)]
    exact ih fun g hg => h g (List.mem_cons_of_mem _ hg)

theorem lostAt_none (ls : List Lost) (x : Nat) : lostAt ls x = none ↔ ∀ l ∈ ls, ¬(l.lo ≤ x ∧ x < l.hi) := by
  induction ls with
  | nil => simp [lostAt]
  | cons l ls ih =>
    simp only [lostAt, List.forall_mem_cons]
    split
    · rename_i h; simp only [reduceCtorEq, false_iff]; intro h2; exact h2.1 h
    · rename_i h; rw [ih]; exact ⟨fun h2 => ⟨h, h2⟩, fun h2 => h2.2⟩

/-- A copy keeps the canonical form. -/
theorem Mem.wf_copy {m : Mem} (src dst n : Nat) (h : m.wf) : (m.copy src dst n).wf := by
  refine ⟨mwf_moveCells _ _ (mwf_mdelIf _ h.1), fun c hc => ?_⟩
  simp only [Mem.copy] at hc ⊢
  rcases mem_moveCells hc with h2 | ⟨x, hx, rfl, h2⟩
  · simp only [mdelIf, List.mem_filter] at h2
    have h3 : ¬(dst ≤ c.1 ∧ c.1 < dst + n) := by have := h2.2; grind
    have hf : ∀ f ∈ m.fills.flatMap (Fill.part src (src + n) ((dst : Int) - src)), ¬(f.lo ≤ c.1 ∧ c.1 < f.hi) := by
      intro f hf
      simp only [List.mem_flatMap, Fill.part] at hf
      obtain ⟨r, _, hr⟩ := hf
      split at hr
      · simp only [List.mem_singleton] at hr; subst hr; simp only; omega
      · simp at hr
    have hl : ∀ l ∈ m.lost.flatMap (Lost.part src (src + n) ((dst : Int) - src)), ¬(l.lo ≤ c.1 ∧ c.1 < l.hi) := by
      intro f hf
      simp only [List.mem_flatMap, Lost.part] at hf
      obtain ⟨r, _, hr⟩ := hf
      split at hr
      · simp only [List.mem_singleton] at hr; subst hr; simp only; omega
      · simp at hr
    rw [fillAt_append _ _ _ hf, fillAt_cut, if_neg h3, lostAt_append _ _ _ hl, lostAt_cut, if_neg h3]
    exact h.2 c h2.1
  · refine ⟨h2, ?_⟩
    simp only [List.mem_filter, Bool.and_eq_true, decide_eq_true_eq, Option.isNone_iff_eq_none] at hx
    obtain ⟨hx1, ⟨hx2, hx3⟩, hx4⟩ := hx
    have hd : ((x.1 : Int) + ((dst : Int) - src)).toNat = x.1 + dst - src := by omega
    simp only [hd]
    have hl : ∀ l ∈ m.lost.flatMap (Lost.part src (src + n) ((dst : Int) - src)), ¬(l.lo ≤ x.1 + dst - src ∧ x.1 + dst - src < l.hi) := by
      intro f hf
      simp only [List.mem_flatMap, Lost.part] at hf
      obtain ⟨r, hr0, hr⟩ := hf
      have hr1 := (lostAt_none _ _).1 hx4 r hr0
      split at hr
      · simp only [List.mem_singleton] at hr; subst hr; simp only; omega
      · simp at hr
    rw [lostAt_append _ _ _ hl, lostAt_cut, if_pos (by omega)]

end Sys2Proof.Machine
end

