-- ==== Sys2Proof/Laws/State.lean ====
section
/-! SUPPORT. What each primitive effect and each action combinator does to the state, and what a register field reads after a
write. Every lemma but those about register fields holds by unfolding, so that no later proof unfolds a record update. -/

namespace Sys2Proof.Machine

variable (s : State)

/-! ### Primitive effects -/

@[simp] theorem apply_write (a : Nat) (bs : List Byte) : s.apply (.write a bs) = { s with mem := s.mem.write a bs } := rfl
@[simp] theorem apply_lose (a : Nat) (n : Nat) : s.apply (.lose a n) = { s with mem := s.mem.lose a (a + n) s.fresh, fresh := s.fresh + 1 } := rfl
@[simp] theorem apply_fill (a : Nat) (n : Nat) (v : Byte) : s.apply (.fill a n v) = { s with mem := s.mem.fill a (a + n) v } := rfl
@[simp] theorem apply_copyMem (a b n : Nat) : s.apply (.copyMem a b n) = { s with mem := s.mem.copy a b n } := rfl
@[simp] theorem apply_reg (f : Fld) (v : Nat) : s.apply (.reg f v) = { s with regs := putFld s.regs f v } := rfl
@[simp] theorem apply_restore (ev : Nat) (ps : List Nat) :
    s.apply (.restore ev ps) = { s with regs := mdelIf s.regs (fun k => ps.contains (k / 64 / 0x10000) && restores ev k) } := rfl
@[simp] theorem apply_latch (ws : List (Nat × Nat)) (t : Nat) : s.apply (.latch ws t) = { s with doubt := s.doubt.latch ws t } := rfl
@[simp] theorem apply_bump : s.apply .bump = { s with fresh := s.fresh + 1 } := rfl
@[simp] theorem apply_setLog (v : LogSt) : s.apply (.setLog v) = { s with log := v } := rfl
@[simp] theorem apply_setGrid (v : GridSt) : s.apply (.setGrid v) = { s with grid := v } := rfl
@[simp] theorem apply_setTime (v : TimeSt) : s.apply (.setTime v) = { s with time := v } := rfl
@[simp] theorem apply_setTs (v : TsSt) : s.apply (.setTs v) = { s with ts := v } := rfl
@[simp] theorem apply_setRm (v : RmSt) : s.apply (.setRm v) = { s with rm := v } := rfl
@[simp] theorem apply_setPlan (v : PlanSt) : s.apply (.setPlan v) = { s with plan := v } := rfl
@[simp] theorem apply_setHot (v : HotSt) : s.apply (.setHot v) = { s with hot := v } := rfl
@[simp] theorem apply_setWear (v : WearSt) : s.apply (.setWear v) = { s with wear := v } := rfl
@[simp] theorem apply_setEng (v : EngSt) : s.apply (.setEng v) = { s with eng := v } := rfl
@[simp] theorem apply_setFu (v : FuSt) : s.apply (.setFu v) = { s with fu := v } := rfl
@[simp] theorem apply_setMw (v : MwSt) : s.apply (.setMw v) = { s with mw := v } := rfl
@[simp] theorem apply_setTp (v : SMap TpBlock) : s.apply (.setTp v) = { s with tp := v } := rfl
@[simp] theorem apply_setTt (v : TtSt) : s.apply (.setTt v) = { s with tt := v } := rfl
@[simp] theorem apply_setIsl (v : IslSt) : s.apply (.setIsl v) = { s with isl := v } := rfl
@[simp] theorem apply_setPw (v : PwSt) : s.apply (.setPw v) = { s with pw := v } := rfl
@[simp] theorem apply_setBoot (v : BootSt) : s.apply (.setBoot v) = { s with boot := v } := rfl
@[simp] theorem apply_setBus (v : BusSt) : s.apply (.setBus v) = { s with bus := v } := rfl
@[simp] theorem apply_setFeed (v : FeedSt) : s.apply (.setFeed v) = { s with feed := v } := rfl
@[simp] theorem apply_setYl (v : SMap YlSt) : s.apply (.setYl v) = { s with yl := v } := rfl

@[simp] theorem run_nil : s.run [] = s := rfl
@[simp] theorem run_cons (e : Eff) (es : List Eff) : s.run (e :: es) = (s.apply e).run es := rfl

theorem run_append (es fs : List Eff) : s.run (es ++ fs) = (s.run es).run fs := by
  induction es generalizing s with
  | nil => rfl
  | cons e es ih => exact ih (s.apply e)

/-! ### Actions -/

@[simp] theorem act_skip : s.act skip = s := rfl
@[simp] theorem act_seq_nil : s.act (seq []) = s := rfl
@[simp] theorem act_seq_cons (a : Act) (as : List Act) : s.act (seq (a :: as)) = (s.act a).act (seq as) := run_append s _ _
@[simp] theorem act_whenA (c : Bool) (a : Act) : s.act (whenA c a) = if c then s.act a else s := by
  cases c <;> rfl
@[simp] theorem act_whenS (c : State → Bool) (a : Act) : s.act (whenS c a) = if c s then s.act a else s := by
  simp only [State.act, whenS]; split <;> rfl
@[simp] theorem act_withS (f : State → Act) : s.act (withS f) = s.act (f s) := rfl
theorem act_ite (c : Prop) [Decidable c] (a b : Act) : s.act (if c then a else b) = if c then s.act a else s.act b := by
  split <;> rfl
@[simp] theorem act_forA_nil {α : Type} (f : α → Act) : s.act (forA [] f) = s := rfl
@[simp] theorem act_forA_cons {α : Type} (x : α) (xs : List α) (f : α → Act) :
    s.act (forA (x :: xs) f) = (s.act (f x)).act (forA xs f) := act_seq_cons s _ _
@[simp] theorem act_store (a : Nat) (bs : List Byte) : s.act (store a bs) = { s with mem := s.mem.write a bs } := rfl
@[simp] theorem act_setF (f : Fld) (v : Nat) : s.act (setF f v) = { s with regs := putFld s.regs f v } := rfl
@[simp] theorem act_countF (f : Fld) (n : Nat) :
    s.act (countF f n) = { s with regs := putFld s.regs f (satU f.width (s.get f + n)) } := rfl
@[simp] theorem act_withFree (f : Nat → Act) : s.act (withFree f) = ({ s with fresh := s.fresh + 1 } : State).act (f s.fresh) := rfl
@[simp] theorem act_updLog (f : LogSt → LogSt) : s.act (updLog f) = { s with log := f s.log } := rfl
@[simp] theorem act_updGrid (f : GridSt → GridSt) : s.act (updGrid f) = { s with grid := f s.grid } := rfl
@[simp] theorem act_updTime (f : TimeSt → TimeSt) : s.act (updTime f) = { s with time := f s.time } := rfl
@[simp] theorem act_updTs (f : TsSt → TsSt) : s.act (updTs f) = { s with ts := f s.ts } := rfl
@[simp] theorem act_updRm (f : RmSt → RmSt) : s.act (updRm f) = { s with rm := f s.rm } := rfl
@[simp] theorem act_updPlan (f : PlanSt → PlanSt) : s.act (updPlan f) = { s with plan := f s.plan } := rfl
@[simp] theorem act_updHot (f : HotSt → HotSt) : s.act (updHot f) = { s with hot := f s.hot } := rfl
@[simp] theorem act_updWear (f : WearSt → WearSt) : s.act (updWear f) = { s with wear := f s.wear } := rfl
@[simp] theorem act_updEng (f : EngSt → EngSt) : s.act (updEng f) = { s with eng := f s.eng } := rfl
@[simp] theorem act_updFu (f : FuSt → FuSt) : s.act (updFu f) = { s with fu := f s.fu } := rfl
@[simp] theorem act_updMw (f : MwSt → MwSt) : s.act (updMw f) = { s with mw := f s.mw } := rfl
@[simp] theorem act_updTt (f : TtSt → TtSt) : s.act (updTt f) = { s with tt := f s.tt } := rfl
@[simp] theorem act_updIsl (f : IslSt → IslSt) : s.act (updIsl f) = { s with isl := f s.isl } := rfl
@[simp] theorem act_updPw (f : PwSt → PwSt) : s.act (updPw f) = { s with pw := f s.pw } := rfl
@[simp] theorem act_updBoot (f : BootSt → BootSt) : s.act (updBoot f) = { s with boot := f s.boot } := rfl
@[simp] theorem act_updBus (f : BusSt → BusSt) : s.act (updBus f) = { s with bus := f s.bus } := rfl
@[simp] theorem act_updFeed (f : FeedSt → FeedSt) : s.act (updFeed f) = { s with feed := f s.feed } := rfl
@[simp] theorem act_send (k p : Nat) (bs : List Byte) :
    s.act (send k p bs) = { s with bus := { s.bus with sent := s.bus.sent ++ [⟨k, p, bs⟩] } } := rfl
@[simp] theorem act_respond (i st : Nat) (bs : List Byte) :
    s.act (respond i st bs) = { s with bus := { s.bus with resp := some ⟨i, 0, st, bs⟩ } } := rfl
@[simp] theorem act_assertWire (src o : Nat) :
    s.act (assertWire src o) = { s with isl := { s.isl with wires := s.isl.wires ++ [(src, o)] } } := rfl

/-- A command with operands in range answers the state after its action. -/
theorem perform_true (a : Act) : perform true a s = .next (s.act a) := rfl
theorem perform_of {ok : Bool} (h : ok = true) (a : Act) : perform ok a s = .next (s.act a) := by subst h; rfl
/-- A command with an operand that names nothing of the block leaves the state as it is. -/
theorem perform_false (a : Act) : perform false a s = .next s := rfl

/-- The state that `perform` answers. -/
theorem perform_next {ok : Bool} {a : Act} {t : State} : perform ok a s = .next t ↔ t = if ok then s.act a else s := by
  cases ok <;> simp [perform, State.act, eq_comm]

/-! ### Register fields -/

/-- A field reads what was last written to it, cut to its width. -/
theorem mget_putFld (m : SMap Nat) (f g : Fld) (v : Nat) :
    mget (putFld m f v) g.key = if g.key = f.key then (if v % 2 ^ f.width = f.reset then none else some (v % 2 ^ f.width)) else mget m g.key := by
  unfold putFld
  split <;> rename_i h
  · rw [mget_mdel]
  · rw [mget_mset]

/-- A field that has just been written. -/
@[simp] theorem get_put_same (m : SMap Nat) (f : Fld) (v : Nat) :
    ({ s with regs := putFld m f v } : State).get f = v % 2 ^ f.width := by
  simp only [State.get, mget_putFld, if_true]
  split
  · rename_i h; simp [h]
  · rfl

/-- Another field than the one written. -/
theorem get_put_other (m : SMap Nat) {f g : Fld} (v : Nat) (h : g.key ≠ f.key) :
    ({ s with regs := putFld m f v } : State).get g = (mget m g.key).getD g.reset := by
  simp [State.get, mget_putFld, h]

/-- What a field reads is decided by the register map. -/
theorem get_congr {s t : State} (h : t.regs = s.regs) (f : Fld) : t.get f = s.get f := by simp [State.get, h]

theorem get_regs (f : Fld) : s.get f = (mget s.regs f.key).getD f.reset := rfl

/-- A register write keeps the canonical form of the map. -/
theorem mwf_putFld {m : SMap Nat} (f : Fld) (v : Nat) (h : mwf m) : mwf (putFld m f v) := by
  unfold putFld; split
  · exact mwf_mdel _ h
  · exact mwf_mset _ _ h

end Sys2Proof.Machine
end

