-- ==== Sys2Proof/Laws/Keeps.lean ====
section
/-! SUPPORT. Frames. `Keeps π a`: the action `a` leaves what `π` reads of the state as it was. A part of the state that an
action does not name is kept by the rules of composition below; what holds of every primitive effect holds of every
action. -/

namespace Sys2Proof.Machine

variable {α : Type} {π : State → α}

/-- The action leaves `π` as it was, in every state. -/
def Keeps (π : State → α) (a : Act) : Prop := ∀ s, π (s.act a) = π s

theorem keeps_skip : Keeps π skip := fun _ => rfl

theorem keeps_seq_nil : Keeps π (seq []) := fun _ => rfl

theorem keeps_seq_cons {a : Act} {as : List Act} (h : Keeps π a) (hs : Keeps π (seq as)) : Keeps π (seq (a :: as)) := by
  intro s; rw [act_seq_cons, hs, h]

theorem keeps_seq {as : List Act} (h : ∀ a ∈ as, Keeps π a) : Keeps π (seq as) := by
  induction as with
  | nil => exact keeps_seq_nil
  | cons a as ih => exact keeps_seq_cons (h a List.mem_cons_self) (ih fun b hb => h b (List.mem_cons_of_mem _ hb))

theorem keeps_forA {β : Type} {xs : List β} {f : β → Act} (h : ∀ x, Keeps π (f x)) : Keeps π (forA xs f) := by
  apply keeps_seq
  intro a ha
  obtain ⟨x, _, rfl⟩ := List.mem_map.1 ha
  exact h x

theorem keeps_forA_mem {β : Type} {xs : List β} {f : β → Act} (h : ∀ x ∈ xs, Keeps π (f x)) : Keeps π (forA xs f) := by
  apply keeps_seq
  intro a ha
  obtain ⟨x, hx, rfl⟩ := List.mem_map.1 ha
  exact h x hx

theorem keeps_withS {f : State → Act} (h : ∀ s, Keeps π (f s)) : Keeps π (withS f) := fun s => h s s

theorem keeps_whenA {c : Bool} {a : Act} (h : Keeps π a) : Keeps π (whenA c a) := by
  intro s; rw [act_whenA]; split
  · exact h s
  · rfl

theorem keeps_whenS {c : State → Bool} {a : Act} (h : Keeps π a) : Keeps π (whenS c a) := by
  intro s; rw [act_whenS]; split
  · exact h s
  · rfl

theorem keeps_ite {c : Prop} [Decidable c] {a b : Act} (h : Keeps π a) (h2 : Keeps π b) : Keeps π (if c then a else b) := by
  split
  · exact h
  · exact h2

/-- An action of given primitive effects keeps what each of them keeps. -/
theorem keeps_of_apply {a : Act} (h : ∀ s, ∀ e ∈ a s, ∀ t, π (t.apply e) = π t) : Keeps π a := by
  intro s
  have : ∀ (es : List Eff) (t : State), (∀ e ∈ es, ∀ t, π (t.apply e) = π t) → π (t.run es) = π t := by
    intro es
    induction es with
    | nil => intros; rfl
    | cons e es ih =>
      intro t hes
      rw [run_cons, ih _ fun e he => hes e (List.mem_cons_of_mem _ he)]
      exact hes e List.mem_cons_self t
  exact this (a s) s (h s)

/-- What every primitive effect keeps, every run of effects keeps. -/
theorem run_induct {P : State → Prop} (h : ∀ s e, P s → P (s.apply e)) (es : List Eff) {s : State} (hs : P s) : P (s.run es) := by
  induction es generalizing s with
  | nil => exact hs
  | cons e es ih => exact ih (h s e hs)

/-- What every primitive effect keeps, every action keeps. -/
theorem act_induct {P : State → Prop} (h : ∀ s e, P s → P (s.apply e)) (a : Act) {s : State} (hs : P s) : P (s.act a) :=
  run_induct h (a s) hs

/-! ### The basic actions -/

theorem keeps_setF {f : Fld} {v : Nat} (h : ∀ s r, π { s with regs := r } = π s) : Keeps π (setF f v) := fun s => h s _
theorem keeps_countF {f : Fld} {v : Nat} (h : ∀ s r, π { s with regs := r } = π s) : Keeps π (countF f v) := fun s => h s _
theorem keeps_store {a : Nat} {bs : List Byte} (h : ∀ s m, π { s with mem := m } = π s) : Keeps π (store a bs) := fun s => h s _
theorem keeps_lose {a n : Nat} (h : ∀ s m k, π { s with mem := m, fresh := k } = π s) : Keeps π (lose a n) := by
  intro s; simp only [State.act, lose]; split
  · rfl
  · exact h s _ _
theorem keeps_updBus {f : BusSt → BusSt} (h : ∀ s v, π { s with bus := v } = π s) : Keeps π (updBus f) := fun s => h s _
theorem keeps_updIsl {f : IslSt → IslSt} (h : ∀ s v, π { s with isl := v } = π s) : Keeps π (updIsl f) := fun s => h s _
theorem keeps_updLog {f : LogSt → LogSt} (h : ∀ s v, π { s with log := v } = π s) : Keeps π (updLog f) := fun s => h s _

/-! ### Fields -/

/-- A write of another field keeps a field. -/
theorem keeps_get_setF {f g : Fld} {v : Nat} (h : f.key ≠ g.key) : Keeps (fun s => s.get f) (setF g v) := by
  intro s; rw [act_setF]; exact get_put_other s s.regs v h

theorem keeps_get_countF {f g : Fld} {v : Nat} (h : f.key ≠ g.key) : Keeps (fun s => s.get f) (countF g v) := by
  intro s; rw [act_countF]; exact get_put_other s s.regs _ h

/-- The page that a field is on. -/
def Fld.page (f : Fld) : Nat := f.off / 0x10000

/-- Fields of different pages are different: a field's bit number is below 64. -/
theorem key_ne_of_page {f g : Fld} (hf : f.lsb < 64) (hg : g.lsb < 64) (h : f.page ≠ g.page) : f.key ≠ g.key := by
  unfold Fld.page at h; unfold Fld.key; omega

/-- Fields of different registers are different. -/
theorem key_ne_of_off {f g : Fld} (hf : f.lsb < 64) (hg : g.lsb < 64) (h : f.off ≠ g.off) : f.key ≠ g.key := by
  unfold Fld.key; omega

/-- Fields at different bits of one register are different. -/
theorem key_ne_of_lsb {f g : Fld} (hf : f.lsb < 64) (hg : g.lsb < 64) (h : f.lsb ≠ g.lsb) : f.key ≠ g.key := by
  unfold Fld.key; omega

/-! ### What every primitive effect keeps -/

/-- Latching clears no bit. -/
theorem latch_mono (d : DoubtSt) (ws : List (Nat × Nat)) (t : Nat) {n : Nat} (h : bit d.bits n = true) :
    bit (d.latch ws t).bits n = true := by
  have e : bit (ws.foldl (fun b w => setBit b w.1) d.bits) n = true := by simp [bit_foldl_setBit, h]
  unfold DoubtSt.latch
  split
  · rename_i h0; rw [h0] at h; simp [bit] at h
  · exact e

/-- No primitive effect clears a doubt bit. -/
theorem apply_keepsDoubt {s : State} (e : Eff) {n : Nat} (h : bit s.doubt.bits n = true) : bit (s.apply e).doubt.bits n = true := by
  cases e
  case latch ws t => exact latch_mono _ _ _ h
  all_goals exact h

/-- Every primitive effect keeps windows, silicon and debug access. -/
theorem apply_keepsTrust {r s : State} (e : Eff) (h : KeepsTrust r s) : KeepsTrust r (s.apply e) := by
  cases e <;> exact h

/-- Every primitive effect keeps the queue of commands. -/
theorem apply_pending (s : State) (e : Eff) : (s.apply e).pending = s.pending := by cases e <;> rfl

/-- Every primitive effect keeps the canonical form. -/
theorem apply_canonical {s : State} (e : Eff) (h : s.Canonical) : (s.apply e).Canonical := by
  obtain ⟨h1, h2⟩ := h
  cases e
  case write a bs => exact ⟨Mem.wf_write a bs h1, h2⟩
  case lose a n => exact ⟨Mem.wf_lose _ _ _ h1, h2⟩
  case fill a n v => exact ⟨Mem.wf_fill _ _ _ h1, h2⟩
  case copyMem a b n => exact ⟨Mem.wf_copy _ _ _ h1, h2⟩
  case reg f v => exact ⟨h1, mwf_putFld f v h2⟩
  case restore ev ps => exact ⟨h1, mwf_mdelIf (fun k => ps.contains (k / 64 / 0x10000) && restores ev k) h2⟩
  all_goals exact ⟨h1, h2⟩

/-- No action clears a doubt bit. -/
theorem act_keepsDoubt (s : State) (a : Act) : KeepsDoubt s (s.act a) := fun _ h =>
  act_induct (P := fun t => bit t.doubt.bits _ = true) (fun _ e h => apply_keepsDoubt e h) a h

/-- No action changes windows, silicon or debug access. -/
theorem act_keepsTrust (s : State) (a : Act) : KeepsTrust s (s.act a) :=
  act_induct (P := KeepsTrust s) (fun _ e h => apply_keepsTrust e h) a ⟨rfl, rfl, rfl⟩

/-- No action touches the queue of commands. -/
theorem act_pending (s : State) (a : Act) : (s.act a).pending = s.pending :=
  act_induct (P := fun t => t.pending = s.pending) (fun t e h => (apply_pending t e).trans h) a rfl

/-- Every action keeps the canonical form. -/
theorem act_canonical {s : State} (a : Act) (h : s.Canonical) : (s.act a).Canonical :=
  act_induct (fun _ e h => apply_canonical e h) a h

end Sys2Proof.Machine
end

