-- ==== Sys2Proof/Laws/Exec.lean ====
section
/-! SUPPORT. What a command can do: all but fourteen perform one action of primitive effects. -/

namespace Sys2Proof.Machine

/-- The commands that change the state otherwise than by primitive effects. -/
def isDirect : Instr → Bool
  | .registerWrite .. | .porstN .. | .wrstN | .resetWarm .. | .pllLock | .fabricRequest .. | .yeliloRequest .. | .fwWindowWrite ..
  | .fwWindowSync | .axisGridPoint | .islandWatchdogExpiry | .stateDone .. | .unlockPw .. | .unlockCr .. => true
  | _ => false

/-- A command that is not direct performs one action. -/
theorem exec_performs (c : Instr) (h : isDirect c = false) (s : State) : ∃ a : Act, exec c s = perform (Instr.wellFormed c) a s := by
  cases c
  case registerWrite | porstN | wrstN | resetWarm | pllLock | fabricRequest | yeliloRequest | fwWindowWrite | fwWindowSync
    | axisGridPoint | islandWatchdogExpiry | stateDone | unlockPw | unlockCr => exact absurd h (by simp [isDirect])
  all_goals exact ⟨_, rfl⟩

/-- What such a command answers: the state after an action. -/
theorem exec_next {c : Instr} (h : isDirect c = false) {s t : State} (he : exec c s = .next t) :
    ∃ a : Act, t = s.act a := by
  obtain ⟨a, ha⟩ := exec_performs c h s
  rw [ha, perform_next] at he
  exact ⟨whenA (Instr.wellFormed c) a, by rw [he, act_whenA]⟩

end Sys2Proof.Machine
end

