-- ==== Sys2Proof/Laws/Direct.lean ====
section
/-! SUPPORT. What every command keeps: a property that every primitive effect keeps and that does not look at firewall windows,
silicon or debug access is kept by every command but three, which PORST_N, an island reset and the return of the rings are. -/

namespace Sys2Proof.Machine

/-- Every primitive effect keeps the property, and it does not look at what no primitive effect changes. -/
structure Benign (P : State → Prop) : Prop where
  apply : ∀ s e, P s → P (s.apply e)
  fw : ∀ (s : State) v, P s → P { s with fw := v }
  silicon : ∀ (s : State) v, P s → P { s with silicon := v }
  dbg : ∀ (s : State) v, P s → P { s with dbg := v }

variable {P : State → Prop}

theorem Benign.act (h : Benign P) {s : State} (a : Act) (hs : P s) : P (s.act a) := act_induct h.apply a hs
theorem Benign.run (h : Benign P) {s : State} (es : List Eff) (hs : P s) : P (s.run es) := run_induct h.apply es hs

/-- A field write and a free value are primitive effects. -/
theorem Benign.regs (h : Benign P) {s : State} (f : Fld) (v : Nat) (hs : P s) : P { s with regs := putFld s.regs f v } := h.apply s (.reg f v) hs

theorem Benign.fwRegs (h : Benign P) {s : State} (f : Fld) (v : Nat) (w : FwSt) (hs : P s) :
    P { s with fw := w, regs := putFld s.regs f v } := h.apply { s with fw := w } (.reg f v) (h.fw s w hs)

theorem Benign.fresh (h : Benign P) {s : State} (n : Nat) (hs : P s) : P { s with fresh := s.fresh + n } := by
  induction n with
  | zero => exact hs
  | succ n ih => exact h.apply _ .bump ih

theorem Benign.dbgFresh (h : Benign P) {s : State} (d : DebugSt) (n : Nat) (hs : P s) : P { s with dbg := d, fresh := s.fresh + n } :=
  h.fresh (s := { s with dbg := d }) n (h.dbg s d hs)

theorem Benign.loadWindows (h : Benign P) {s : State} (hs : P s) : P (loadWindows s) := h.fw s _ hs

theorem Benign.warmReset (h : Benign P) {s : State} (cause : Fld) (hs : P s) : P (warmReset cause s) := by
  unfold Machine.warmReset
  split
  · exact hs
  · exact h.act _ (h.loadWindows (h.act _ hs))

/-- A command's answer, if it is a next state, has the property. -/
def Keeping (P : State → Prop) (o : State → Host.Outcome State Fault Refusal) : Prop := ∀ s t, P s → o s = .next t → P t

theorem Benign.performs (h : Benign P) (ok : Bool) (f : State → Act) : Keeping P (fun s => perform ok (f s) s) := by
  intro s t hs he
  rw [perform_next] at he
  subst he
  split
  · exact h.act _ hs
  · exact hs

theorem Benign.acts (h : Benign P) (a : Act) : Keeping P (fun s => .next (s.act a)) := by
  intro s t hs he
  cases he
  exact h.act _ hs

theorem Benign.resetWarm (h : Benign P) (i k : Nat) : Keeping P (execResetWarm i k) := by
  intro s t hs he
  unfold execResetWarm at he
  split at he
  · cases he; exact hs
  · split at he <;> cases he
    · exact h.warmReset _ hs
    · exact h.act _ hs

theorem Benign.windowWrite (h : Benign P) (i k w j d : Nat) : Keeping P (execFwWindowWrite i k w j d) := by
  intro s t hs he
  unfold execFwWindowWrite at he
  split at he
  · simp only at he
    split at he <;> cases he
    · exact h.fwRegs _ _ _ (h.run _ hs)
    · exact h.run _ hs
  · cases he; exact hs

theorem keeping_afterCmd {o : State → Host.Outcome State Fault Refusal} (ho : Keeping P o) {s : State} (hs : P s) : P (afterCmd o s) := by
  unfold afterCmd
  split
  · rename_i t he; exact ho s t hs he
  · exact hs

theorem keeping_afterCmds {os : List (State → Host.Outcome State Fault Refusal)} (ho : ∀ o ∈ os, Keeping P o) {s : State} (hs : P s) :
    P (afterCmds os s) := by
  unfold afterCmds
  induction os generalizing s with
  | nil => exact hs
  | cons o os ih => exact ih (fun x hx => ho x (List.mem_cons_of_mem _ hx)) (keeping_afterCmd (ho o List.mem_cons_self) hs)

/-- A command of one action keeps the property. -/
theorem Benign.direct (h : Benign P) {c : Instr} (hc : isDirect c = false) : Keeping P (exec c) := by
  intro s t hs he
  obtain ⟨a, rfl⟩ := exec_next hc he
  exact h.act _ hs

theorem Benign.of_perform (h : Benign P) {o : State → Host.Outcome State Fault Refusal} (ho : ∀ s, ∃ ok a, o s = perform ok a s) :
    Keeping P o := by
  intro s t hs he
  obtain ⟨ok, a, e⟩ := ho s
  rw [e] at he
  exact h.performs ok (fun _ => a) s t hs he

theorem keeping_singleton {o : State → Host.Outcome State Fault Refusal} (ho : Keeping P o) : ∀ x ∈ [o], Keeping P x := by
  intro x hx; rw [List.mem_singleton.1 hx]; exact ho

theorem keeping_map {α : Type} {l : List α} {f : α → State → Host.Outcome State Fault Refusal} (ho : ∀ a, Keeping P (f a)) :
    ∀ x ∈ l.map f, Keeping P x := by
  intro x hx
  obtain ⟨a, _, rfl⟩ := List.mem_map.1 hx
  exact ho a

theorem Benign.resetCmds (h : Benign P) (i k v : Nat) : ∀ o ∈ resetCmds i k v, Keeping P o := by
  unfold Machine.resetCmds
  split
  · exact keeping_singleton (h.resetWarm i k)
  · intro o ho
    rcases List.mem_append.1 ho with ho | ho
    · exact keeping_map (fun d => h.of_perform fun s => ⟨_, _, rfl⟩) o ho
    · exact keeping_map (fun d => h.of_perform fun s => ⟨_, _, rfl⟩) o ho

/-- Each command of a list of commands keeps the property. -/
def KeepingAll (P : State → Prop) (cs : Cmds) : Prop := ∀ o ∈ cs.getD [], Keeping P o

theorem keepingAll_none : KeepingAll P none := by intro o ho; cases ho
theorem keepingAll_nil : KeepingAll P (some []) := by intro o ho; cases ho
theorem keepingAll_one {o : State → Host.Outcome State Fault Refusal} (ho : Keeping P o) : KeepingAll P (some [o]) := keeping_singleton ho
theorem keepingAll_ite {c : Prop} [Decidable c] {a b : Cmds} (ha : KeepingAll P a) (hb : KeepingAll P b) : KeepingAll P (if c then a else b) := by
  split
  · exact ha
  · exact hb
theorem Benign.one (h : Benign P) {o : State → Host.Outcome State Fault Refusal} (ho : ∀ s, ∃ ok a, o s = perform ok a s) :
    KeepingAll P (some [o]) := keepingAll_one (h.of_perform ho)
theorem Benign.bit (h : Benign P) {c : Bool} {o : State → Host.Outcome State Fault Refusal} (ho : ∀ s, ∃ ok a, o s = perform ok a s) :
    KeepingAll P (some (if c then [o] else [])) := by
  cases c
  · exact keepingAll_nil
  · exact h.one ho

/-- Of the commands that a whole write stands for. -/
theorem Benign.wholeCmds (h : Benign P) (i k p off v : Nat) : KeepingAll P (Machine.wholeCmds i k p off v) := by
  refine keepingAll_ite (keepingAll_ite (h.resetCmds i k v) keepingAll_none) (keepingAll_ite ?_ (keepingAll_ite ?_ (keepingAll_ite ?_
    (keepingAll_ite (keepingAll_ite (keeping_map fun d => h.of_perform fun s => ⟨_, _, rfl⟩) keepingAll_none) (keepingAll_ite ?_ (keepingAll_ite ?_
    (keepingAll_ite ?_ keepingAll_none)))))))
  · exact keepingAll_ite (h.bit fun s => ⟨_, _, rfl⟩) (keepingAll_ite (h.bit fun s => ⟨_, _, rfl⟩)
      (keepingAll_ite (h.bit fun s => ⟨_, _, rfl⟩) (keepingAll_ite (h.one fun s => ⟨_, _, rfl⟩) keepingAll_none)))
  · exact keepingAll_ite (keepingAll_ite (h.one fun s => ⟨_, _, rfl⟩) (keepingAll_ite (h.one fun s => ⟨_, _, rfl⟩)
        (keepingAll_ite (h.one fun s => ⟨_, _, rfl⟩) (keepingAll_ite (h.one fun s => ⟨_, _, rfl⟩) (keepingAll_one (h.acts _))))))
      (keepingAll_ite (keepingAll_ite (h.one fun s => ⟨_, _, rfl⟩) (keepingAll_ite (h.one fun s => ⟨_, _, rfl⟩)
        (keepingAll_ite (h.one fun s => ⟨_, _, rfl⟩) (keepingAll_one (h.acts _)))))
      (keepingAll_ite (h.one fun s => ⟨_, _, rfl⟩) keepingAll_none))
  · exact keepingAll_ite (keepingAll_ite (h.one fun s => ⟨_, _, rfl⟩) (keepingAll_ite (h.one fun s => ⟨_, _, rfl⟩)
        (keepingAll_ite (h.one fun s => ⟨_, _, rfl⟩) (keepingAll_one (h.acts _))))) (keepingAll_ite (h.one fun s => ⟨_, _, rfl⟩) keepingAll_none)
  · exact keepingAll_ite (h.one fun s => ⟨_, _, rfl⟩) (keepingAll_ite (h.one fun s => ⟨_, _, rfl⟩) keepingAll_none)
  · exact keepingAll_ite (keepingAll_ite (h.one fun s => ⟨_, _, rfl⟩) (keepingAll_ite (h.one fun s => ⟨_, _, rfl⟩)
        (keepingAll_ite (h.one fun s => ⟨_, _, rfl⟩) (keepingAll_ite (h.one fun s => ⟨_, _, rfl⟩) (keepingAll_one (h.acts _)))))) keepingAll_none
  · exact keepingAll_ite (keepingAll_one (h.windowWrite _ _ _ _ _)) (keepingAll_ite (h.one fun s => ⟨_, _, rfl⟩) keepingAll_none)

/-- Of the commands that a part of a write stands for. -/
theorem Benign.partCmds (h : Benign P) (s0 : State) (i k p off v : Nat) : ∀ o ∈ Machine.partCmds s0 i k p off v, Keeping P o := by
  unfold Machine.partCmds
  dsimp only
  repeat' split
  all_goals first
    | (intro o hm; cases hm; done)
    | exact keeping_singleton (h.acts _)
    | exact keeping_singleton (h.of_perform fun s => ⟨_, _, rfl⟩)
    | skip
  intro o hm
  rcases List.mem_append.1 hm with hm | hm
  · exact keeping_map (fun d => h.of_perform fun s => ⟨_, _, rfl⟩) o hm
  · exact keeping_map (fun d => h.acts _) o hm

theorem Benign.readyAgain (h : Benign P) (p : Nat) {s : State} (hs : P s) : P (readyAgain p s) := by
  unfold Machine.readyAgain
  split
  · exact h.act _ hs
  · exact hs

theorem Benign.writeWhole (h : Benign P) (i k p off v : Nat) {s : State} (hs : P s) : P (writeWhole i k p off v s) := by
  unfold Machine.writeWhole
  repeat' split
  all_goals first
    | exact h.act _ hs
    | exact hs
    | skip
  · rename_i os he
    have := h.wholeCmds i k p off v
    rw [he] at this
    exact h.readyAgain _ (keeping_afterCmds this hs)
  · exact h.readyAgain _ (keeping_afterCmds (h.partCmds _ _ _ _ _ _) (h.act _ hs))

theorem Benign.writeReg (h : Benign P) (i k p off w v : Nat) {s : State} (hs : P s) : P (writeReg i k p off w v s) := by
  unfold Machine.writeReg
  repeat' split
  all_goals first
    | exact h.act _ hs
    | exact h.writeWhole _ _ _ _ _ hs
    | exact h.writeWhole _ _ _ _ _ (h.act _ hs)

theorem Benign.writePage (h : Benign P) (i k p off n v : Nat) {s : State} (hs : P s) : P (writePage i k p off n v s) := by
  unfold Machine.writePage
  repeat' split
  all_goals first
    | exact h.writeReg _ _ _ _ _ _ hs
    | exact h.act _ hs

theorem Benign.registerWrite (h : Benign P) (i k a w v : Nat) : Keeping P (execRegisterWrite i k a w v) := by
  intro s t hs he
  unfold execRegisterWrite at he
  split at he
  · dsimp only at he
    split at he <;> (injection he with he; subst he)
    · exact h.act _ (h.writePage _ _ _ _ _ _ hs)
    · exact h.act _ hs
  · injection he with he; subst he; exact hs

theorem Benign.performed (h : Benign P) (i k acc a n : Nat) (bs : List Byte) (e : Ecc) {s : State} (hs : P s) :
    P (performed i k acc a n bs e s) := by
  unfold Machine.performed
  repeat' split
  all_goals first
    | exact h.act _ hs
    | exact h.writePage _ _ _ _ _ _ (h.act _ hs)
    | exact h.act _ (keeping_afterCmd (h.of_perform fun s => ⟨_, _, rfl⟩) hs)

theorem Benign.request (h : Benign P) (i k acc a n : Nat) (bs : List Byte) (e : Ecc) {s : State} (hs : P s) :
    P (request_ i k acc a n bs e s) := by
  unfold request_
  dsimp only
  repeat' split
  all_goals first
    | exact h.act _ hs
    | exact h.performed _ _ _ _ _ _ _ (h.act _ hs)

theorem Benign.hartRequest (h : Benign P) (i k acc a n : Nat) (bs : List Byte) (e : Ecc) {s : State} (hs : P s) :
    P (hartRequest i k acc a n bs e s) := by
  unfold Machine.hartRequest
  dsimp only
  repeat' split
  all_goals exact h.act _ hs

theorem Benign.bootIsland (h : Benign P) {s : State} (hs : P s) : P (bootIsland s) := by
  unfold Machine.bootIsland
  split
  · exact h.act _ hs
  · dsimp only
    have h2 := fun k => h.act (seq [bootPhase 2, updBoot fun b => { b with flash := installUpdate { s with silicon := { s.silicon with keyStore := some k } } }]) (h.silicon s { s.silicon with keyStore := some k } hs)
    split
    · exact h.act _ (h2 _)
    · apply h.act
      split
      · exact h.act _ (h.act _ (h2 _))
      · unfold useCfg
        exact h.loadWindows (h.dbg _ _ (h.act _ (h.act _ (h2 _))))

theorem Benign.newNonce (h : Benign P) {s : State} (hs : P s) : P (newNonce s) := by
  unfold Machine.newNonce
  exact h.dbgFresh _ 4 hs

theorem Benign.unlock (h : Benign P) (ls : Nat) {s : State} (hs : P s) : P (unlockLevels ls s) ∧ P (unlockFailed s) := by
  constructor
  · unfold unlockLevels
    dsimp only
    split
    · exact h.newNonce (h.act _ (h.dbg _ _ hs))
    · exact h.act _ (h.newNonce (h.act _ (h.dbg _ _ hs)))
  · unfold unlockFailed
    exact h.newNonce (h.act _ (h.dbg _ _ hs))

/-- Every command but PORST_N, an island reset and a grid point keeps the property. -/
theorem Benign.exec (h : Benign P) {c : Instr} (h1 : ∀ e, c ≠ .porstN e) (h2 : c ≠ .islandWatchdogExpiry) (h3 : c ≠ .axisGridPoint) :
    Keeping P (exec c) := by
  by_cases hd : isDirect c = false
  · exact h.direct hd
  · intro s t hs he
    cases c
    case registerWrite => exact h.registerWrite _ _ _ _ _ s t hs he
    case porstN e => exact absurd rfl (h1 e)
    case islandWatchdogExpiry => exact absurd rfl h2
    case axisGridPoint => exact absurd rfl h3
    case wrstN => cases he; exact h.warmReset _ (h.act _ hs)
    case resetWarm => exact h.resetWarm _ _ s t hs he
    case pllLock =>
      simp only [Machine.exec, execPllLock] at he
      split at he <;> cases he
      · exact h.bootIsland (h.act _ hs)
      · exact hs
    case fabricRequest =>
      simp only [Machine.exec, execFabricRequest] at he
      split at he <;> (injection he with he; subst he)
      · apply h.act
        split
        · exact h.hartRequest _ _ _ _ _ _ _ hs
        · exact h.request _ _ _ _ _ _ _ hs
      · exact hs
    case yeliloRequest =>
      simp only [Machine.exec, execYeliloRequest] at he
      split at he <;> (injection he with he; subst he)
      · exact h.act _ (h.request _ _ _ _ _ _ _ hs)
      · exact hs
    case fwWindowWrite => exact h.windowWrite _ _ _ _ _ s t hs he
    case fwWindowSync =>
      simp only [Machine.exec, execFwWindowSync] at he
      split at he <;> cases he
      · exact h.fwRegs _ _ _ hs
      · exact hs
    case stateDone =>
      simp only [Machine.exec, execStateDone] at he
      repeat' split at he
      all_goals (injection he with he; subst he)
      all_goals first
        | exact hs
        | exact h.act _ (h.loadWindows hs)
        | exact h.act _ hs
    case unlockPw =>
      simp only [Machine.exec, execUnlockPw] at he
      repeat' split at he
      all_goals first
        | (injection he with he; subst he)
        | cases he
      · exact hs
      · exact (h.unlock _ hs).1
      · exact (h.unlock 0 hs).2
    case unlockCr =>
      simp only [Machine.exec, execUnlockCr] at he
      repeat' split at he
      all_goals first
        | (injection he with he; subst he)
        | cases he
      · exact hs
      · exact (h.unlock _ hs).1
      · exact (h.unlock 0 hs).2
    all_goals exact absurd rfl hd

end Sys2Proof.Machine
end

