-- ==== Sys2Proof/Laws/Ops.lean ====
section
/-! SUPPORT. The shared operations, each said once: accesses to registers, interrupts, messages, the error log, the error
window, doubt. A quiet action changes registers, the error log and pending messages at most. -/

namespace Sys2Proof.Machine

variable (s : State)

/-! ### Quiet actions -/

/-- The state without its registers, the error log and the pending messages. -/
def State.loud (s : State) : State :=
  { s with regs := [], log := State.reset.log, bus := { s.bus with files := [] } }

/-- The action changes registers, the error log and pending messages at most. -/
def Quiet (a : Act) : Prop := Keeps State.loud a

@[simp] theorem Quiet.keeps_mem {a : Act} (h : Quiet a) : (s.act a).mem = s.mem := by
  have := congrArg State.mem (h s); exact this
@[simp] theorem Quiet.keeps_doubt {a : Act} (h : Quiet a) : (s.act a).doubt = s.doubt := by
  have := congrArg State.doubt (h s); exact this
@[simp] theorem Quiet.keeps_fw {a : Act} (h : Quiet a) : (s.act a).fw = s.fw := by
  have := congrArg State.fw (h s); exact this
@[simp] theorem Quiet.keeps_silicon {a : Act} (h : Quiet a) : (s.act a).silicon = s.silicon := by
  have := congrArg State.silicon (h s); exact this
@[simp] theorem Quiet.keeps_dbg {a : Act} (h : Quiet a) : (s.act a).dbg = s.dbg := by
  have := congrArg State.dbg (h s); exact this
@[simp] theorem Quiet.keeps_grid {a : Act} (h : Quiet a) : (s.act a).grid = s.grid := by
  have := congrArg State.grid (h s); exact this
@[simp] theorem Quiet.keeps_time {a : Act} (h : Quiet a) : (s.act a).time = s.time := by
  have := congrArg State.time (h s); exact this
@[simp] theorem Quiet.keeps_ts {a : Act} (h : Quiet a) : (s.act a).ts = s.ts := by
  have := congrArg State.ts (h s); exact this
@[simp] theorem Quiet.keeps_rm {a : Act} (h : Quiet a) : (s.act a).rm = s.rm := by
  have := congrArg State.rm (h s); exact this
@[simp] theorem Quiet.keeps_plan {a : Act} (h : Quiet a) : (s.act a).plan = s.plan := by
  have := congrArg State.plan (h s); exact this
@[simp] theorem Quiet.keeps_hot {a : Act} (h : Quiet a) : (s.act a).hot = s.hot := by
  have := congrArg State.hot (h s); exact this
@[simp] theorem Quiet.keeps_wear {a : Act} (h : Quiet a) : (s.act a).wear = s.wear := by
  have := congrArg State.wear (h s); exact this
@[simp] theorem Quiet.keeps_eng {a : Act} (h : Quiet a) : (s.act a).eng = s.eng := by
  have := congrArg State.eng (h s); exact this
@[simp] theorem Quiet.keeps_fu {a : Act} (h : Quiet a) : (s.act a).fu = s.fu := by
  have := congrArg State.fu (h s); exact this
@[simp] theorem Quiet.keeps_mw {a : Act} (h : Quiet a) : (s.act a).mw = s.mw := by
  have := congrArg State.mw (h s); exact this
@[simp] theorem Quiet.keeps_tp {a : Act} (h : Quiet a) : (s.act a).tp = s.tp := by
  have := congrArg State.tp (h s); exact this
@[simp] theorem Quiet.keeps_tt {a : Act} (h : Quiet a) : (s.act a).tt = s.tt := by
  have := congrArg State.tt (h s); exact this
@[simp] theorem Quiet.keeps_isl {a : Act} (h : Quiet a) : (s.act a).isl = s.isl := by
  have := congrArg State.isl (h s); exact this
@[simp] theorem Quiet.keeps_pw {a : Act} (h : Quiet a) : (s.act a).pw = s.pw := by
  have := congrArg State.pw (h s); exact this
@[simp] theorem Quiet.keeps_boot {a : Act} (h : Quiet a) : (s.act a).boot = s.boot := by
  have := congrArg State.boot (h s); exact this
@[simp] theorem Quiet.keeps_feed {a : Act} (h : Quiet a) : (s.act a).feed = s.feed := by
  have := congrArg State.feed (h s); exact this
@[simp] theorem Quiet.keeps_yl {a : Act} (h : Quiet a) : (s.act a).yl = s.yl := by
  have := congrArg State.yl (h s); exact this
@[simp] theorem Quiet.keeps_fresh {a : Act} (h : Quiet a) : (s.act a).fresh = s.fresh := by
  have := congrArg State.fresh (h s); exact this
@[simp] theorem Quiet.keeps_pending {a : Act} (h : Quiet a) : (s.act a).pending = s.pending := by
  have := congrArg State.pending (h s); exact this
@[simp] theorem Quiet.keeps_bus_resp {a : Act} (h : Quiet a) : (s.act a).bus.resp = s.bus.resp := by
  have := congrArg (fun x => x.bus.resp) (h s); exact this
@[simp] theorem Quiet.keeps_bus_sent {a : Act} (h : Quiet a) : (s.act a).bus.sent = s.bus.sent := by
  have := congrArg (fun x => x.bus.sent) (h s); exact this
@[simp] theorem Quiet.keeps_bus_staging {a : Act} (h : Quiet a) : (s.act a).bus.staging = s.bus.staging := by
  have := congrArg (fun x => x.bus.staging) (h s); exact this
@[simp] theorem Quiet.keeps_bus_latches {a : Act} (h : Quiet a) : (s.act a).bus.latches = s.bus.latches := by
  have := congrArg (fun x => x.bus.latches) (h s); exact this
@[simp] theorem Quiet.keeps_bus_hartTkt {a : Act} (h : Quiet a) : (s.act a).bus.hartTkt = s.bus.hartTkt := by
  have := congrArg (fun x => x.bus.hartTkt) (h s); exact this
@[simp] theorem Quiet.keeps_bus_lines {a : Act} (h : Quiet a) : (s.act a).bus.lines = s.bus.lines := by
  have := congrArg (fun x => x.bus.lines) (h s); exact this
@[simp] theorem Quiet.keeps_bus_gpio {a : Act} (h : Quiet a) : (s.act a).bus.gpio = s.bus.gpio := by
  have := congrArg (fun x => x.bus.gpio) (h s); exact this

@[simp] theorem quiet_skip : Quiet skip := keeps_skip
@[simp] theorem quiet_seq_nil : Quiet (seq []) := keeps_seq_nil
@[simp] theorem quiet_seq_cons {a : Act} {as : List Act} (h : Quiet a) (hs : Quiet (seq as)) : Quiet (seq (a :: as)) := keeps_seq_cons h hs
@[simp] theorem quiet_whenA {c : Bool} {a : Act} (h : Quiet a) : Quiet (whenA c a) := keeps_whenA h
@[simp] theorem quiet_whenS {c : State → Bool} {a : Act} (h : Quiet a) : Quiet (whenS c a) := keeps_whenS h
@[simp] theorem quiet_withS {f : State → Act} (h : ∀ s, Quiet (f s)) : Quiet (withS f) := keeps_withS h
@[simp] theorem quiet_ite {c : Prop} [Decidable c] {a b : Act} (h : Quiet a) (h2 : Quiet b) : Quiet (if c then a else b) := keeps_ite h h2
@[simp] theorem quiet_forA {α : Type} {xs : List α} {f : α → Act} (h : ∀ x, Quiet (f x)) : Quiet (forA xs f) := keeps_forA h
@[simp] theorem quiet_setF (f : Fld) (v : Nat) : Quiet (setF f v) := fun _ => rfl
@[simp] theorem quiet_countF (f : Fld) (n : Nat) : Quiet (countF f n) := fun _ => rfl
@[simp] theorem quiet_updLog (f : LogSt → LogSt) : Quiet (updLog f) := fun _ => rfl
@[simp] theorem quiet_pendMsg (file id : Nat) : Quiet (pendMsg file id) := fun _ => rfl

@[simp] theorem quiet_sendMsg (p : Nat) : Quiet (sendMsg p) := by
  unfold sendMsg; apply quiet_withS; intro s; split
  · split <;> simp
  · simp

@[simp] theorem quiet_intChange {p : Nat} {a : Act} (h : Quiet a) : Quiet (intChange p a) := by
  unfold intChange
  exact keeps_withS fun s => quiet_seq_cons h (quiet_seq_cons (quiet_whenS (quiet_sendMsg p)) quiet_seq_nil)

@[simp] theorem quiet_raiseInt (p b : Nat) : Quiet (raiseInt p b) := by
  unfold raiseInt; apply quiet_intChange; intro s; rfl

@[simp] theorem quiet_report (r : Report) : Quiet (report r) := by
  unfold report; apply quiet_withS; intro s; simp (maxDischargeDepth := 20)

@[simp] theorem quiet_reportNow (cls o code page unit init tkt : Nat) (d : Bool) (a : Option Nat) (x : Nat) :
    Quiet (reportNow cls o code page unit init tkt d a x) := by
  unfold reportNow; simp

@[simp] theorem quiet_errWindow (p k init tkt off data : Nat) (w : Bool) : Quiet (errWindow p k init tkt off data w) := by
  unfold errWindow; simp (maxDischargeDepth := 20)

/-! ### Fields that a quiet action leaves alone -/

/-- The field is neither of the error log's page nor of a page EL_[2 + d]. -/
def Fld.calm (f : Fld) : Prop := f.lsb < 64 ∧ f.page ≠ 1 ∧ f.page ≠ 21 ∧ f.page ≠ 37 ∧ f.page ≠ 53 ∧ f.page ≠ 69

theorem keeps_get_pendMsg (f : Fld) (file id : Nat) : Keeps (fun s => s.get f) (pendMsg file id) := fun _ => rfl

theorem keeps_get_sendMsg (f : Fld) (p : Nat) : Keeps (fun s => s.get f) (sendMsg p) := by
  unfold sendMsg; apply keeps_withS; intro s; split
  · split
    · exact keeps_get_pendMsg f _ _
    · exact keeps_skip
  · exact keeps_skip

theorem keeps_get_raiseInt {f : Fld} {p : Nat} (b : Nat) (h : f.key ≠ (INT_STAT p).key) : Keeps (fun s => s.get f) (raiseInt p b) := by
  unfold raiseInt intChange
  apply keeps_withS; intro s
  exact keeps_seq_cons (fun s => get_put_other s s.regs _ h) (keeps_seq_cons (keeps_whenS (keeps_get_sendMsg f p)) keeps_seq_nil)

/-- The interrupt bit is set. -/
theorem get_raiseInt (p b : Nat) : (s.act (raiseInt p b)).get (INT_STAT p) = setBit (s.get (INT_STAT p)) b % 2 ^ 32 := by
  have h : ∀ t : State, (t.act (seq [whenS (fun s' => request s p == 0 && request s' p != 0) (sendMsg p)])).get (INT_STAT p) = t.get (INT_STAT p) :=
    keeps_seq_cons (keeps_whenS (keeps_get_sendMsg _ p)) keeps_seq_nil
  unfold raiseInt intChange
  rw [act_withS, act_seq_cons, h]
  exact get_put_same s s.regs (INT_STAT p) _

/-- A report changes fields of the error log's pages alone. -/
theorem keeps_get_report {f : Fld} (r : Report) (hf : f.calm) (hc : r.cls < 16) : Keeps (fun s => s.get f) (report r) := by
  obtain ⟨hl, h1, h2, h3, h4, h5⟩ := hf
  have hk : ∀ g : Fld, g.lsb < 64 → g.page = 1 → f.key ≠ g.key := fun g a b => key_ne_of_page hl a (by rw [b]; exact h1)
  have hI : ∀ b, Keeps (fun s => s.get f) (raiseInt pageEL b) := fun b =>
    keeps_get_raiseInt b (hk _ (by simp [INT_STAT]) (by simp [INT_STAT, Fld.page, pageEL]))
  unfold report
  apply keeps_withS; intro s
  refine keeps_seq_cons (keeps_whenA (keeps_seq_cons (keeps_updLog fun _ _ => rfl) (keeps_seq_cons ?_ keeps_seq_nil)))
    (keeps_seq_cons (keeps_updLog fun _ _ => rfl) (keeps_seq_cons (keeps_ite ?_ ?_) keeps_seq_nil))
  · refine keeps_seq_cons (keeps_whenS (hI 3)) (keeps_seq_cons ?_ (keeps_seq_cons ?_ (keeps_seq_cons ?_ (keeps_seq_cons ?_ (keeps_seq_cons ?_ keeps_seq_nil)))))
    all_goals
      apply keeps_get_setF
      apply hk
      · simp [EL_FIRST_ORIGIN, EL_FIRST_INIT, EL_FIRST_TIME, EL_FIRST_ADDR, EL_FIRST_VALID]
      · simp only [EL_FIRST_ORIGIN, EL_FIRST_INIT, EL_FIRST_TIME, EL_FIRST_ADDR, EL_FIRST_VALID, Fld.page]; omega
  · by_cases hq : r.origin < 4
    · apply keeps_whenA; apply keeps_get_setF
      have : (if r.origin < 4 then r.origin else 4) = r.origin := if_pos hq
      rw [this]
      apply key_ne_of_page hl (by simp [EL_ING_PEAK])
      simp only [EL_ING_PEAK, Fld.page] at *
      omega
    · have : (if r.origin < 4 then r.origin else 4) = 4 := if_neg hq
      rw [this]
      simp only [show decide (4 < 4) = false from rfl, Bool.false_and]
      exact fun _ => rfl
  · refine keeps_seq_cons ?_ (keeps_seq_cons ?_ (keeps_seq_cons (hI 2) keeps_seq_nil))
    · apply keeps_get_countF; apply hk
      · simp [EL_MISSED_COUNT]
      · simp only [EL_MISSED_COUNT, Fld.page]
        split <;> omega
    · exact keeps_get_setF (hk _ (by decide) (by decide))

theorem keeps_get_reportNow {f : Fld} {cls : Nat} (hf : f.calm) (hc : cls < 16) (o code page unit init tkt : Nat) (d : Bool)
    (a : Option Nat) (x : Nat) : Keeps (fun s => s.get f) (reportNow cls o code page unit init tkt d a x) := by
  unfold reportNow; apply keeps_withS; intro s; exact keeps_get_report _ hf hc

/-- An event of the error window changes the page's own window and interrupt fields and the error log's pages alone. -/
theorem keeps_get_errWindow {f : Fld} {p : Nat} (hf : f.calm) (h : ¬(f.page = p ∧ f.off % 0x10000 < 0x100)) (k init tkt off data : Nat)
    (w : Bool) : Keeps (fun s => s.get f) (errWindow p k init tkt off data w) := by
  have hk : ∀ g : Fld, g.lsb < 64 → g.page = p → g.off % 0x10000 < 0x100 → f.key ≠ g.key := by
    intro g a b c
    by_cases hp : f.page = p
    · apply key_ne_of_off hf.1 a; intro e; exact h ⟨hp, by rw [e]; exact c⟩
    · exact key_ne_of_page hf.1 a (by rw [b]; exact hp)
  have hI : ∀ b, Keeps (fun s => s.get f) (raiseInt p b) := fun b =>
    keeps_get_raiseInt b (hk _ (by simp [INT_STAT]) (by simp only [INT_STAT, Fld.page]; omega) (by simp only [INT_STAT]; omega))
  unfold errWindow
  apply keeps_withS; intro s; dsimp only
  refine keeps_seq_cons (keeps_whenS ?_) (keeps_seq_cons ?_ (keeps_seq_cons (keeps_get_reportNow hf (by omega) _ _ _ _ _ _ _ _ _) keeps_seq_nil))
  · refine keeps_seq_cons (keeps_updLog fun _ _ => rfl) (keeps_seq_cons (keeps_whenS (hI 31)) (keeps_seq_cons ?_ (keeps_seq_cons ?_ (keeps_seq_cons ?_
      (keeps_seq_cons ?_ (keeps_seq_cons ?_ (keeps_seq_cons ?_ (keeps_seq_cons ?_ keeps_seq_nil))))))))
    all_goals
      apply keeps_get_setF
      apply hk
      · simp [ERRW_VALID, ERRW_WRITE, ERRW_KIND, ERRW_INIT, ERRW_TICKET, ERRW_OFFSET, ERRW_DATA]
      · simp only [ERRW_VALID, ERRW_WRITE, ERRW_KIND, ERRW_INIT, ERRW_TICKET, ERRW_OFFSET, ERRW_DATA, Fld.page]; omega
      · simp only [ERRW_VALID, ERRW_WRITE, ERRW_KIND, ERRW_INIT, ERRW_TICKET, ERRW_OFFSET, ERRW_DATA]; omega
  · apply keeps_get_countF; apply hk
    · simp [ERRW_CNT]
    · simp only [ERRW_CNT, Fld.page]; omega
    · simp only [ERRW_CNT]; omega

/-! ### Reaching a register -/

/-- An access that passes the checks has its effect. -/
theorem act_reaching {init tkt acc a n : Nat} (h : Reaches s init tkt acc a n) (ok : Act) :
    s.act (reaching init tkt acc a n ok) = s.act ok := by
  unfold reaching; unfold Reaches at h; simp only [act_withS]; rw [if_pos h]

/-- A write that passes the checks has its effect. -/
theorem act_openWrite {init tkt p off n : Nat} (h : Reaches s init tkt 1 (pageAddr p off) n) (ok : Act) :
    s.act (openWrite init tkt p off n ok) = s.act ok := act_reaching s h ok

/-- A write of the island to a register that only it may write has its effect. -/
theorem act_islandWrite {init tkt p off data : Nat} (hi : isIsland init = true) (h : Reaches s init tkt 1 (pageAddr p off) 8) (ok : Act) :
    s.act (islandWrite init tkt p off data ok) = s.act ok := by
  unfold islandWrite; rw [act_reaching s h]; simp [hi]

/-- The same write of another initiator is an ORIGIN event and nothing else. -/
theorem act_islandWrite_other {init tkt p off data : Nat} (hi : isIsland init = false) (h : Reaches s init tkt 1 (pageAddr p off) 8)
    (ok : Act) : s.act (islandWrite init tkt p off data ok) = s.act (errWindow p 3 init tkt off data true) := by
  unfold islandWrite; rw [act_reaching s h]; simp [hi]

/-! ### Doubt -/

/-- A bit of the latch after wires have latched: it was set, or one of the wires is its own. -/
theorem bit_latch {d : DoubtSt} {ws : List (Nat × Nat)} (t n : Nat) (h : ws ≠ []) :
    bit (d.latch ws t).bits n = (ws.any (fun w => w.1 == n) || bit d.bits n) := by
  have hl : ∀ (vs : List (Nat × Nat)), vs ≠ [] → ∃ w, lowestWire vs = some w := by
    intro vs hv
    cases vs with
    | nil => exact absurd rfl hv
    | cons v vs =>
      simp only [lowestWire]
      split
      · exact ⟨_, rfl⟩
      · split <;> exact ⟨_, rfl⟩
  unfold DoubtSt.latch
  split
  · obtain ⟨w, hw⟩ := hl ws h
    simp only [hw, bit_foldl_setBit]
  · simp only [bit_foldl_setBit]

end Sys2Proof.Machine
end

