-- ==== Sys2Proof/Laws/PerInstr.lean ====
section
/-! SUPPORT. One law for every constructor: a well-formed command is sent by an initiator of Table 8-2 and carries a ticket
of Table 8-3. -/

namespace Sys2Proof

/-- The initiator and the ticket that a command names. -/
def Instr.sender : Instr → Option Nat × Option Nat
  | .registerWrite init tkt _ _ _ | .fwWindowWrite init tkt _ _ _ | .read init tkt _ _ _ => (some init, some tkt)
  | .resetWarm init tkt | .queueEnable init tkt | .queueDisable init tkt | .stage init tkt |
    .activate init tkt | .stop init tkt | .discard init tkt | .stateReqA0 init tkt | .stateReqP1 init tkt |
    .stateReqP2 init tkt | .stateReqP3 init tkt => (some init, some tkt)
  | .resetDie init tkt _ | .resetEng init tkt _ | .teSigTest init tkt _ | .kvSigTest init tkt _ |
    .sgDisable init tkt _ | .timeLoad init tkt _ | .fuStreamEnable init tkt _ | .ringRun init tkt _ |
    .enum init tkt _ | .logTailWrite init tkt _ => (some init, some tkt)
  | .doorbellWrite init _ _ | .sgLeave init _ _ | .tabDataAccess init _ _ => (some init, none)
  | .sgJoin init _ _ _ | .sgSetq init _ _ _ | .pulseCfgWrite init _ _ _ => (some init, none)
  | .sgStep init _ | .capTsRead init _ | .reinstate init _ | .groupDisable init _ | .calCommit init _ |
    .faultClear init _ | .yeliloEnable init _ => (some init, none)
  | .fabricRequest init tkt _ _ _ _ _ => (some init, some tkt)
  | .fwTsRateWrite init tkt _ _ _ _ | .config init tkt _ _ _ _ => (some init, some tkt)
  | .yeliloRequest _ tkt _ _ _ _ _ => (none, some tkt)
  | .timeSecRead init | .mapClear init | .doubtRequest init | .netArm init | .hostKick init |
    .reintRequest init => (some init, none)
  | .intForceWrite init tkt _ _ | .intRouteWrite init tkt _ _ => (some init, some tkt)
  | .porstN .. | .wrstN | .pllLock | .pwrgdAssert .. | .pwrgdLoss .. | .controlFrameBoundary |
    .descriptorTake .. | .creditWaitStart .. | .jobComplete .. | .openDispatch .. | .planSlotTake .. |
    .preemptRequest .. | .preemptRelease .. | .copySwitchDone .. | .slotStart .. | .slotDeadline .. |
    .jobStopAtTile .. | .linear .. | .strided .. | .gather .. | .scatter .. | .fill .. | .matmul .. | .conv .. |
    .eltwise .. | .reduce .. | .golden .. | .goldenCompare .. | .append .. | .attn .. | .attnBwd .. |
    .kvGold .. | .ctxWrite .. | .ctxRead .. | .ctxAdvance .. | .ctxTruncate .. | .ctxPin .. | .ctxUnpin .. |
    .ctxRelease .. | .ctxSummary .. | .kvCheckCompare .. | .sgPublish .. | .stageReadDone .. |
    .turnstileAdmit .. | .budgetWindow | .latencyMiss .. | .fwWindowSync | .hartTicketWrite .. |
    .linkReplay .. | .linkDown .. | .refresh .. | .patrolScrub .. | .rowMoveSwitch .. | .healthRecordWrite |
    .ptpSync .. | .ptpAnnounce .. | .ptpDelayMessage .. | .ptpSyncInterval .. | .holdoverTimeout .. |
    .referenceLost .. | .tcapEdge .. | .tpulseEdge .. | .csi2Frame .. | .ethernetSample .. | .spiDrdy .. |
    .i3cSample .. | .canFrame .. | .derivedRecord .. | .cycleClose .. | .fuse .. | .mapClearDone |
    .mapCells .. | .mapFuse .. | .mapCommit .. | .mapCopyDone | .plan .. | .emit .. | .solve .. | .cmd .. |
    .feed .. | .decodeBudgetOverrun .. | .axisGridPoint | .fbFrame .. | .fbDeadline | .takePoint .. |
    .axisUpdate .. | .axisFrameOther .. | .discRsp .. | .enumDone | .identRsp .. | .identReqTimeout |
    .doubtWireAssert .. | .netUpdate | .lockstepMismatch .. | .watchdogExpiry .. | .netWatchdogExpiry |
    .watchWatchdogExpiry | .islandWatchdogExpiry | .reintGoldenTimeout | .carouselStepDone .. | .logWrite |
    .currentWindow .. | .gainUpdate .. | .powerWindow .. | .voteReceived .. | .tempSample .. | .stateDone .. |
    .wakeEvent .. | .unlockPw .. | .nonce | .unlockCr .. | .yeliloCodewordFail .. | .yeliloLossOfLock .. |
    .gridCycle .. | .yeliloLinkUp .. | .yeliloReplayRequest .. | .portLinkChange .. => (none, none)

namespace Laws.Sender

/-- A command with operands in range names an initiator of Table 8-2, where it names one, and a ticket below 64. -/
def Statement (c : Instr) : Prop :=
  c.wellFormed = true → (∀ i, c.sender.1 = some i → isInit i = true) ∧ (∀ t, c.sender.2 = some t → t < 64)

/-- The law, for every command at once. -/
theorem law (c : Instr) : Statement c := by
  intro h
  constructor <;> intro x hx <;> cases c <;> simp only [Instr.sender, Option.some.injEq, reduceCtorEq] at hx <;>
    subst hx <;> simp only [Instr.wellFormed, isTicket, Bool.and_eq_true, decide_eq_true_eq] at h <;> simp only [h]

theorem registerWrite : ∀ init tkt addr width data, Statement (.registerWrite init tkt addr width data) := fun _ _ _ _ _ => law _
theorem porstN : ∀ env, Statement (.porstN env) := fun _ => law _
theorem wrstN : Statement .wrstN := law _
theorem resetWarm : ∀ init tkt, Statement (.resetWarm init tkt) := fun _ _ => law _
theorem resetDie : ∀ init tkt d, Statement (.resetDie init tkt d) := fun _ _ _ => law _
theorem resetEng : ∀ init tkt g, Statement (.resetEng init tkt g) := fun _ _ _ => law _
theorem pllLock : Statement .pllLock := law _
theorem pwrgdAssert : ∀ input, Statement (.pwrgdAssert input) := fun _ => law _
theorem pwrgdLoss : ∀ input, Statement (.pwrgdLoss input) := fun _ => law _
theorem controlFrameBoundary : Statement .controlFrameBoundary := law _
theorem doorbellWrite : ∀ init q data, Statement (.doorbellWrite init q data) := fun _ _ _ => law _
theorem queueEnable : ∀ init tkt, Statement (.queueEnable init tkt) := fun _ _ => law _
theorem queueDisable : ∀ init tkt, Statement (.queueDisable init tkt) := fun _ _ => law _
theorem descriptorTake : ∀ q u ecc, Statement (.descriptorTake q u ecc) := fun _ _ _ => law _
theorem creditWaitStart : ∀ die ctr, Statement (.creditWaitStart die ctr) := fun _ _ => law _
theorem jobComplete : ∀ u cycles bytes energy ecc, Statement (.jobComplete u cycles bytes energy ecc) := fun _ _ _ _ _ => law _
theorem openDispatch : ∀ u ecc, Statement (.openDispatch u ecc) := fun _ _ => law _
theorem planSlotTake : ∀ slot ecc, Statement (.planSlotTake slot ecc) := fun _ _ => law _
theorem preemptRequest : ∀ u, Statement (.preemptRequest u) := fun _ => law _
theorem preemptRelease : ∀ u cycles, Statement (.preemptRelease u cycles) := fun _ _ => law _
theorem copySwitchDone : ∀ u, Statement (.copySwitchDone u) := fun _ => law _
theorem slotStart : ∀ slot, Statement (.slotStart slot) := fun _ => law _
theorem slotDeadline : ∀ slot, Statement (.slotDeadline slot) := fun _ => law _
theorem jobStopAtTile : ∀ u, Statement (.jobStopAtTile u) := fun _ => law _
theorem linear : ∀ u ecc, Statement (.linear u ecc) := fun _ _ => law _
theorem strided : ∀ u ecc, Statement (.strided u ecc) := fun _ _ => law _
theorem gather : ∀ u ecc, Statement (.gather u ecc) := fun _ _ => law _
theorem scatter : ∀ u ecc, Statement (.scatter u ecc) := fun _ _ => law _
theorem fill : ∀ u ecc, Statement (.fill u ecc) := fun _ _ => law _
theorem matmul : ∀ u ecc, Statement (.matmul u ecc) := fun _ _ => law _
theorem conv : ∀ u ecc, Statement (.conv u ecc) := fun _ _ => law _
theorem eltwise : ∀ u ecc, Statement (.eltwise u ecc) := fun _ _ => law _
theorem reduce : ∀ u ecc, Statement (.reduce u ecc) := fun _ _ => law _
theorem golden : ∀ u wrong, Statement (.golden u wrong) := fun _ _ => law _
theorem goldenCompare : ∀ g step wrong, Statement (.goldenCompare g step wrong) := fun _ _ _ => law _
theorem teSigTest : ∀ init tkt g, Statement (.teSigTest init tkt g) := fun _ _ _ => law _
theorem append : ∀ u ecc, Statement (.append u ecc) := fun _ _ => law _
theorem attn : ∀ u r, Statement (.attn u r) := fun _ _ => law _
theorem attnBwd : ∀ u r, Statement (.attnBwd u r) := fun _ _ => law _
theorem kvGold : ∀ u wrong, Statement (.kvGold u wrong) := fun _ _ => law _
theorem ctxWrite : ∀ u ecc, Statement (.ctxWrite u ecc) := fun _ _ => law _
theorem ctxRead : ∀ u ecc, Statement (.ctxRead u ecc) := fun _ _ => law _
theorem ctxAdvance : ∀ u ecc, Statement (.ctxAdvance u ecc) := fun _ _ => law _
theorem ctxTruncate : ∀ u ecc, Statement (.ctxTruncate u ecc) := fun _ _ => law _
theorem ctxPin : ∀ u ecc, Statement (.ctxPin u ecc) := fun _ _ => law _
theorem ctxUnpin : ∀ u ecc, Statement (.ctxUnpin u ecc) := fun _ _ => law _
theorem ctxRelease : ∀ u ecc, Statement (.ctxRelease u ecc) := fun _ _ => law _
theorem ctxSummary : ∀ u ecc, Statement (.ctxSummary u ecc) := fun _ _ => law _
theorem kvCheckCompare : ∀ d step wrong, Statement (.kvCheckCompare d step wrong) := fun _ _ _ => law _
theorem kvSigTest : ∀ init tkt d, Statement (.kvSigTest init tkt d) := fun _ _ _ => law _
theorem sgJoin : ∀ init g ctx qrows, Statement (.sgJoin init g ctx qrows) := fun _ _ _ _ => law _
theorem sgLeave : ∀ init g ctx, Statement (.sgLeave init g ctx) := fun _ _ _ => law _
theorem sgSetq : ∀ init g ctx qrows, Statement (.sgSetq init g ctx qrows) := fun _ _ _ _ => law _
theorem sgStep : ∀ init mask, Statement (.sgStep init mask) := fun _ _ => law _
theorem sgPublish : ∀ g ecc, Statement (.sgPublish g ecc) := fun _ _ => law _
theorem sgDisable : ∀ init tkt g, Statement (.sgDisable init tkt g) := fun _ _ _ => law _
theorem stage : ∀ init tkt, Statement (.stage init tkt) := fun _ _ => law _
theorem stageReadDone : ∀ ecc, Statement (.stageReadDone ecc) := fun _ => law _
theorem activate : ∀ init tkt, Statement (.activate init tkt) := fun _ _ => law _
theorem stop : ∀ init tkt, Statement (.stop init tkt) := fun _ _ => law _
theorem discard : ∀ init tkt, Statement (.discard init tkt) := fun _ _ => law _
theorem fabricRequest : ∀ init tkt h addr len data ecc, Statement (.fabricRequest init tkt h addr len data ecc) := fun _ _ _ _ _ _ _ => law _
theorem turnstileAdmit : ∀ port arrivals, Statement (.turnstileAdmit port arrivals) := fun _ _ => law _
theorem budgetWindow : Statement .budgetWindow := law _
theorem latencyMiss : ∀ port t, Statement (.latencyMiss port t) := fun _ _ => law _
theorem fwWindowWrite : ∀ init tkt w word data, Statement (.fwWindowWrite init tkt w word data) := fun _ _ _ _ _ => law _
theorem fwWindowSync : Statement .fwWindowSync := law _
theorem fwTsRateWrite : ∀ init tkt page l t data, Statement (.fwTsRateWrite init tkt page l t data) := fun _ _ _ _ _ _ => law _
theorem hartTicketWrite : ∀ hart value, Statement (.hartTicketWrite hart value) := fun _ _ => law _
theorem yeliloRequest : ∀ p tkt h addr len data ecc, Statement (.yeliloRequest p tkt h addr len data ecc) := fun _ _ _ _ _ _ _ => law _
theorem linkReplay : ∀ d l, Statement (.linkReplay d l) := fun _ _ => law _
theorem linkDown : ∀ d l, Statement (.linkDown d l) := fun _ _ => law _
theorem refresh : ∀ stack, Statement (.refresh stack) := fun _ => law _
theorem patrolScrub : ∀ block verdict, Statement (.patrolScrub block verdict) := fun _ _ => law _
theorem rowMoveSwitch : ∀ stack, Statement (.rowMoveSwitch stack) := fun _ => law _
theorem healthRecordWrite : Statement .healthRecordWrite := law _
theorem timeLoad : ∀ init tkt data, Statement (.timeLoad init tkt data) := fun _ _ _ => law _
theorem timeSecRead : ∀ init, Statement (.timeSecRead init) := fun _ => law _
theorem ptpSync : ∀ port m gm, Statement (.ptpSync port m gm) := fun _ _ _ => law _
theorem ptpAnnounce : ∀ port m selected, Statement (.ptpAnnounce port m selected) := fun _ _ _ => law _
theorem ptpDelayMessage : ∀ port h t1 t2 t3 t4, Statement (.ptpDelayMessage port h t1 t2 t3 t4) := fun _ _ _ _ _ _ => law _
theorem ptpSyncInterval : ∀ x, Statement (.ptpSyncInterval x) := fun _ => law _
theorem holdoverTimeout : ∀ kind, Statement (.holdoverTimeout kind) := fun _ => law _
theorem referenceLost : ∀ pll, Statement (.referenceLost pll) := fun _ => law _
theorem tcapEdge : ∀ i kind, Statement (.tcapEdge i kind) := fun _ _ => law _
theorem capTsRead : ∀ init i, Statement (.capTsRead init i) := fun _ _ => law _
theorem tpulseEdge : ∀ j, Statement (.tpulseEdge j) := fun _ => law _
theorem pulseCfgWrite : ∀ init j word data, Statement (.pulseCfgWrite init j word data) := fun _ _ _ _ => law _
theorem csi2Frame : ∀ i a, Statement (.csi2Frame i a) := fun _ _ => law _
theorem ethernetSample : ∀ i a, Statement (.ethernetSample i a) := fun _ _ => law _
theorem spiDrdy : ∀ i a, Statement (.spiDrdy i a) := fun _ _ => law _
theorem i3cSample : ∀ i a, Statement (.i3cSample i a) := fun _ _ => law _
theorem canFrame : ∀ i a, Statement (.canFrame i a) := fun _ _ => law _
theorem derivedRecord : ∀ i a, Statement (.derivedRecord i a) := fun _ _ => law _
theorem cycleClose : ∀ g, Statement (.cycleClose g) := fun _ => law _
theorem fuStreamEnable : ∀ init tkt i, Statement (.fuStreamEnable init tkt i) := fun _ _ _ => law _
theorem reinstate : ∀ init i, Statement (.reinstate init i) := fun _ _ => law _
theorem groupDisable : ∀ init g, Statement (.groupDisable init g) := fun _ _ => law _
theorem calCommit : ∀ init i, Statement (.calCommit init i) := fun _ _ => law _
theorem fuse : ∀ u ecc, Statement (.fuse u ecc) := fun _ _ => law _
theorem mapClear : ∀ init, Statement (.mapClear init) := fun _ => law _
theorem mapClearDone : Statement .mapClearDone := law _
theorem mapCells : ∀ u ecc, Statement (.mapCells u ecc) := fun _ _ => law _
theorem mapFuse : ∀ u ecc, Statement (.mapFuse u ecc) := fun _ _ => law _
theorem mapCommit : ∀ u, Statement (.mapCommit u) := fun _ => law _
theorem mapCopyDone : Statement .mapCopyDone := law _
theorem plan : ∀ u ecc, Statement (.plan u ecc) := fun _ _ => law _
theorem emit : ∀ u ecc, Statement (.emit u ecc) := fun _ _ => law _
theorem solve : ∀ u times store ecc, Statement (.solve u times store ecc) := fun _ _ _ _ => law _
theorem cmd : ∀ u ecc, Statement (.cmd u ecc) := fun _ _ => law _
theorem feed : ∀ u times ecc, Statement (.feed u times ecc) := fun _ _ _ => law _
theorem decodeBudgetOverrun : ∀ u ecc, Statement (.decodeBudgetOverrun u ecc) := fun _ _ => law _
theorem axisGridPoint : Statement .axisGridPoint := law _
theorem fbFrame : ∀ ring frame, Statement (.fbFrame ring frame) := fun _ _ => law _
theorem fbDeadline : Statement .fbDeadline := law _
theorem takePoint : ∀ ecc, Statement (.takePoint ecc) := fun _ => law _
theorem axisUpdate : ∀ ring mem, Statement (.axisUpdate ring mem) := fun _ _ => law _
theorem axisFrameOther : ∀ ring frame, Statement (.axisFrameOther ring frame) := fun _ _ => law _
theorem ringRun : ∀ init tkt r, Statement (.ringRun init tkt r) := fun _ _ _ => law _
theorem enum : ∀ init tkt r, Statement (.enum init tkt r) := fun _ _ _ => law _
theorem discRsp : ∀ ring frame, Statement (.discRsp ring frame) := fun _ _ => law _
theorem enumDone : Statement .enumDone := law _
theorem read : ∀ init tkt r node axis, Statement (.read init tkt r node axis) := fun _ _ _ _ _ => law _
theorem identRsp : ∀ ring frame, Statement (.identRsp ring frame) := fun _ _ => law _
theorem identReqTimeout : Statement .identReqTimeout := law _
theorem config : ∀ init tkt axis ring node ecc, Statement (.config init tkt axis ring node ecc) := fun _ _ _ _ _ _ => law _
theorem tabDataAccess : ∀ init write data, Statement (.tabDataAccess init write data) := fun _ _ _ => law _
theorem faultClear : ∀ init axis, Statement (.faultClear init axis) := fun _ _ => law _
theorem doubtWireAssert : ∀ wires, Statement (.doubtWireAssert wires) := fun _ => law _
theorem doubtRequest : ∀ init, Statement (.doubtRequest init) := fun _ => law _
theorem netUpdate : Statement .netUpdate := law _
theorem netArm : ∀ init, Statement (.netArm init) := fun _ => law _
theorem lockstepMismatch : ∀ pair, Statement (.lockstepMismatch pair) := fun _ => law _
theorem watchdogExpiry : ∀ which, Statement (.watchdogExpiry which) := fun _ => law _
theorem netWatchdogExpiry : Statement .netWatchdogExpiry := law _
theorem watchWatchdogExpiry : Statement .watchWatchdogExpiry := law _
theorem islandWatchdogExpiry : Statement .islandWatchdogExpiry := law _
theorem hostKick : ∀ init, Statement (.hostKick init) := fun _ => law _
theorem reintRequest : ∀ init, Statement (.reintRequest init) := fun _ => law _
theorem reintGoldenTimeout : Statement .reintGoldenTimeout := law _
theorem carouselStepDone : ∀ e ok, Statement (.carouselStepDone e ok) := fun _ _ => law _
theorem logWrite : Statement .logWrite := law _
theorem logTailWrite : ∀ init tkt value, Statement (.logTailWrite init tkt value) := fun _ _ _ => law _
theorem currentWindow : ∀ estimates, Statement (.currentWindow estimates) := fun _ => law _
theorem gainUpdate : ∀ avs pmbus, Statement (.gainUpdate avs pmbus) := fun _ _ => law _
theorem powerWindow : ∀ use, Statement (.powerWindow use) := fun _ => law _
theorem voteReceived : ∀ port entries, Statement (.voteReceived port entries) := fun _ _ => law _
theorem tempSample : ∀ temps mems, Statement (.tempSample temps mems) := fun _ _ => law _
theorem stateReqA0 : ∀ init tkt, Statement (.stateReqA0 init tkt) := fun _ _ => law _
theorem stateReqP1 : ∀ init tkt, Statement (.stateReqP1 init tkt) := fun _ _ => law _
theorem stateReqP2 : ∀ init tkt, Statement (.stateReqP2 init tkt) := fun _ _ => law _
theorem stateReqP3 : ∀ init tkt, Statement (.stateReqP3 init tkt) := fun _ _ => law _
theorem stateDone : ∀ env, Statement (.stateDone env) := fun _ => law _
theorem wakeEvent : ∀ kind i, Statement (.wakeEvent kind i) := fun _ _ => law _
theorem unlockPw : ∀ password, Statement (.unlockPw password) := fun _ => law _
theorem nonce : Statement .nonce := law _
theorem unlockCr : ∀ levels pubX pubY sigR sigS reserved, Statement (.unlockCr levels pubX pubY sigR sigS reserved) := fun _ _ _ _ _ _ => law _
theorem intForceWrite : ∀ init tkt page data, Statement (.intForceWrite init tkt page data) := fun _ _ _ _ => law _
theorem intRouteWrite : ∀ init tkt page data, Statement (.intRouteWrite init tkt page data) := fun _ _ _ _ => law _
theorem yeliloEnable : ∀ init p, Statement (.yeliloEnable init p) := fun _ _ => law _
theorem yeliloCodewordFail : ∀ p, Statement (.yeliloCodewordFail p) := fun _ => law _
theorem yeliloLossOfLock : ∀ p, Statement (.yeliloLossOfLock p) := fun _ => law _
theorem gridCycle : ∀ n, Statement (.gridCycle n) := fun _ => law _
theorem yeliloLinkUp : ∀ p trained peer, Statement (.yeliloLinkUp p trained peer) := fun _ _ _ => law _
theorem yeliloReplayRequest : ∀ p n, Statement (.yeliloReplayRequest p n) := fun _ _ => law _
theorem portLinkChange : ∀ ring up, Statement (.portLinkChange ring up) := fun _ _ => law _

end Laws.Sender

end Sys2Proof
end

