-- ==== Sys2Proof/Laws/Reads.lean ====
section
/-! SUPPORT. Charges at the ports, and the procedures that read: what a charge can change, and the result and the ranges of the steps
that a procedure is made of. -/

namespace Sys2Proof.Machine

variable (s : State)

/-! ### Charges -/

/-- The state without its turnstiles. -/
def State.uncharged (s : State) : State := { s with ts := State.reset.ts }

theorem keeps_chargePort (t n p : Nat) : Keeps State.uncharged (chargePort t n p) := fun _ => rfl

theorem keeps_charge (init t : Nat) (w : Bool) (a n : Nat) : Keeps State.uncharged (charge init t w a n) :=
  keeps_forA fun _ => keeps_forA fun _ => keeps_chargePort _ _ _

theorem keeps_chargeSpans (u tkt : Nat) (l : List Span) : Keeps State.uncharged (chargeSpans u tkt l) :=
  keeps_forA fun _ => keeps_charge _ _ _ _ _

/-- Charging ranges changes the turnstiles and nothing else. -/
theorem act_chargeSpans (u tkt : Nat) (l : List Span) :
    s.act (chargeSpans u tkt l) = { s with ts := (s.act (chargeSpans u tkt l)).ts } := by
  have h : ({ (s.act (chargeSpans u tkt l)).uncharged with ts := (s.act (chargeSpans u tkt l)).ts } : State)
      = { s.uncharged with ts := (s.act (chargeSpans u tkt l)).ts } := by rw [keeps_chargeSpans u tkt l s]
  exact h

@[simp] theorem chargeSpans_nil (u tkt : Nat) : s.act (chargeSpans u tkt []) = s := rfl

/-- With no corrected error, what a procedure meets are its charges. -/
theorem act_runsE {α : Type} (u tkt : Nat) (bad : List Nat) (f : Ecc → Rd α) :
    s.act (runsE u tkt ⟨bad, []⟩ f) = s.act (chargeSpans u tkt (spans (f ⟨bad, []⟩))) := by
  simp [runsE, readCorr]

/-! ### Procedures -/

@[simp] theorem result_pure {α : Type} (a : α) : result (pure a : Rd α) = .ok a := rfl
@[simp] theorem spans_pure {α : Type} (a : α) : spans (pure a : Rd α) = [] := rfl

/-- A read gives what the range holds, or the failed check. -/
@[simp] theorem result_readE (u tkt : Nat) (ecc : Ecc) (a n : Nat) : result (readE s u tkt ecc a n) = readOk s u tkt ecc a n := by
  unfold result readE; cases readOk s u tkt ecc a n <;> rfl

/-- A read that succeeds accesses its range. -/
theorem spans_readE {u tkt a n : Nat} {ecc : Ecc} {b : List Byte} (h : readOk s u tkt ecc a n = .ok b) :
    spans (readE s u tkt ecc a n) = [⟨false, a, n⟩] := by
  unfold spans readE; rw [h]; rfl

@[simp] theorem result_writeE (u tkt : Nat) (ecc : Ecc) (a n : Nat) : result (writeE s u tkt ecc a n) = writeOk s u tkt ecc a n := by
  unfold result writeE; cases writeOk s u tkt ecc a n <;> rfl

end Sys2Proof.Machine
end

