-- ==== Sys2Proof/Laws/Regs.lean ====
section
/-! SUPPORT. Frames over the register fields: what composes them, and what the shared operations keep. -/

namespace Sys2Proof.Machine

variable {fs : List Fld} {ps : List Nat} (s : State)

/-- The action changes register fields of `fs` and of the pages `ps` at most. -/
def Writes (fs : List Fld) (ps : List Nat) (a : Act) : Prop := ∀ s : State, RegsBut fs ps s (s.act a)

theorem regsBut_of_regs {t : State} (h : t.regs = s.regs) : RegsBut fs ps s t := fun f _ _ => get_congr h f
theorem regsBut_trans {s t u : State} (h : RegsBut fs ps s t) (h2 : RegsBut fs ps t u) : RegsBut fs ps s u :=
  fun f a b => (h2 f a b).trans (h f a b)
theorem regsBut_put {s : State} {g : Fld} (v : Nat) (h : g ∈ fs ∨ g.key / 0x400000 ∈ ps) :
    RegsBut fs ps s { s with regs := putFld s.regs g v } := by
  intro f h1 h2
  refine get_put_other s s.regs v ?_
  rcases h with h | h
  · exact h1 g h
  · intro e; rw [e] at h2; exact h2 h
/-- What an action that keeps every other field leaves. -/
theorem writes_of_keeps {a : Act} (h : ∀ f : Fld, (∀ g ∈ fs, f.key ≠ g.key) → f.key / 0x400000 ∉ ps → Keeps (fun s => s.get f) a) :
    Writes fs ps a := fun s f h1 h2 => h f h1 h2 s

theorem writes_skip : Writes fs ps skip := fun _ _ _ _ => rfl
theorem writes_seq_nil : Writes fs ps (seq []) := fun _ _ _ _ => rfl
theorem writes_seq_cons {a : Act} {as : List Act} (h : Writes fs ps a) (hs : Writes fs ps (seq as)) : Writes fs ps (seq (a :: as)) := by
  intro s; rw [act_seq_cons]; exact regsBut_trans (h s) (hs _)
theorem writes_withS {f : State → Act} (h : ∀ s, Writes fs ps (f s)) : Writes fs ps (withS f) := fun s => h s s
theorem writes_whenA {c : Bool} {a : Act} (h : c = true → Writes fs ps a) : Writes fs ps (whenA c a) := by
  intro s; rw [act_whenA]; split
  · exact h ‹_› s
  · exact fun _ _ _ => rfl
theorem writes_whenS {c : State → Bool} {a : Act} (h : Writes fs ps a) : Writes fs ps (whenS c a) := by
  intro s; rw [act_whenS]; split
  · exact h s
  · exact fun _ _ _ => rfl
theorem writes_ite {c : Prop} [Decidable c] {a b : Act} (h : c → Writes fs ps a) (h2 : ¬c → Writes fs ps b) :
    Writes fs ps (if c then a else b) := by
  split
  · exact h ‹_›
  · exact h2 ‹_›
theorem writes_forA {β : Type} {xs : List β} {f : β → Act} (h : ∀ x ∈ xs, Writes fs ps (f x)) : Writes fs ps (forA xs f) :=
  writes_of_keeps fun g h1 h2 => keeps_forA_mem fun x hx s => h x hx s g h1 h2
theorem writes_setF {g : Fld} {v : Nat} (h : g ∈ fs ∨ g.key / 0x400000 ∈ ps) : Writes fs ps (setF g v) := fun _ => regsBut_put v h
theorem writes_countF {g : Fld} {v : Nat} (h : g ∈ fs ∨ g.key / 0x400000 ∈ ps) : Writes fs ps (countF g v) := fun _ => regsBut_put _ h
theorem writes_raiseInt {p b : Nat} (h : INT_STAT p ∈ fs ∨ (INT_STAT p).key / 0x400000 ∈ ps) : Writes fs ps (raiseInt p b) :=
  writes_of_keeps fun f h1 h2 => keeps_get_raiseInt b (by
    rcases h with h | h
    · exact h1 _ h
    · intro e; rw [e] at h2; exact h2 h)
/-- An action that leaves the register map alone. -/
theorem writes_of_regs {a : Act} (h : ∀ s : State, (s.act a).regs = s.regs) : Writes fs ps a := fun s => regsBut_of_regs s (h s)

/-- The bit of INT_STAT that an interrupt sets. -/
theorem bit_raiseInt {p b : Nat} (hb : b < 32) : bit ((s.act (raiseInt p b)).get (INT_STAT p)) b = true := by
  rw [get_raiseInt, bit_eq_testBit, Nat.testBit_mod_two_pow, ← bit_eq_testBit]; simp [hb]
theorem get_raiseInt_other {f : Fld} {p : Nat} (b : Nat) (h : f.key ≠ (INT_STAT p).key) : (s.act (raiseInt p b)).get f = s.get f :=
  keeps_get_raiseInt b h s

/-- The pages of the error log. -/
def logPages : List Nat := [1, 21, 37, 53, 69]

/-- A report changes fields of the error log's pages alone. -/
theorem writes_report (r : Report) (hc : r.cls < 16) (h : ∀ p ∈ logPages, p ∈ ps) : Writes fs ps (report r) := by
  have h1 : 1 ∈ ps := h 1 (by decide)
  have hk : ∀ g : Fld, g.key / 0x400000 = 1 → g ∈ fs ∨ g.key / 0x400000 ∈ ps := fun g e => .inr (by rw [e]; exact h1)
  unfold report
  apply writes_withS; intro s
  refine writes_seq_cons (writes_whenA fun _ => writes_seq_cons (writes_of_regs fun _ => rfl) (writes_seq_cons ?_ writes_seq_nil))
    (writes_seq_cons (writes_of_regs fun _ => rfl) (writes_seq_cons (writes_ite (fun _ => ?_) (fun _ => ?_)) writes_seq_nil))
  · have hs : ∀ g v, g = EL_FIRST_ORIGIN r.cls ∨ g = EL_FIRST_INIT r.cls ∨ g = EL_FIRST_TIME r.cls ∨ g = EL_FIRST_ADDR r.cls
        ∨ g = EL_FIRST_VALID r.cls → Writes fs ps (setF g v) := by
      intro g v hg
      apply writes_setF; apply hk
      rcases hg with e | e | e | e | e <;> subst e <;>
        simp only [Fld.key, EL_FIRST_ORIGIN, EL_FIRST_INIT, EL_FIRST_TIME, EL_FIRST_ADDR, EL_FIRST_VALID] <;> omega
    have hi : Writes fs ps (raiseInt pageEL 3) := writes_raiseInt (hk _ rfl)
    exact writes_seq_cons (writes_whenS hi) (writes_seq_cons (hs _ _ (by simp)) (writes_seq_cons (hs _ _ (by simp)) (writes_seq_cons (hs _ _ (by simp))
      (writes_seq_cons (hs _ _ (by simp)) (writes_seq_cons (hs _ _ (by simp)) writes_seq_nil)))))
  · refine writes_whenA fun hq => writes_setF ?_
    simp only [Bool.and_eq_true, decide_eq_true_eq] at hq
    have hq := hq.1
    right
    apply h
    generalize (if r.origin < 4 then r.origin else 4) = q at hq ⊢
    have : q = 0 ∨ q = 1 ∨ q = 2 ∨ q = 3 := by omega
    rcases this with e | e | e | e <;> subst e <;> decide
  · refine writes_seq_cons (writes_countF (hk _ ?_)) (writes_seq_cons (writes_setF (hk _ rfl)) (writes_seq_cons (writes_raiseInt (hk _ rfl)) writes_seq_nil))
    simp only [Fld.key, EL_MISSED_COUNT]; split <;> omega

theorem writes_reportNow {cls : Nat} (hc : cls < 16) (h : ∀ p ∈ logPages, p ∈ ps) (o code page unit init tkt : Nat) (d : Bool)
    (a : Option Nat) (x : Nat) : Writes fs ps (reportNow cls o code page unit init tkt d a x) := by
  unfold reportNow; apply writes_withS; intro s; exact writes_report _ hc h

/-- An event of the error window changes fields of its page and of the error log's pages alone. -/
theorem writes_errWindow {p : Nat} (hp : p ∈ ps) (h : ∀ p ∈ logPages, p ∈ ps) (k init tkt off data : Nat) (w : Bool) :
    Writes fs ps (errWindow p k init tkt off data w) := by
  have hk : ∀ g : Fld, g.key / 0x400000 = p → g ∈ fs ∨ g.key / 0x400000 ∈ ps := fun g e => .inr (by rw [e]; exact hp)
  unfold errWindow
  apply writes_withS; intro s; dsimp only
  refine writes_seq_cons (writes_whenS ?_) (writes_seq_cons (writes_countF (hk _ ?_)) (writes_seq_cons (writes_reportNow (by decide) h _ _ _ _ _ _ _ _ _) writes_seq_nil))
  · have hs : ∀ g v, g = ERRW_VALID p ∨ g = ERRW_WRITE p ∨ g = ERRW_KIND p ∨ g = ERRW_INIT p ∨ g = ERRW_TICKET p ∨ g = ERRW_OFFSET p
        ∨ g = ERRW_DATA p → Writes fs ps (setF g v) := by
      intro g v hg
      apply writes_setF; apply hk
      rcases hg with e | e | e | e | e | e | e <;> subst e <;>
        simp only [Fld.key, ERRW_VALID, ERRW_WRITE, ERRW_KIND, ERRW_INIT, ERRW_TICKET, ERRW_OFFSET, ERRW_DATA] <;> omega
    have hi : Writes fs ps (raiseInt p 31) := writes_raiseInt (hk _ (by simp only [Fld.key, INT_STAT]; omega))
    exact writes_seq_cons (writes_of_regs fun _ => rfl) (writes_seq_cons (writes_whenS hi) (writes_seq_cons (hs _ _ (by simp)) (writes_seq_cons (hs _ _ (by simp))
      (writes_seq_cons (hs _ _ (by simp)) (writes_seq_cons (hs _ _ (by simp)) (writes_seq_cons (hs _ _ (by simp)) (writes_seq_cons (hs _ _ (by simp))
        (writes_seq_cons (hs _ _ (by simp)) writes_seq_nil))))))))
  · simp only [Fld.key, ERRW_CNT]; omega

/-- What a register map gives for a field. -/
def rget (m : SMap Nat) (f : Fld) : Nat := (mget m f.key).getD f.reset

theorem get_eq_rget (f : Fld) : s.get f = rget s.regs f := rfl
theorem rget_put_same (m : SMap Nat) (f : Fld) (v : Nat) : rget (putFld m f v) f = v % 2 ^ f.width := get_put_same State.reset m f v
theorem rget_put_other (m : SMap Nat) {f g : Fld} (v : Nat) (h : f.key ≠ g.key) : rget (putFld m g v) f = rget m f :=
  get_put_other State.reset m v h

/-- A field after one write. -/
theorem get_put (f g : Fld) (v : Nat) (h : f ≠ g → f.key ≠ g.key) :
    ({ s with regs := putFld s.regs g v } : State).get f = if f = g then v % 2 ^ g.width else s.get f := by
  split
  · rename_i e; subst e; exact get_put_same s s.regs _ v
  · exact get_put_other s s.regs v (h ‹_›)

end Sys2Proof.Machine
end

