-- ==== Sys2Proof/Tests/Base.lean ====
section
/-! SUPPORT. Small states for the tests: a part that has booted, with registers, bytes of storage, jobs and plans put in. -/

-- One theorem at a time: checked side by side, these need more threads, each with a stack of its own, than the check's memory allows.
set_option Elab.async false

namespace Sys2Proof.Tests

open Sys2Proof Sys2Proof.Machine

/-- A part after boot: rails good, no die in reset, no doubt, no plan. -/
def live : State :=
  { State.reset with doubt := ⟨0, 0, 0, 0⟩, pw := { State.reset.pw with good := [0, 1, 2, 3, 4, 5], enables := [0, 1, 2, 3, 4, 5] }, boot := { State.reset.boot with step := 0, kind := 0, resetRunning := 0 } }

/-- `s` with register fields set. -/
def withRegs (s : State) (fs : List (Fld × Nat)) : State := { s with regs := fs.foldl (fun m f => putFld m f.1 f.2) s.regs }

/-- A live part with register fields set. -/
def liveWith (fs : List (Fld × Nat)) : State := withRegs live fs

/-- `s` with bytes at an address. -/
def withBytes (s : State) (a : Nat) (bs : List Byte) : State := { s with mem := s.mem.write a bs }

/-- A window that lets every initiator and ticket make every access. -/
def anyone : Win := ⟨2 ^ 63 + 15, 0xFFFFFFFFF * 4096, 0, 2 ^ 64 - 1⟩

/-- `s` with that window in force. -/
def open_ (s : State) : State := { s with fw := ⟨[(256, anyone)], [(256, anyone)]⟩ }

/-- A descriptor from its eight words. -/
def descOf (ws : List Nat) : List Byte := ws.flatMap (leBytes 8)

/-- A job that runs the descriptor, from queue 0, as OPEN work. -/
def jobFor (ws : List Nat) : Job := ⟨0, 0, 0, none, descOf ws, 8, true, none, 0, true, none, [], none, false, 0, 0, 0, [], [], []⟩

/-- `s` with a job running on unit `u`. -/
def running (s : State) (u : Nat) (j : Job) : State := { s with rm := { s.rm with units := mset s.rm.units u ⟨some j, none, [], false, false⟩ } }

/-- A queue enabled for unit `u`, of class `cls` and mode `mode`. -/
def queueFor (u cls mode : Nat) : Queue := { Queue.reset with enable := true, cls := cls, mode := mode, unit := u, ticket := 8, owner := 0x080, ringLog2 := 4, compLog2 := 4, ringBase := 0x1000, compBase := 0x8000 }

/-- `s` with queue `q`. -/
def withQueue (s : State) (q : Nat) (x : Queue) : State := { s with rm := { s.rm with queues := mset s.rm.queues q x } }

/-- A plan of one slot or none. -/
def planWith (ps : List Slot) : PlanImg := ⟨7, ps, [], [], 0, 0, 0⟩

/-- `s` with a plan in force and its frame grid running from cycle 0. -/
def planned (s : State) (ps : List Slot) : State :=
  { s with plan := { s.plan with inForce := some (planWith ps) }, grid := { s.grid with running := true } }

/-- The state a command answers. -/
def after (c : Instr) (s : State) : State := match exec c s with
  | .next t => t
  | _ => State.reset

/-- Whether a command answers a next state; then it is `after c s`. -/
def answers (c : Instr) (s : State) : Bool := match exec c s with
  | .next _ => true
  | _ => false

theorem answers_next {c : Instr} {s : State} (h : answers c s = true) : exec c s = .next (after c s) := by
  simp only [answers] at h
  split at h <;> simp_all [after]

/-- An ECC outcome without errors. -/
def clean : Ecc := ⟨[], []⟩

end Sys2Proof.Tests
end

