-- ==== Sys2Proof/Tests/Slice0.lean ====
section
/-! SUPPORT. Smoke tests of WellFormed, and the manual's worked examples. -/

-- One theorem at a time: checked side by side, these need more threads, each with a stack of its own, than the check's memory allows.
set_option Elab.async false

namespace Sys2Proof.Tests

open Sys2Proof Sys2Proof.Machine

/-! ### Ill-formed commands, one for each check -/

/-- An arrival, an announce, a secret and an ECC outcome do not matter to the checks; these stand for them. -/
def noArrival : Arrival := ⟨[], 0, 0, false⟩

/-- Initiators, tickets, dies, engines, units and registers out of range. -/
def badUnits : List Instr :=
  [.registerWrite 0x06D 0 0xF000000008 8 0, .registerWrite 0x090 64 0xF000000008 8 0, .registerWrite 0x090 0 0xF000000008 0 0,
    .registerWrite 0x090 0 0xF000000008 9 0, .registerWrite 0x090 0 0xF000000008 8 (2 ^ 64), .registerWrite 0x090 0 0xEFFFFFFFF8 8 0,
    .registerWrite 0x090 0 0xF001000000 8 0, .registerWrite 0x090 0 0xF000FFFFFC 8 0, .resetWarm 0x200 0, .resetDie 0x090 0 4, .resetEng 0x090 0 36,
    .pwrgdAssert 6, .pwrgdLoss 6, .doorbellWrite 0x090 65536 0, .doorbellWrite 0x090 0 (2 ^ 64), .queueEnable 0x200 0, .queueDisable 0x090 64,
    .descriptorTake 65536 0 clean, .descriptorTake 0 109 clean, .creditWaitStart 4 0, .creditWaitStart 0 256, .jobComplete 109 0 0 0 clean,
    .openDispatch 109 clean, .preemptRequest 109, .copySwitchDone 109, .jobStopAtTile 109, .preemptRelease 109 0]

/-- Operations on a unit of another kind. -/
def badOperations : List Instr :=
  [.linear 39 clean, .strided 104 clean, .gather 39 clean, .scatter 104 clean, .fill 0 clean, .matmul 36 clean, .conv 36 clean, .eltwise 36 clean,
    .reduce 36 clean, .golden 36 [], .goldenCompare 36 0 none, .goldenCompare 0 20 none, .teSigTest 0x090 0 36, .append 40 clean, .attn 35 ⟨clean, []⟩,
    .attnBwd 40 ⟨clean, []⟩, .kvGold 35 [], .ctxWrite 40 clean, .ctxRead 40 clean, .ctxAdvance 40 clean, .ctxTruncate 40 clean, .ctxPin 40 clean,
    .ctxUnpin 40 clean, .ctxRelease 40 clean, .ctxSummary 40 clean, .kvCheckCompare 4 0 none, .kvCheckCompare 0 20 none, .kvSigTest 0x090 0 4,
    .fuse 106 clean, .mapCells 107 clean, .mapFuse 107 clean, .plan 107 clean, .emit 107 clean, .mapCommit 107, .solve 105 [] false clean, .cmd 105 clean,
    .feed 107 [] clean, .decodeBudgetOverrun 107 clean]

/-- Groups, plans, requests, rates, links and rows out of range. -/
def badFabric : List Instr :=
  [.sgJoin 0x090 16 0 0, .sgSetq 0x090 0 (2 ^ 18) 0, .sgJoin 0x090 0 0 (2 ^ 20), .sgLeave 0x090 16 0, .sgStep 0x090 65536, .sgPublish 16 clean, .sgDisable 0x090 0 16,
    .stage 0x200 0, .activate 0x090 64, .stop 0x200 0, .discard 0x090 64, .fabricRequest 0x090 0 ⟨4, 0⟩ 0 1 [] clean, .fabricRequest 0x090 0 ⟨0, 0⟩ (2 ^ 48) 1 [] clean,
    .fabricRequest 0x090 0 ⟨0, 4096⟩ 0 64 [] clean, .fabricRequest 0 0 ⟨0, 0⟩ 0 32 [] clean, .fabricRequest 0x028 0 ⟨0, 0⟩ 0 32 [] clean,
    .fabricRequest 0x090 0 ⟨0, 0⟩ 0 0 [] clean, .fabricRequest 0x090 0 ⟨0, 0⟩ 0 257 [] clean, .turnstileAdmit 8 [],
    .turnstileAdmit 0 [⟨64, 1⟩], .turnstileAdmit 0 [⟨0, 0⟩], .turnstileAdmit 0 [⟨0, 257⟩], .latencyMiss 33 0, .fwWindowWrite 0x090 0 512 0 0,
    .fwWindowWrite 0x090 0 0 4 0, .fwTsRateWrite 0x090 0 5 0 0 0, .fwTsRateWrite 0x090 0 0 5 0 0, .fwTsRateWrite 0x090 0 0 0 64 0, .hartTicketWrite 16 0,
    .yeliloRequest 32 0 ⟨0, 0⟩ 0 1 [] clean, .yeliloRequest 0 0 ⟨0, 0⟩ (2 ^ 40) 1 [] clean, .linkReplay 4 0, .linkDown 0 4, .refresh 4, .patrolScrub 0 3, .rowMoveSwitch 4]

/-- Time, sensors, Tightrope, the island, power and the rest. -/
def badTimeAndIsland : List Instr :=
  [.timeLoad 0x090 0 (2 ^ 64), .timeSecRead 0x200, .ptpSync 6 ⟨0, 0, 0, 0⟩ 0, .ptpSync 0 ⟨256, 0, 0, 0⟩ 0, .ptpDelayMessage 0 ⟨8, 0⟩ 0 0 0 0, .ptpSyncInterval ⟨6, 0⟩, .holdoverTimeout 2, .tcapEdge 8 0,
    .tcapEdge 0 2, .capTsRead 0x090 8, .tpulseEdge 8, .pulseCfgWrite 0x090 8 0 0, .pulseCfgWrite 0x090 0 3 0, .csi2Frame 64 noArrival, .ethernetSample 64 noArrival,
    .spiDrdy 64 noArrival, .i3cSample 64 noArrival, .canFrame 64 noArrival, .derivedRecord 64 noArrival, .cycleClose 16, .fuStreamEnable 0x090 0 64,
    .reinstate 0x090 64, .calCommit 0x090 64, .groupDisable 0x090 16, .mapClear 0x200, .fbFrame 4 [], .axisFrameOther 4 [], .discRsp 4 [], .identRsp 4 [],
    .axisUpdate 4 [], .axisUpdate 0 [128], .ringRun 0x090 0 4, .enum 0x090 0 4, .read 0x090 0 0 64 0, .read 0x090 0 0 0 128, .config 0x090 0 128 0 0 clean,
    .tabDataAccess 0x090 true (2 ^ 32), .faultClear 0x090 128, .doubtWireAssert [(15, 0)], .doubtWireAssert [(0, 6)], .doubtRequest 0x200, .netArm 0x200,
    .hostKick 0x200, .reintRequest 0x200, .lockstepMismatch 2, .watchdogExpiry 3, .carouselStepDone 102 true, .logTailWrite 0x090 0 (2 ^ 32), .currentWindow [],
    .gainUpdate [] [], .powerWindow ⟨List.replicate 6 ⟨[], []⟩, 0⟩, .powerWindow ⟨[⟨[⟨1024, 1, false⟩], []⟩], 0⟩, .voteReceived 4 [], .voteReceived 0 [(32, 1, 0)], .voteReceived 0 [(0, 17, 0)],
    .tempSample [] [], .stateReqA0 0x200 0, .stateReqP1 0x090 64, .stateReqP2 0x200 0, .stateReqP3 0x200 0, .wakeEvent 3 0, .wakeEvent 0 8, .unlockPw (2 ^ 128),
    .intForceWrite 0x090 0 0x1F 0, .intRouteWrite 0x090 0 0 (2 ^ 64), .yeliloEnable 0x090 4, .yeliloCodewordFail 4, .yeliloLossOfLock 4, .yeliloLinkUp 4 0 0,
    .yeliloReplayRequest 4 0, .portLinkChange 4 true]

theorem test_bad_units_refused : badUnits.any Instr.wellFormed = false := by decide +kernel
theorem test_bad_operations_refused : badOperations.any Instr.wellFormed = false := by decide +kernel
theorem test_bad_fabric_refused : badFabric.any Instr.wellFormed = false := by decide +kernel
theorem test_bad_time_and_island_refused : badTimeAndIsland.any Instr.wellFormed = false := by decide +kernel

/-- An ill-formed command names nothing of this part: it changes nothing. -/
theorem test_ill_formed_does_nothing : exec (.refresh 4) live = .next live := rfl

/-! ### Addresses and pages (02, 18) -/

/-- The alias address 0x40_0000_5A10 is byte 0x1210 of S3 (the example after R47). -/
theorem test_alias_address : phys live 0x4000005A10 = 0x1B00001210 := by decide +kernel

/-- Engine 12's page is 0x29; its ID and VERSION (the example after R668). -/
theorem test_engine_page : pageAddr (pageTE 12) 0 = 0xF000290000 ∧ regValue live 41 0 = 0x54450C01 ∧ regValue live 41 4 = 0x010000B0 := by decide +kernel

/-! ### Number formats (03) -/

/-- bell4 0xC × 0x6 is −5,320 × 2⁻¹⁴, and −0.5 is written as 0xC (the examples of R103 and R104). −0 takes sign 0. -/
theorem test_bell4 : bellSigned 15 0xC * bellSigned 15 0x6 = -5320 ∧ (convBell 15 none (f32Val 0xBF000000)).code = 0xC
    ∧ (convBell 15 none (f32Val 0x80000000)).code = 0 := by decide +kernel

/-- The MXFP4 block of the example after R108: scale 0x7F, codes 0x6, 0x9, 0x5. -/
theorem test_mxfp4 : (let b := mxEncode 10 (fun _ => none) ([0x40A00000, 0xBF333333, 0x40266666].map f32Val ++ List.replicate 29 (valInt 0))
    leBytes 1 b.scale ++ (packBits 4 b.codes).take 3) = [0x7F#8, 0x96#8, 0x05#8, 0#8] := by decide +kernel

/-- 0x3E99999A to E4M3 under RNE, and on both sides of r = 39,321 (the example after R115). -/
theorem test_e4m3_rounding : (convert 3 none (f32Val 0x3E99999A)).code = 0x2A ∧ (convert 3 (some 39320) (f32Val 0x3E99999A)).code = 0x2A
    ∧ (convert 3 (some 39321) (f32Val 0x3E99999A)).code = 0x29 := by decide +kernel

/-- 1.5 in Q32 with 20 fractional bits (the example after R111). -/
theorem test_q32 : toFix 32 20 0x3FC00000 = (0x180000, false) := by decide +kernel

/-- The INT8 row scale of p = 5.625 is 0x29AC (the example of chapter 5). -/
theorem test_row_scale : (rowScale 13 0x40B40000).1 = 0x29AC := by decide +kernel

/-! ### Time (09) -/

/-- adj of +12.5 ppm gives INC 3,904,564,530 (the example after R368). -/
theorem test_inc : incOf 819200000 = 3904564530 := by decide +kernel

/-! ### Midway (11) -/

/-- A register file with RES 0.05 m and MARGIN 0.02 m. -/
def midwayRes : State := liveWith [(MW_MAP_RES_RES, 0x3D4CCCCD), (MW_MARGIN_MARGIN, 0x3CA3D70A)]

/-- A sphere of 0.08 m passes against codes 16 and 15 and fails against 14 (the example after R434). -/
theorem test_sphere_codes : [16, 15, 14].map (fun c => fle (fadd 0x3DA3D70A (midwayRes.get MW_MARGIN_MARGIN)) (clearance midwayRes (BitVec.ofNat 8 c))) = [true, true, false] := by
  decide +kernel

/-! ### Tightrope (13) -/

/-- Ring 0 of the example after R525: 32 modules at 8 kHz. -/
def ringOf32 : State :=
  let s := liveWith ([(TT_TIMING_FB_DL, 36300), (TT_TIMING_CALC_OFS, 60500), (TT_RING_STAT_NODES 0, 32)]
    ++ (List.range 32).flatMap fun a => [(TT_AXIS_CFG_EN a, 1), (TT_AXIS_CFG_NODE a, a), (TT_AXIS_ST_STATE a, 1)])
  { s with tt := { s.tt with axes := (List.range 32).map fun a => (a, { AxisSt.reset with ns := (4000, 600, 1500) }) } }

/-- The feedback bound is 35,236, the last term 25,891, and the budget holds. -/
theorem test_ring_budget : ceilDiv (11 * (4000 + 32 * (600 + 276))) 10 = 35236 ∧ travel ringOf32 0 32 = 25891 ∧ ringBudget ringOf32 0 = true := by decide +kernel

/-- One cycle less than the feedback bound does not pass. -/
theorem test_ring_budget_edge : ringBudget (withRegs ringOf32 [(TT_TIMING_FB_DL, 35236)]) 0 = true
    ∧ ringBudget (withRegs ringOf32 [(TT_TIMING_FB_DL, 35235)]) 0 = false := by decide +kernel

/-! ### The record pipeline (15) -/

/-- D_OFF, M_OFF and RB of the example: E 2,048, S 8, ELEM_LOG2 2. -/
theorem test_feed_offsets : feedOffsets (descOf [0, 0, 0, 0, 0, 8 * 2 ^ 24 + 2 * 2 ^ 20 + 2048, 0, 0]) = (192, 8384, 12480) := by decide +kernel

/-- The decode budget of the example, 1,800,000 cycles. -/
theorem test_feed_budget : budget (liveWith [(RP_BUDGET_BUDGET_X, 100), (RP_BUDGET_BUDGET_MIN, 220000), (RP_BUDGET_A_INIT, 18000)]) (feedRun live (jobFor [])) = 1800000 := by
  decide +kernel

/-! ### Power (16) -/

/-- The allocation and the duty of the example after R613. -/
theorem test_allocation : learnedAlloc 592 480 220 32 80 60 16 = (383, 181, 28) ∧ allocDuty 96 40 60 12 = 11 := by decide +kernel

/-! ### Interrupts (18) -/

/-- The fusion unit's page routes LATE to hart 3 as identity 42 (Table 18-8). -/
def lateRouted : State := liveWith [(INT_EN pageFU, 4), (INT_ROUTE_DEST pageFU, 1), (INT_ROUTE_LEVEL pageFU, 1), (INT_ROUTE_HART pageFU, 3), (INT_ROUTE_IDENT pageFU, 42)]

/-- INT_FORCE of LATE makes identity 42 pending in hart 3's supervisor-level file; a second one while it stands sends nothing more. -/
theorem test_late_message : (let t := after (.intForceWrite 0x090 63 pageFU 4) lateRouted
    let v := after (.intForceWrite 0x090 63 pageFU 4) t
    (bit (t.get (INT_STAT pageFU)) 2, t.bus.files == v.bus.files, t.bus.files == lateRouted.bus.files)) = (true, true, false) := by decide +kernel

/-! ### The guarantee monitor (08) -/

/-- Demand 300,000 B with 299,776 B admitted is no miss at 40 GB/s; 32 B less is one (the example after R343). -/
def monitored (admitted : Nat) : State :=
  let s := liveWith [(FW_TS_RATE_RATE (portPage 28).1 (64 * (portPage 28).2 + 3), 400)]
  { s with ts := { s.ts with entries := [(64 * 28 + 3, ⟨0, 0, 300000, admitted, false, []⟩)] }, grid := { s.grid with now := 11000 } }

theorem test_guarantee : (let p := portPage 28
    [299776, 299743].map fun n => bit ((after .budgetWindow (monitored n)).get (FW_GM_MISS_TKT p.1 p.2)) 3) = [false, true] := by decide +kernel

/-! ### The log and the carousel (14) -/

/-- A full queue counts what it cannot take: the 65th report of class 0 from die 2 in EL_MISSED[2][0] (the example after R572). -/
theorem test_queue_takes_64 : (let s := { live with log := ⟨[[], [], List.replicate 64 ⟨0, 0, 2, false, false, 0, 0, 0, 0, 0, 0, 0⟩, [], []], 0, [], [], [], []⟩ }
    let t := s.act (reportNow 0 2 0x100 16 0xFF 0xFFF 0 false none 0)
    ((t.log.queues.getD 2 []).length, t.get (EL_MISSED_COUNT (16 * 2)))) = (64, 1) := by decide +kernel

end Sys2Proof.Tests
end

