-- ==== Sys2Proof/Tests/Witness1.lean ====
section
/-! SUPPORT. Concrete states and operands that meet the hypotheses of the statements about steps, time, links, turnstiles, firewalls,
Yelilo and interrupts. -/

-- One theorem at a time: checked side by side, these need more threads, each with a stack of its own, than the check's memory allows.
set_option Elab.async false

namespace Sys2Proof.Tests

open Sys2Proof Sys2Proof.Machine

theorem witness_StepRunsFrontCommand : State.reset.pending = [] := by decide +kernel

theorem witness_EveryStepKeepsCanonicalForm : mwf State.reset.regs ∧ State.reset.mem.wf
    ∧ answers (.gridCycle 1) State.reset = true := by decide +kernel

theorem witness_DoubtBitsLeaveOnlyThreeWays : State.reset.doubt.bits ≠ 0 ∧ bit State.reset.doubt.bits 13 = true
    ∧ Instr.referenceLost true ≠ .axisGridPoint ∧ Instr.referenceLost true ≠ .islandWatchdogExpiry
    ∧ answers (.referenceLost true) State.reset = true := by decide +kernel

theorem witness_TrustedStateHasFewWriters : Instr.gridCycle 3 ≠ .fwWindowSync ∧ Instr.gridCycle 3 ≠ .pllLock ∧ Instr.gridCycle 3 ≠ .wrstN ∧ Instr.gridCycle 3 ≠ .stateDone BootEnv.empty
    ∧ answers (.gridCycle 3) State.reset = true := by decide +kernel

theorem witness_EveryCommandAnswersANextState : Instr.wellFormed (.portLinkChange 3 true) = true
    ∧ Instr.wellFormed (.portLinkChange 4 true) = false := by decide

theorem witness_GridCycleAdvancesTime : (State.reset.boot.step = 1) ∧ live.boot.step ≠ 1 ∧ live.bus.lines = []
    ∧ mget ({ live with ts := { live.ts with entries := [(64 * 32 + 63, ⟨5, 0, 0, 0, false, []⟩)] } } : State).ts.entries (64 * 32 + 63)
      = some ⟨5, 0, 0, 0, false, []⟩ := by decide +kernel

theorem witness_TimeLoadsAndReads : Instr.wellFormed (.timeLoad 0x090 63 (2 ^ 64 - 1)) = true ∧ Reaches live 0x090 63 1 (pageAddr pageTM 0x108) 8
    ∧ live.planOn = false ∧ Reaches (planned live []) 0x090 63 1 (pageAddr pageTM 0x108) 8 ∧ (planned live []).planOn = true
    ∧ Reaches live 0x090 (ticketOf live 0x090) 0 (pageAddr pageTM 0x100) 8 := by unfold Reaches; decide +kernel

/-- Pulse output 7 in a mode, with a period, at cycle 2 and device time 6 ns. -/
def pulsing (mode period : Nat) (p : Pulse) : State :=
  let s := liveWith [(TM_PULSE_CFG_MODE 7, mode), (TM_PULSE_PERIOD_PERIOD_NS 7, period)]
  { s with grid := { s.grid with now := 2 }, time := { s.time with ns := 6, pulses := [(7, p)] } }

/-- The pulse is over. -/
def isOver (s : State) (p : Pulse) : Bool :=
  if s.get (TM_PULSE_CFG_HIGH_NS 7) = 0 then p.riseCycle < s.grid.now else p.riseAt + s.get (TM_PULSE_CFG_HIGH_NS 7) ≤ s.timestamp

theorem witness_PulsesRiseAndFall : Instr.wellFormed (.pulseCfgWrite 0x090 7 2 (2 ^ 64 - 1)) = true ∧ live.get (TM_PULSE_CFG_MODE 7) = 0
    ∧ ((pulsing 1 0 ⟨true, true, 6, 2, 0, none, 0⟩).get (TM_PULSE_CFG_MODE 7) = 1 ∧ (pulse (pulsing 1 0 ⟨true, true, 6, 2, 0, none, 0⟩) 7).level = true
      ∧ isOver (pulsing 1 0 ⟨true, true, 6, 2, 0, none, 0⟩) ⟨true, true, 6, 2, 0, none, 0⟩ = false
      ∧ isOver (pulsing 1 0 ⟨true, true, 3, 1, 0, none, 0⟩) ⟨true, true, 3, 1, 0, none, 0⟩ = true)
    ∧ ((pulsing 2 0 ⟨false, false, 0, 0, 0, none, 1⟩).get (TM_PULSE_CFG_MODE 7) = 2 ∧ (pulsing 2 0 ⟨false, false, 0, 0, 0, none, 1⟩).get (TM_PULSE_PERIOD_PERIOD_NS 7) = 0
      ∧ (pulse (pulsing 2 0 ⟨false, false, 0, 0, 0, none, 1⟩) 7).setAt < (pulsing 2 0 ⟨false, false, 0, 0, 0, none, 1⟩).grid.now
      ∧ (pulsing 2 0 ⟨false, false, 0, 0, 0, none, 1⟩).get (TM_PULSE_START_START 7) ≤ (pulsing 2 0 ⟨false, false, 0, 0, 0, none, 1⟩).timestamp)
    ∧ ((pulsing 2 5 ⟨false, true, 0, 0, 6, none, 0⟩).get (TM_PULSE_PERIOD_PERIOD_NS 7) = 5
      ∧ (pulse (pulsing 2 5 ⟨false, true, 0, 0, 6, none, 0⟩) 7).next ≤ (pulsing 2 5 ⟨false, true, 0, 0, 6, none, 0⟩).timestamp
      ∧ ¬(pulse (pulsing 2 5 ⟨false, true, 0, 0, 7, none, 0⟩) 7).next ≤ (pulsing 2 5 ⟨false, true, 0, 0, 7, none, 0⟩).timestamp)
    ∧ ((pulsing 3 0 ⟨false, false, 0, 0, 0, none, 0⟩).get (TM_PULSE_CFG_MODE 7) = 3
      ∧ gridBoundary { pulsing 3 0 ⟨false, false, 0, 0, 0, none, 0⟩ with grid := { live.grid with running := true, now := 2 } } 7 = true)
    ∧ Reaches live 0x090 (ticketOf live 0x090) 1 (pageAddr pageTM (0x400 + 32 * 7 + 8 * 2)) 4
    ∧ Reaches live 0x090 (ticketOf live 0x090) 1 (pageAddr pageTM (0x400 + 32 * 7 + 8 * 2)) 8
    ∧ Reaches live 0x090 (ticketOf live 0x090) 1 (pageAddr pageTM (0x400 + 32 * 7 + 8 * 0)) 8
    ∧ Reaches live 0x090 (ticketOf live 0x090) 1 (pageAddr pageTM (0x400 + 32 * 7 + 8 * 1)) 8 := by unfold Reaches; decide +kernel

/-- Capture input 7 with both edges on, `n` timestamps held, the last edge at cycle `e`, now cycle 8. -/
def capturing (n : Nat) (e : Option Nat) : State :=
  let s := liveWith [(TM_CAP_CFG_EDGE 7, 3)]
  { s with grid := { s.grid with now := 8 }, time := { s.time with lastEdge := e.toList.map fun c => (7, c), fifo := [(7, List.replicate n 1)] } }

theorem witness_CapturesKeepEdgesInOrder : Instr.wellFormed (.tcapEdge 7 1) = true ∧ bit (live.get (TM_CAP_CFG_EDGE 7)) 1 = false
    ∧ bit ((capturing 15 none).get (TM_CAP_CFG_EDGE 7)) 1 = true
    ∧ (mget (capturing 0 (some 1)).time.lastEdge 7 = some 1 ∧ (capturing 0 (some 1)).grid.now < 1 + 8)
    ∧ (mget (capturing 15 (some 0)).time.lastEdge 7 = some 0 ∧ 0 + 8 ≤ (capturing 15 (some 0)).grid.now ∧ ((mget (capturing 15 (some 0)).time.fifo 7).getD []).length < 16)
    ∧ 16 ≤ ((mget (capturing 16 none).time.fifo 7).getD []).length
    ∧ Reaches live 0x090 (ticketOf live 0x090) 0 (pageAddr pageTM (0x308 + 16 * 7)) 8 ∧ mget (capturing 1 none).time.fifo 7 = some [1]
    ∧ (mget live.time.fifo 7).getD [] = [] := by unfold Reaches; decide +kernel

/-- PTP on, servo and steps on, with a step threshold of 100; port 5 receives time. -/
def ptpOn (more : List (Fld × Nat)) : State :=
  let s := liveWith ([(TM_CTRL_PTP_EN, 1), (TM_CTRL_SERVO_EN, 1), (TM_CTRL_STEP_EN, 1), (TM_SERVO_STEP_THR, 100), (TM_HOLD_HOLD_SYNCS, 2)] ++ more)
  { s with time := { s.time with rxPort := some 5 } }

theorem witness_ServoAndHoldover_sync : Instr.wellFormed (.ptpSync 5 ⟨0, 100, 0, 0⟩ 0) = true ∧ ¬(takesDomain live 0 = true ∧ live.time.rxPort = some 5)
    ∧ (takesDomain (ptpOn []) 0 = true ∧ (ptpOn []).time.rxPort = some 5 ∧ (ptpOn []).is TM_STATUS_HOLDOVER = false ∧ (ptpOn []).is TM_CTRL_SERVO_EN = true
      ∧ wrap64 (100 - toSigned 32 ((ptpOn []).get (TM_PORT_LAT_LAT_IN 5)) - 0 - 0 - toSigned 32 ((ptpOn []).get (TM_PORT_ASYM_ASYM 5)) - (mget (ptpOn []).time.pathDelay 5).getD 0) = 100
      ∧ (100 : Int).natAbs ≤ (ptpOn []).get TM_SERVO_STEP_THR ∧ (ptpOn []).planOn = false ∧ (ptpOn []).is TM_CTRL_STEP_EN = true
      ∧ (ptpOn []).get TM_SERVO_STEP_THR < (-101 : Int).natAbs)
    ∧ ((ptpOn [(TM_STATUS_HOLDOVER, 1)]).is TM_STATUS_HOLDOVER = true ∧ 1 ≠ (ptpOn [(TM_STATUS_HOLDOVER, 1)]).time.bestGm
      ∧ 0 = (ptpOn [(TM_STATUS_HOLDOVER, 1)]).time.bestGm
      ∧ (ptpOn [(TM_STATUS_HOLDOVER, 1)]).time.syncs + 1 < max 1 ((ptpOn [(TM_STATUS_HOLDOVER, 1)]).get TM_HOLD_HOLD_SYNCS)
      ∧ max 1 ((ptpOn [(TM_STATUS_HOLDOVER, 1), (TM_HOLD_HOLD_SYNCS, 1)]).get TM_HOLD_HOLD_SYNCS) ≤ (ptpOn [(TM_STATUS_HOLDOVER, 1)]).time.syncs + 1
      ∧ 0 ≠ (ptpOn [(TM_GM_ID_ID, 9)]).get TM_GM_ID_ID) := by
  decide +kernel

theorem witness_ServoAndHoldover_entries : Instr.wellFormed (.ptpAnnounce 5 ⟨0, 1⟩ 0) = true ∧ live.is TM_CTRL_PTP_EN = false
    ∧ takesDomain live 0 = false ∧ takesDomain (ptpOn []) 0 = true
    ∧ (ptpOn [(TM_STATUS_HOLDOVER, 1)]).is TM_STATUS_HOLDOVER = true
    ∧ (ptpOn []).is TM_CTRL_PTP_EN = true ∧ (ptpOn []).is TM_STATUS_HOLDOVER = false ∧ 0 = (ptpOn []).get TM_GM_ID_ID ∧ 1 ≠ (ptpOn []).get TM_GM_ID_ID
    ∧ live.doubt.bits = 0 := by decide +kernel

theorem witness_PtpPortsMeasureAndSend : ¬(takesDomain live 0 = true)
    ∧ (takesDomain (ptpOn [(TM_CTRL_PROFILE, 1)]) 0 = true ∧ (ptpOn [(TM_CTRL_PROFILE, 1)]).is TM_CTRL_PROFILE = true)
    ∧ gatePasses (ptpOn []) 2 6 84 = true ∧ gatePasses (ptpOn [(TT_GCL_GATES 32, 0)]) 2 6 84 = false
    ∧ ((ptpOn []).is TM_CTRL_PTP_EN = true ∧ (ptpOn []).time.rxPort ≠ some 4 ∧ ¬(ptpOn []).time.rxPort ≠ some 5) := by decide +kernel

theorem witness_LinksReplayAndGoDown : (liveWith [(BT_LINK_STAT_DOWN 3 2, 1)]).is (BT_LINK_STAT_DOWN 3 2) = true ∧ live.is (BT_LINK_STAT_DOWN 3 2) = false
    ∧ farEnd 3 2 = some (2, 2) ∧ mget ({ live with wear := { live.wear with linkReplays := [(10, (0, 32))] } } : State).wear.linkReplays (min (4 * 3 + 2) (4 * 2 + 2)) = some (live.grid.now / 11000, 32) := by
  decide +kernel

/-- Stack 3 is scrubbed; one move of page 9, pseudo-channel 31 runs. -/
def scrubbing (ms : List RowMove) : State :=
  let s := liveWith [(BT_HBM_CTRL_SCRUB_EN 3, 1), (BT_HBM_CTRL_ROW_THR 3, 1)]
  { s with wear := { s.wear with moves := [(3, ms)] } }

theorem witness_ScrubMovesAndHealthRecord_rows : region 0x1B00000000 = .stack 3 0 ∧ scrubbed (scrubbing []) 0x1B00000000 = true
    ∧ (scrubbing []).get (BT_HBM_HEALTH_REMAP_USED 3) + ((mget (scrubbing []).wear.moves 3).getD []).length < remapEntries
    ∧ max 1 ((scrubbing []).get (BT_HBM_CTRL_ROW_THR 3)) ≤ 1 ∧ mget (scrubbing []).wear.rowErrors (3 * 2 ^ 40) = none
    ∧ 3 * 0x900000000 ∉ lostBlocks (scrubbing []) 3 ∧ (lostBlocks (scrubbing []) 3).length < 256
    ∧ mget (scrubbing [⟨9, 31, 0⟩]).wear.moves 3 = some [⟨9, 31, 0⟩] ∧ scrubbed (scrubbing [⟨9, 31, 0⟩]) 0x1B00000000 = true := by decide +kernel

/-- The island has a change of engine 35 to record. -/
def changed : State := { liveWith [(EL_NET_STAT_PAIR_OK, 3)] with wear := { live.wear with unrecorded := [.fenced 0xE400000000, .engine 35 3] } }

theorem witness_ScrubMovesAndHealthRecord_record : live.wear.unrecorded = [] ∧ changed.wear.unrecorded ≠ [] ∧ bit (changed.get EL_NET_STAT_PAIR_OK) 1 = true
    ∧ changed.wear.unrecorded = [.fenced 0xE400000000] ++ .engine 35 3 :: [] ∧ bit ((liveWith [(EL_NET_STAT_PAIR_OK, 1)]).get EL_NET_STAT_PAIR_OK) 1 = false := by
  decide +kernel

/-- Port 32 with a rate for ticket 7, its bucket full enough for one request of 256 bytes that waits since cycle 0. -/
def guarded (level now : Nat) (cov : Option Nat) : State :=
  let s := liveWith [(FW_TS_RATE_RATE 4 (64 * 4 + 7), 10), (FW_TS_RATE_BURST 4 (64 * 4 + 7), 256)]
  { s with grid := { s.grid with now := now }, ts := { s.ts with entries := [(64 * 32 + 7, ⟨level, 0, 0, 0, false, [⟨0, 256, cov, false⟩]⟩)] } }

theorem witness_TurnstilesAdmitAndReportMisses : Instr.wellFormed (.turnstileAdmit 32 [⟨7, 256⟩]) = true
    ∧ classA ((guarded 2816 0 none).act (seq [forA [] (arrive 32), updTs (fun x => { x with arrivals := x.arrivals + 1 }), markHeld 32])) 32 = some 7
    ∧ (classA ((guarded 2815 0 none).act (seq [forA [] (arrive 32), updTs (fun x => { x with arrivals := x.arrivals + 1 }), markHeld 32])) 32 = none
      ∧ classB ((guarded 2815 0 none).act (seq [forA [] (arrive 32), updTs (fun x => { x with arrivals := x.arrivals + 1 }), markHeld 32])) 32 = some 7)
    ∧ (classA (live.act (seq [forA [] (arrive 32), updTs (fun x => { x with arrivals := x.arrivals + 1 }), markHeld 32])) 32 = none ∧ classB (live.act (seq [forA [] (arrive 32), updTs (fun x => { x with arrivals := x.arrivals + 1 }), markHeld 32])) 32 = none)
    ∧ ((tsEntry (guarded 0 1 (some 0)) 32 7).waiting = [⟨0, 256, some 0, false⟩] ∧ (rateNow (guarded 0 1 (some 0)) 32 7).1 ≠ 0
      ∧ 0 + (withRegs (guarded 0 1 (some 0)) [(FW_GM_LAT_LAT_LIM (portPage 32).1 (portPage 32).2, 0)]).get (FW_GM_LAT_LAT_LIM (portPage 32).1 (portPage 32).2) < 1)
    ∧ (tsEntry live 32 7).waiting = [] := by decide +kernel

theorem witness_RatesAndHartTickets_rates : Instr.wellFormed (.fwTsRateWrite 0x090 0 4 4 63 0) = true
    ∧ Reaches live 0x090 0 1 (pageAddr (pageFW 4) (0x1000 + 16 * (64 * 4 + 63))) 8
    ∧ (liveWith [(FW_CTRL_SC_LOCK 4, 1)]).is (FW_CTRL_SC_LOCK 4) = true
    ∧ (sumWith (tsRate live (portOf 4 4)) 63 2304 ≤ portPB (portOf 4 4) ∧ sumWith (fun j => if tsRate live (portOf 4 4) j = 0 then 0 else tsBurst live (portOf 4 4) j) 63 6144 ≤ portBurstLimit (portOf 4 4))
    ∧ ¬sumWith (tsRate live (portOf 4 4)) 63 2305 ≤ portPB (portOf 4 4) ∧ ¬2305 ≤ tsRate live (portOf 4 4) 63
    ∧ live.ts.planAt ≠ some live.grid.now ∧ ({ live with ts := { live.ts with planAt := some 0 } } : State).ts.planAt = some live.grid.now := by unfold Reaches; decide +kernel

theorem witness_RatesAndHartTickets_harts : Instr.wellFormed (.hartTicketWrite 15 8) = true ∧ 8 ≤ 8 % 64 ∧ 7 % 64 < 8
    ∧ bit (live.get FW_TKT_ALLOW_HARTS_8_15) (8 * (15 % 8) + 7 % 64) = false
    ∧ bit ((liveWith [(FW_TKT_ALLOW_HARTS_8_15, 2 ^ 63)]).get FW_TKT_ALLOW_HARTS_8_15) (8 * (15 % 8) + 7 % 64) = true := by decide +kernel

theorem witness_WindowsChangeTogetherAndBelow256ByTheIsland : Instr.wellFormed (.fwWindowWrite 0x080 63 511 3 1) = true
    ∧ Reaches (open_ live) 0x080 63 1 (pageAddr 10 (0x4000 + 32 * 511 + 8 * 3)) 8 ∧ bit ((open_ live).window 511).w0 62 = false
    ∧ (255 < 256 ∧ isIsland 0x080 = false ∧ Reaches (open_ live) 0x080 63 1 (pageAddr 10 (0x4000 + 32 * 255 + 8 * 3)) 8)
    ∧ bit (({ live with fw := ⟨[(0, ⟨2 ^ 62, 0, 0, 0⟩)], []⟩ } : State).window 0).w0 62 = true := by unfold Reaches; decide +kernel

theorem witness_DeniedRequestsHaveNoEffect : Instr.wellFormed (.fabricRequest 0x080 7 ⟨1, 9⟩ 0xE40C000000 1 [0#8] clean) = true
    ∧ (checkRequest live 0x080 (carried live 0x080 7) 1 clean 0xE40C000000 1).1 = stFW_DENY ∧ live.get (FW_VIOL_INFO_VALID 4) = 0 ∧ checkerOf 0x080 0xE40C000000 = 4
    ∧ serving live 8 = none ∧ (8 : Nat) < 36 := by
  decide +kernel

theorem witness_RequestsReadAndWriteStorage : Instr.wellFormed (.fabricRequest 0x0A0 63 ⟨0, 9⟩ 0x1000 2 [] clean) = true ∧ clean.corr = []
    ∧ (∀ i, i < 2 → plainAddr (0x1000 + i) = true) ∧ isHart 0x0A0 = false ∧ (checkRequest (open_ live) 0x0A0 (carried (open_ live) 0x0A0 63) 0 clean 0x1000 2).1 = 0
    ∧ Instr.wellFormed (.fabricRequest 0x0A0 63 ⟨1, 9⟩ 0x1000 2 [1#8, 2#8] clean) = true ∧ (checkRequest (open_ live) 0x0A0 (carried (open_ live) 0x0A0 63) 1 clean 0x1000 2).1 = 0
    ∧ (portTo (open_ (liveWith [(YL_STATUS_UP 3, 1), (YL_STATUS_PEER 3, 31)])) 31).isSome = true
    ∧ (checkRequest (open_ (liveWith [(YL_STATUS_UP 3, 1), (YL_STATUS_PEER 3, 31)])) (0xC00 + 31) 63 0 clean 0x1000 2).1 = 0 := by decide +kernel

/-- Hart 15 holds ticket 63. -/
def caching : State := { open_ live with bus := { live.bus with hartTkt := [(15, 63)] } }

theorem witness_HartsReadAndWriteTheirCaches : Instr.wellFormed (.fabricRequest 0x08F 0 ⟨1, 9⟩ 0x103F 2 [1#8, 2#8] clean) = true ∧ isHart 0x08F = true
    ∧ (∀ i, i < 2 → cacheable (0x103F + i) = true) ∧ carried caching 0x08F 0 = 63
    ∧ (checkRequest caching 0x08F 63 1 ⟨[], []⟩ 0x103F 2).1 = 0 ∧ (fetchLines caching 0x08F 63 (writes 1) clean 0x103F 2).1 = 0 ∧ heldErrors caching (writes 1) clean.uncorr 0x103F 2 = []
    ∧ (∀ i, i < 2 → aliasLines caching ((0x103F + i) / 64) = []) ∧ Instr.wellFormed (.fabricRequest 0x08F 0 ⟨0, 9⟩ 0x103F 2 [] clean) = true := by
  decide +kernel

/-- Yelilo port 3 enabled and training. -/
def training : State := { liveWith [(YL_CTRL_EN 3, 1), (YL_CTRL_LANES_MIN 3, 1)] with yl := [(3, ⟨true, 0, 0, []⟩)] }

theorem witness_YeliloPortsTrainAndReplay : Reaches live 0x090 (ticketOf live 0x090) 1 (pageAddr (pageYL 3) 0x10) 8
    ∧ live.is (YL_CTRL_EN 3) = false ∧ training.is (YL_CTRL_EN 3) = true ∧ (training.port 3).training = true
    ∧ 2 ^ training.get (YL_CTRL_LANES_MIN 3) ≤ trainedWidth 3 ∧ trainedWidth 1 < 2 ^ training.get (YL_CTRL_LANES_MIN 3)
    ∧ (liveWith [(YL_STATUS_UP 3, 1)]).is (YL_STATUS_UP 3) = true ∧ live.is (YL_STATUS_UP 3) = false
    ∧ (({ live with yl := [(3, ⟨false, 0, 32, []⟩)] } : State).port 3).window = live.grid.now / 11000 ∧ 32 < (({ live with yl := [(3, ⟨false, 0, 32, []⟩)] } : State).port 3).fails + 1 := by
  unfold Reaches; decide +kernel

/-- Page 4 with its sources enabled, routed to hart 15 with identity 5. -/
def routed : State := liveWith [(INT_EN 4, 1), (INT_ROUTE_DEST 4, 1), (INT_ROUTE_HART 4, 15), (INT_ROUTE_IDENT 4, 5)]

theorem witness_InterruptsForceRouteAndSend : Reaches routed 0x090 63 1 (pageAddr 4 0x28) 4 ∧ Reaches routed 0x090 63 1 (pageAddr 4 0x30) 8
    ∧ Machine.request (after (.intForceWrite 0x090 63 4 1) routed) 4 ≠ 0 ∧ routed.get (INT_ROUTE_DEST 4) % 2 = 1 ∧ (routeFile routed 4).isSome = true
    ∧ Machine.request (after (.intForceWrite 0x090 63 4 0) routed) 4 = 0
    ∧ (Reaches (open_ live) 0x080 63 1 (pageAddr 4 0x30) 8 ∧ isIsland 0x080 = false ∧ 2 ≤ field (2 * 2 ^ 56) 57 56 ∧ field (2 ^ 56) 57 56 < 2)
    ∧ (liveWith [(INT_ROUTE_LOCK 4, 1)]).is (INT_ROUTE_LOCK 4) = true ∧ live.is (INT_ROUTE_LOCK 4) = false := by unfold Reaches; decide +kernel

/-- The fields of IO_MODE. -/
def ioMode : List FieldRow := ((findReg (allRows 112) 0x100).getD (0, [])).2

theorem witness_RegisterWritesFollowAccessCodes : Instr.wellFormed (.registerWrite 0x090 0 0xF000700100 8 (2 ^ 64 - 1)) = true
    ∧ Reaches live 0x090 0 1 0xF000700100 8 ∧ 99 ≤ pageOf 0xF000700100 ∧ ¬(176 ≤ pageOf 0xF000700100 ∧ pageOf 0xF000700100 < 180)
    ∧ reachOf (allRows (pageOf 0xF000700100)) (offOf 0xF000700100) 8 = .whole 0x100 ∧ findReg (allRows (pageOf 0xF000700100)) 0x100 = some (8, ioMode)
    ∧ ioMode.Pairwise (fun f g => f.lo ≠ g.lo) ∧ ⟨63, 63, .rw, 0, 65, 0, 0⟩ ∈ ioMode ∧ refusals live 0x090 112 0x100 ⟨63, 63, .rw, 0, 65, 0, 0⟩ 1 = []
    ∧ refusals (liveWith [(⟨112 * 0x10000 + 0x100, 63, 1, 0⟩, 1)]) 0x090 112 0x100 ⟨10, 8, .rw, 5, 65, 0, 0⟩ 7 ≠ [] := by unfold Reaches; decide +kernel

theorem witness_OnlyTheIslandCommandsThese : isInit 0x080 = true ∧ isIsland 0x080 = false ∧ Reaches (open_ live) 0x080 63 1 (pageAddr 0 0x100) 8
    ∧ Reaches (open_ live) 0x080 63 1 (pageAddr (pageTE 35) 0x010) 8 ∧ Reaches (open_ live) 0x080 63 1 (pageAddr (pageKV 3) 0x010) 8
    ∧ Reaches (open_ live) 0x080 63 1 (pageAddr pageRM 0x108) 8 ∧ Reaches (open_ live) 0x080 63 1 (pageAddr pagePW 0x100) 8
    ∧ Reaches (open_ live) 0x080 63 1 (pageAddr pageTT 0x180) 8 ∧ live.get (ERRW_VALID 0) = 0 := by unfold Reaches; decide +kernel

end Sys2Proof.Tests
end

