-- ==== Sys2Proof/Tests/Witness2.lean ====
section
/-! SUPPORT. Concrete states and operands that meet the hypotheses of the statements about resets, boot, power states and debug
access. The images and the response are signed with the key of RFC 6979, A.2.6. -/

-- One theorem at a time: checked side by side, these need more threads, each with a stack of its own, than the check's memory allows.
set_option Elab.async false

namespace Sys2Proof.Tests

open Sys2Proof Sys2Proof.Machine

/-- The public key of RFC 6979, A.2.6, and its SHA-384. -/
def pubX : Nat := 0xEC3A4E415B4E19A4568618029F427FA5DA9A8BC4AE92E02E06AAE5286B300C64DEF8F0EA9055866064A254515480BC13
def pubY : Nat := 0x8015D9B72D7D57244EA8EF9AC0C621896708A59367F9DFB9F54CA84B3F1C9DB1288B231C3AE0D4FE7344FD2533264720
def keyHash : Nat := 0x794113F29EDD796B85DFAADE5D707BE345371383E7BAC485D62EDBCBD377BA1FDDF0A1954BF9AD189792AD0D87299E03

/-- SHA-384 of the one byte 1. -/
def bodyHash : Nat := 0x8D2CE87D86F55FCFAB770A047B090DA23270FA206832DFEA7E0C946FFF451F819ADD242374BE551B0D6318ED6C7D41D8

/-- The signature of the message "sample" by that key is the one RFC 6979 prints. -/
theorem test_ecdsa_rfc6979 : ecdsaOk pubX pubY (sha384 [0x73#8, 0x61#8, 0x6D#8, 0x70#8, 0x6C#8, 0x65#8])
    0x94EDBB92A5ECB8AAD4736E56C691916B3F88140666CE9FA73D64C4EA95AD133C81A648152E44ACF96E36DD1E80FABE46
    0x99EF4AEB15F178CEA1FE40DB2603138F130E740A19624526203B6351D0A3A94FA329C145786E679E7B82C71A38628AC8 = true := by decide +kernel

theorem test_ecdsa_other_digest : ecdsaOk pubX pubY (sha384 [])
    0x94EDBB92A5ECB8AAD4736E56C691916B3F88140666CE9FA73D64C4EA95AD133C81A648152E44ACF96E36DD1E80FABE46
    0x99EF4AEB15F178CEA1FE40DB2603138F130E740A19624526203B6351D0A3A94FA329C145786E679E7B82C71A38628AC8 = false := by decide +kernel

def islandSigned : Image := ⟨0x4D494742, 1, 1, 0, 0, 0, bodyHash, pubX, pubY,
  0x1FE24C1D66E0E7BDA04061BA457FD94F60F49867BBFFB828DC9D41EC3F59EE5E5B4085AAA36DAFDC429307894C032A98,
  0xCEA4B19D9733B136CE93B0B57C8576222BBC4A43A9FEB3CF2DD45EB1B79FE6BF9FAF6830F49A019EB6DB16F39884E7BE, [1#8], 385⟩

def cfgSigned : Image := ⟨0x4D494742, 1, 3, 0, 0, 0, bodyHash, pubX, pubY,
  0x25049E64AC1E8BF58DB3B0149276AEE5E99D21E64ECC6C1FE3361CF65D9BCA253FF149C10EE6985F95F1C60DC9579EA6,
  0xCF64785DD6436E64799916820DA0CFE549341999C0624A6290AD5D74971BF1CF6D9AAF67EDCCA433A3D2AA25C8113699, [1#8], 385⟩

/-- A record for the part whose device secret is 5, in life-cycle state `lc`. -/
def record5 (lc : Nat) : CfgRecord := ⟨true, 0, true, true, 0x114D594F349239E, 0, [], [], [], 0, 0, 0x389B9A761875ADB9EAF4C0E4A2EE8665, lc, 0, [], [], [], 0, 0, 0, 0, 0, 0, []⟩

def flash5 (cfg : Option CfgRecord) : Flash := { Flash.empty with dirOk := true, imageA := [(1, islandSigned), (3, cfgSigned)], cfgA := cfg }

/-- A part before PLL_LOCK whose PUF yields `secret`. -/
def powered (secret : Option Nat) (f : Flash) : State :=
  { State.reset with silicon := ⟨keyHash, keyHash, none⟩, boot := { State.reset.boot with flash := f, env := { BootEnv.empty with secret := secret } } }

/-- That part with the secret in its key store, as the statement of O30 takes it. -/
def keyed (f : Flash) : State :=
  let x : State := { powered (some 5) f with silicon := ⟨keyHash, keyHash, some 5⟩ }
  { x with boot := { x.boot with flash := installUpdate x } }

theorem witness_BootStartsFromTheIsland : live.boot.step ≠ 1
    ∧ ((powered none Flash.empty).boot.step = 1 ∧ (powered none Flash.empty).boot.env.secret = none)
    ∧ ((powered (some 5) Flash.empty).boot.env.secret = some 5 ∧ islandImage (keyed Flash.empty) = none ∧ bootCfg (keyed Flash.empty) = none)
    ∧ (islandImage (keyed (flash5 (some (record5 0)))) = some (islandSigned, false) ∧ 4 ∉ (powered (some 5) (flash5 none)).pw.good)
    ∧ bootCfg (keyed (flash5 (some (record5 0)))) = some ((cfgSigned, record5 0), false) ∧ bootCfg (keyed (flash5 none)) = none := by
  decide +kernel

/-- The part with secret 5 after boot, with its record. -/
def unlocking (lc fails : Nat) : State :=
  { live with silicon := ⟨keyHash, keyHash, some 5⟩, dbg := ⟨0, fails, 9⟩, boot := { live.boot with cfg := some (record5 lc) } }

theorem witness_DebugAccessNeedsItsKey : live.silicon.keyStore = none ∧ 16 ≤ (unlocking 1 16).dbg.fails
    ∧ ((unlocking 1 15).silicon.keyStore ≠ none ∧ (unlocking 1 15).dbg.fails < 16 ∧ (unlocking 1 15).boot.cfg = some (record5 1) ∧ (record5 1).lc = 1
      ∧ (sha384 (leBytes 8 (deviceId (unlocking 1 15)) ++ leBytes 16 (2 ^ 128 - 1))).take 16 = leBytes 16 (record5 1).pwTag)
    ∧ passwordOk (unlocking 2 15) 0 = false := by decide +kernel

theorem witness_DebugAccessNeedsItsKey_response : (unlocking 2 15).planOn = false ∧ (unlocking 2 15).someRun = false ∧ ¬7 % 8 < 2
    ∧ ofBe (sha384 (beBytes 48 pubX ++ beBytes 48 pubY)) = (unlocking 2 15).silicon.debugHash
    ∧ ecdsaOk pubX pubY (sha384 (leBytes 32 (unlocking 2 15).dbg.nonce ++ leBytes 8 (deviceId (unlocking 2 15)) ++ leBytes 8 7))
      0xAEF91330A91238130A2F276EB1F935C5F2F5E28CEABBFCF7F5CB8CB5DBC65537F2C3B6E3F73F01DFD72AF8F85F33AD60
      0x11AB250347AF2790915E6EF1CEA2D4EBB16B73F53876F29FBA0C545432E1461DF92177ACE24342DBCC7E5D7E8D071B96 = true
    ∧ responseOk (unlocking 2 15) 1 0 0 0 0 0 = false := by decide +kernel

/-- A part in phase 4 of boot, as warm resets find it. -/
def booted : State := liveWith [(BT_BOOT_STAT_PHASE, 4)]

theorem witness_WarmResetKeepsWhatTable178Keeps : State.reset.boot.kind = 1
    ∧ (¬(booted.boot.kind = 1 ∨ booted.boot.kind = 2 ∨ booted.get BT_BOOT_STAT_PHASE < 3) ∧ isIsland 0x090 = true ∧ booted.someRun = false
      ∧ booted.hot.entries = [] ∧ busyUnits booted = [] ∧ restores evWR RM_FRAME_MAJOR.key = true ∧ RM_FRAME_MAJOR.key / 0x400000 < 256)
    ∧ ((liveWith [(TT_CTRL_RUN, 1)]).someRun = true ∧ Reaches (liveWith [(TT_CTRL_RUN, 1)]) 0x090 63 1 (pageAddr 0 0x100) 8) := by
  unfold Reaches; decide +kernel

theorem witness_DieAndEngineResetsStayLocal : Reaches live 0x090 63 1 (pageAddr 0 0x100) 8 ∧ Reaches State.reset 0x090 63 1 (pageAddr 0 0x100) 8
    ∧ State.reset.boot.kind = 1 ∧ live.boot.kind ≠ 1 ∧ live.boot.kind ≠ 2 ∧ live.pw.transition = none ∧ dieOff live 3 = false
    ∧ (∀ u < 104, unitDie u = 3 → (live.unit u).running = none ∧ (live.unit u).suspended = none) ∧ live.get (TE_STATUS_STATE 35) ≠ 1
    ∧ TE_PRE_PRE_CNT 35 ∈ [TE_PRE_PRE_CNT 35] := by unfold Reaches; decide +kernel

/-- Boot waits in step `n` for power, with enables 0 to 4. -/
def waiting (n : Nat) (good : List Nat) : State :=
  { State.reset with pw := { State.reset.pw with enables := [0, 1, 2, 3, 4], good := good }, boot := { State.reset.boot with step := n } }

theorem witness_PowerGoodInputsAreWatched : 5 ∉ (waiting 5 []).pw.enables ∧ (4 ∈ (waiting 5 [4]).pw.enables ∧ (waiting 5 [4]).boot.step ≠ 9)
    ∧ ({ live with pw := { live.pw with transition := some (1, 2) } } : State).pw.transition = some (1, 2) ∧ ¬1 < live.get PW_STATUS_STATE
    ∧ (({ liveWith [(PW_STATUS_STATE, 2)] with pw := { live.pw with transition := some (1, 0) } } : State).pw.transition = some (1, 0) ∧ 1 < (liveWith [(PW_STATUS_STATE, 2)]).get PW_STATUS_STATE)
    ∧ ((waiting 7 []).boot.step ≠ 5 ∧ (waiting 7 []).boot.step ≠ 9)
    ∧ ((waiting 9 [4]).boot.step = 9 ∧ 0 ∈ (waiting 9 [4]).pw.enables ∧ 0 ≠ 1 ∧ 0 ∉ (waiting 9 [4]).pw.good) := by decide +kernel

/-- A part in state `n`. -/
def inState (n : Nat) (good : List Nat) : State :=
  { liveWith [(PW_STATUS_STATE, n)] with pw := { live.pw with good := good } }

theorem witness_StateRequestsAreJudged : Reaches live 0x090 63 1 (pageAddr pagePW 0x100) 8
    ∧ ({ live with pw := { live.pw with transition := some (1, 1) } } : State).pw.transition.isSome = true
    ∧ jobsHeld (running live 40 (jobFor [0x20])) = true ∧ (planned live []).planOn = true ∧ jobsHeld live = false ∧ live.planOn = false ∧ live.someRun = false
    ∧ live.get PW_STATUS_STATE = 0 ∧ (inState 3 [0]).get PW_STATUS_STATE = 3 ∧ 4 ∉ (inState 3 [0]).pw.good
    ∧ Reaches (inState 3 [0]) 0x090 63 1 (pageAddr pagePW 0x100) 8 ∧ Reaches (inState 1 [4]) 0x090 63 1 (pageAddr pagePW 0x100) 8
    ∧ (inState 1 [4]).get PW_STATUS_STATE = 1 ∧ (inState 2 [4]).get PW_STATUS_STATE = 2
    ∧ mget ({ live with hot := { live.hot with entries := [(3, ⟨[], false, false, false⟩)] } } : State).hot.entries 3 = some ⟨[], false, false, false⟩ := by
  unfold Reaches; decide +kernel

/-- A part in state `n` that goes to `n + 1`. -/
def entering (n : Nat) : State := { liveWith [(PW_STATUS_STATE, n)] with pw := { live.pw with transition := some (n + 1, n + 1) } }

theorem witness_StatesAreEnteredAndLeft : live.pw.transition = none
    ∧ ((entering 0).pw.transition = some (1, 1) ∧ (entering 0).get PW_STATUS_STATE = 0 ∧ legReady (entering 0) = true ∧ (entering 0).pw.wakes = [])
    ∧ ((entering 1).pw.transition = some (2, 2) ∧ (entering 1).get PW_STATUS_STATE = 1 ∧ legReady (entering 1) = true ∧ (entering 1).pw.wakes = [])
    ∧ legReady ({ entering 1 with pw := { (entering 1).pw with good := [] } }) = false
    ∧ bit (live.get (wakeField 2).1) 7 = false
    ∧ (bit ((withRegs (inState 2 []) [(PW_WAKE_EN_TCAP, 128)]).get (wakeField 1).1) 7 = true ∧ (inState 2 []).pw.transition = none ∧ (inState 2 []).get PW_STATUS_STATE = 2)
    ∧ (bit ((withRegs (entering 1) [(PW_WAKE_EN_GPIO, 1)]).get (wakeField 0).1) 0 = true ∧ (entering 1).get PW_STATUS_STATE < 2) := by decide +kernel

theorem witness_IslandResetStopsTheRings : State.reset.boot.step = 1 ∧ live.boot.step ≠ 1 ∧ islandImage live = none := by decide +kernel

end Sys2Proof.Tests
end

