-- ==== Sys2Proof/Tests/Witness3.lean ====
section
/-! SUPPORT. Concrete states and operands that meet the hypotheses of the statements about queues, jobs, slots, boundaries, plans and
serving groups. -/

-- One theorem at a time: checked side by side, these need more threads, each with a stack of its own, than the check's memory allows.
set_option Elab.async false

namespace Sys2Proof.Tests

open Sys2Proof Sys2Proof.Machine

/-- LINEAR of 64 bytes from 0x2000 to 0x3000; `w0` more bits of word 0. -/
def linearWords (w0 : Nat) : List Nat := [0x20 + w0, 0x2000, 0x3000, 64, 0, 0, 0, 0]

/-- WAIT_EN with counter 255 of die 3. -/
def waitBits : Nat := 2 ^ 48 + 3 * 2 ^ 50 + 255 * 2 ^ 32

/-- Queue 5 for copy unit 40, with one descriptor posted. -/
def queue5 (cls mode : Nat) : Queue := { queueFor 40 cls mode with tail := 1 }

/-- A slot 3 on unit 40 in cycles 0 to 999 of every frame, with one descriptor of queue 5. -/
def slot3 (typ : Nat) : Slot := ⟨typ, false, 0, 1000, 2 ^ 20 - 1, 500, 5, 1, 0, 40, 255, 0, 0, 0, 3, false⟩

theorem witness_DoorbellsPostAndFree : Instr.wellFormed (.doorbellWrite 0x090 65535 17) = true
    ∧ Reaches (withQueue live 65535 { queueFor 40 0 0 with owner := 0x090 }) 0x090 (ticketOf live 0x090) 1 (0xF800000000 + 8 * 65535) 8
    ∧ 0x090 ≠ ((withQueue live 65535 (queueFor 40 0 0)).queue 65535).owner
    ∧ (0x090 = ((withQueue live 65535 { queueFor 40 0 0 with owner := 0x090 }).queue 65535).owner ∧ (queueFor 40 0 0).enable = true)
    ∧ ({ queueFor 40 0 0 with enable := false } : Queue).enable = false
    ∧ (16 + 2 ^ 32 - (queueFor 40 0 0).head % 2 ^ 32) % 2 ^ 32 ≤ 2 ^ (queueFor 40 0 0).ringLog2
    ∧ ¬(17 + 2 ^ 32 - (queueFor 40 0 0).head % 2 ^ 32) % 2 ^ 32 ≤ 2 ^ (queueFor 40 0 0).ringLog2
    ∧ live.log.queues[4]? = some [] ∧ ¬((queueFor 40 0 0).ctail + 2 ^ 32 - 1 % 2 ^ 32) % 2 ^ 32 ≤ 2 ^ (queueFor 40 0 0).compLog2 := by
  unfold Reaches; decide +kernel

theorem witness_QueuesAreEnabledAndDisabled : Reaches live 0x090 63 1 (pageAddr 3 0x148) 8
    ∧ ((withQueue live 0 { queueFor 40 0 0 with qlock := true }).queue (live.get RM_QSEL_Q)).qlock = true
    ∧ (((withQueue live 0 (queueFor 40 0 0)).queue (live.get RM_QSEL_Q)).enable = true ∧ ((withQueue live 0 (queueFor 40 0 0)).queue (live.get RM_QSEL_Q)).qlock = false)
    ∧ (let x := { queueFor 40 0 0 with enable := false }
       x.ringBase % 64 = 0 ∧ x.compBase % 16 = 0 ∧ 1 ≤ x.ringLog2 ∧ x.ringLog2 ≤ 16 ∧ 1 ≤ x.compLog2 ∧ x.compLog2 ≤ 16
        ∧ ¬(x.mode = 1 ∧ x.cls = 0) ∧ queueUnitOk x.unit x.cls = true)
    ∧ (let x := { queueFor 40 0 1 with enable := false }
       x.mode = 1 ∧ x.cls = 0) := by unfold Reaches; decide +kernel

/-- Queue 5 with its descriptor at the ring's first entry. -/
def posted5 (cls mode : Nat) : State := withBytes (open_ (withQueue live 5 (queue5 cls mode))) 0x1000 (descOf (linearWords 0))

theorem witness_DescriptorsAreTakenOnce : (let s := posted5 0 0
      let x := s.queue 5
      x.enable = true ∧ x.stopped = false ∧ x.cls = 0 ∧ x.mode = 0 ∧ serves x.unit 40 = true ∧ takesFor s 40 = true ∧ x.head ≠ x.tail ∧ compRoom s 5 = true
        ∧ ¬(40 < 36 ∧ unitDead s 40 = true) ∧ (∀ j ∈ s.jobs, j.2.queue = 5 → j.2.waits = false)
        ∧ (checkRange s x.owner x.ticket 0 clean (x.ringBase + 64 * (x.head % 2 ^ x.ringLog2)) 64).1 = 0)
    ∧ (checkRange (withQueue live 5 (queue5 0 0)) 0x080 8 0 clean 0x1000 64).1 ≠ 0
    ∧ (∀ mode < 2, let s := planned (posted5 1 mode) [slot3 1]
      let x := s.queue 5
      s.slot 3 = some (slot3 1) ∧ (∀ y ∈ s.planSlots, y.id = 3 → y = slot3 1) ∧ takingSlot s 5 40 = some (slot3 1, false) ∧ 3300 < toBoundary s ∧ compRoom s 5 = true ∧ slotUnit s (slot3 1) = 40
        ∧ slotQueue s (slot3 1) = 5 ∧ x.enable = true ∧ x.stopped = false ∧ currentSlot s 40 = none ∧ (x.mode = 1 ∨ x.head ≠ x.tail)
        ∧ (s.slotRun 3).taken + 1 = (slot3 1).count ∧ (checkRange s x.owner x.ticket 0 clean 0x1000 64).1 = 0) := by decide +kernel

/-- Unit 40 with a job of queue 5 that has ended with `st`, for slot `id`; the job posts counter 255 of die 3. -/
def ended (x : Queue) (st : Option Nat) (id : Option Nat) : State :=
  running (open_ (withQueue (liveWith [(RM_CLIENT_SHARE_SHARE 0, 1)]) 5 x)) 40
    { jobFor (linearWords (2 ^ 49 + 3 * 2 ^ 50 + 255 * 2 ^ 40)) with queue := 5, status := st, slot := id }

/-- The running job of unit 40. -/
def job40 (s : State) : Job := ((s.unit 40).running).getD (jobFor [])

theorem witness_JobsCompleteWithTheirRecord : (let s := ended (queue5 0 0) (some 0) none
      completing (s.unit 40) = some (job40 s) ∧ (job40 s).commit = none ∧ s.isl.reint ≠ 1 ∧ (s.queue 5).stopped = false
        ∧ (checkRange s (s.queue 5).owner (s.queue 5).ticket 1 clean (s.queue 5).compBase 16).1 = 0
        ∧ currentSlot s 40 = none ∧ (job40 s).post = true ∧ dPostEn (job40 s).desc = true
        ∧ s.get (CE_CTR_VALUE (dCtrDie (job40 s).desc) (dPostCtr (job40 s).desc)) < 0xFFFF ∧ (job40 s).slot = none
        ∧ s.get (RM_CLIENT_SHARE_SHARE ((job40 s).client % 1024)) ≠ 0 ∧ (job40 s).client % 1024 ∉ s.rm.ready)
    ∧ ((ended { queue5 0 0 with stopped := true } (some 0) none).queue 5).stopped = true
    ∧ (let s := withQueue (running live 40 { jobFor (linearWords 0) with queue := 5, status := some 0 }) 5 (queue5 0 0)
       (s.queue 5).stopped = false ∧ (checkRange s (s.queue 5).owner (s.queue 5).ticket 1 clean (s.queue 5).compBase 16).1 ≠ 0)
    ∧ (∀ st < 3, let s := planned (ended (queue5 1 0) (some st) (some 3)) [slot3 1]
       completing (s.unit 40) = some (job40 s) ∧ (job40 s).slot = some 3 ∧ s.slot 3 = some (slot3 1) ∧ slotUnit s (slot3 1) = 40
        ∧ (s.slotRun 3).checked = false ∧ (s.slotRun 3).displaced = false) := by decide +kernel

/-- Unit `u` with a suspended job. -/
def paused (u : Nat) : State := { open_ live with rm := { live.rm with units := [(u, ⟨none, some (jobFor (linearWords 0)), [], false, false⟩)] } }

/-- Unit `u` switches from OPEN work; engine 0 serves position 0. -/
def switchingOn (u : Nat) : State :=
  { liveWith [(TE_STATUS_STATE 0, 1)] with rm := { live.rm with units := [(u, ⟨some (jobFor (linearWords 0)), none, [], true, false⟩)] } }

/-- Slot 3 has started on unit 40 and holds a job that waits on counter 255 of die 3, which holds `n`. -/
def waitingSlot (n : Nat) : State :=
  let s := planned (open_ (withQueue (liveWith [(CE_CTR_VALUE 3 255, n)]) 5 (queue5 1 0))) [slot3 1]
  { s with plan := { s.plan with slots := [(3, { SlotRun.none with started := true, taken := 1 })] }, rm := { s.rm with units := [(40, ⟨none, none, [{ jobFor (linearWords waitBits) with queue := 5, slot := some 3, started := false }], false, false⟩)] } }

theorem witness_WorkStartsSuspendsAndStops_start : (let s := paused 40
      unitFree s 40 = true ∧ mayOpen s 40 = true ∧ (s.unit 40).suspended = some (jobFor (linearWords 0)) ∧ (jobFor (linearWords 0)).status = none)
    ∧ (let s := withRegs (posted5 0 0) [(RM_CLIENT_SHARE_SHARE 0, 1)]
      unitFree s 40 = true ∧ mayOpen s 40 = true ∧ (s.unit 40).suspended = none ∧ (s.unit 40).running = none ∧ (s.unit 40).held = [] ∧ failsAll s 40 = false
        ∧ (openChoice (s.act refreshReady) 40).map (fun x => (x.queue, x.slot.isNone)) = some (5, true)
        ∧ ((openChoice (s.act refreshReady) 40).bind fun x => sourceHead s x 40).map (fun h => h.map (creditTurn (s.act refreshReady))) = some (some true) ∧ (checkRange s 0x080 8 0 clean 0x1000 64).1 = 0
        ∧ checkDesc 40 false (readRange s 0x1000 64) = none)
    ∧ (let s := waitingSlot 1
      (plannedWaiters s 3 255).find? (fun y => y.1 == 5) = some (5, 40) ∧ (∀ y ∈ plannedWaiters s 3 255 ++ openWaiters s 3 255, 5 ≤ y.1)
        ∧ (nextPlanned s 40).isSome = true ∧ failsAll s 40 = false) := by decide +kernel

theorem witness_WorkStartsSuspendsAndStops_stop : (let s := planned (running live 40 (jobFor (linearWords 0))) [slot3 1]
      runsOpen s 40 = true ∧ planNear s 40 3301 = true)
    ∧ (isCopyUnit 0 = false ∧ ((switchingOn 0).unit 0).switching = true ∧ runsOpen (switchingOn 0) 0 = true ∧ currentSlot (switchingOn 0) 0 = none ∧ serving (switchingOn 0) 0 = some 0)
    ∧ (isCopyUnit 40 = true ∧ ((switchingOn 40).unit 40).switching = true ∧ runsOpen (switchingOn 40) 40 = true ∧ currentSlot (switchingOn 40) 40 = none)
    ∧ (let s := running live 40 { jobFor (linearWords 0) with stopWith := some 0x0D }
      (s.unit 40).running = some (job40 s) ∧ (job40 s).status = none ∧ (job40 s).stopWith = some 0x0D) := by decide +kernel

/-- Slot 3 of type `typ`, about to start with one job taken that waits for nothing. -/
def starting (typ : Nat) : State :=
  let s := planned (open_ (withQueue live 5 (queue5 1 0))) [slot3 typ]
  { s with rm := { s.rm with units := [(40, ⟨none, none, [{ jobFor (linearWords 0) with queue := 5, slot := some 3, started := false }], false, false⟩)] } }

/-- Slot 3 on position 0, where a job of other work still runs. -/
def lateOn0 : State :=
  let s := planned (liveWith [(TE_STATUS_STATE 0, 1)]) [{ slot3 1 with unit := 0 }]
  running s 0 (jobFor (linearWords 0))

/-- The frame has reached cycle `n`. -/
def atCycle (s : State) (n : Nat) : State := { s with grid := { s.grid with now := s.grid.boundaryAt + n } }

theorem witness_SlotsStartAndAreChecked : (let s := starting 1
      s.slot 3 = some (slot3 1) ∧ slotRuns s (slot3 1) = true ∧ (slot3 1).typ ≠ 3 ∧ (s.slotRun 3).checked = false ∧ (s.slotRun 3).started = false
        ∧ slotStartAt s (slot3 1) ≤ s.inFrame ∧ s.inFrame < slotEndAt s (slot3 1) ∧ unitDead s 40 = false ∧ (s.unit 40).running = none ∧ (s.unit 40).switching = false
        ∧ currentSlot s 40 = none ∧ failsAll s 40 = false
        ∧ ((s.unit 40).held.find? (fun j => j.slot == some 3 && j.waits)).map (fun j => (mayStart s j, compRoom s j.queue, creditTurn s j, dWaitEn j.desc)) = some (true, true, true, false))
    ∧ (let s := waitingSlot 1
      ((s.unit 40).held.find? (fun j => j.slot == some 3 && j.waits)).map (fun j => (mayStart s j, compRoom s j.queue, creditTurn s j, dWaitEn j.desc)) = some (true, true, true, true))
    ∧ (let s := lateOn0
      s.slot 3 = some { slot3 1 with unit := 0 } ∧ slotRuns s { slot3 1 with unit := 0 } = true ∧ (s.unit 0).running = some (jobFor (linearWords 0)) ∧ serving s 0 = some 0
        ∧ unitDead s 0 = false)
    ∧ (∀ typ < 3, let s := atCycle (starting typ) 1000
      s.slot 3 = some (slot3 typ) ∧ slotRuns s (slot3 typ) = true ∧ slotEndAt s (slot3 typ) ≤ s.inFrame ∧ (s.slotRun 3).asOpen = false
        ∧ safeExempt s 40 = false ∧ slotComplete s (slot3 typ) = false)
    ∧ slotComplete { atCycle (starting 2) 1000 with plan := { (starting 2).plan with slots := [(3, { SlotRun.none with good := 1 })] } } (slot3 2) = true
    ∧ (let p := { slot3 0 with unit := 0 }
      let x := planned (liveWith [(TE_STATUS_STATE 0, 1)]) [p]
      let s := { atCycle x 1000 with plan := { x.plan with exempt := [0] }, isl := { x.isl with awaiting := [55, 56] } }
      s.slot 3 = some p ∧ slotRuns s p = true ∧ (s.slotRun 3).checked = false ∧ slotEndAt s p ≤ s.inFrame ∧ (testsOf s p).filter (fun e => s.isl.awaiting.contains e) = [55]) := by
  decide +kernel

/-- The grid runs at cycle `now`, frame index `idx`. -/
def ticking (now idx : Nat) : State :=
  let s := planned (liveWith [(RM_STATUS_FRAME_IDX, idx)]) []
  { s with grid := { s.grid with now := now } }

theorem witness_BoundariesCountFramesAndSwitchPlans : ((ticking 549999 0).grid.running = true ∧ (ticking 549999 0).grid.now < (ticking 549999 0).grid.boundaryAt + 550000)
    ∧ (live.grid.running = false ∧ live.plan.next = none)
    ∧ ((ticking 550000 19).grid.boundaryAt + 550000 = 550000 ∧ 550000 ≤ (ticking 550000 19).grid.now ∧ ((ticking 550000 19).get RM_STATUS_FRAME_IDX + 1) % 20 = 0)
    ∧ (let s := ticking 550000 19
      { s with plan := { s.plan with next := some (planWith [], 550000) } }.plan.next = some (planWith [], 550000) ∧ { s with plan := { s.plan with stopping := true } }.plan.stopping = true)
    ∧ (let s : State := { live with plan := { live.plan with next := some (planWith [], 7) }, grid := { live.grid with now := 7 } }
      s.grid.running = false ∧ s.plan.next = some (planWith [], 7) ∧ 7 ≤ s.grid.now) := by decide +kernel

/-- Group 15 enabled with member context 9. -/
def grouped (more : List (Fld × Nat)) (ms : List (Nat × Nat)) (pub : List Nat) : State :=
  let s := open_ (liveWith ([(RM_SG_CFG_ENABLE 15, 1), (RM_SG_CFG_BUF_BASE 15, 0x10000)] ++ more))
  { s with rm := { s.rm with groups := [(15, ⟨ms, pub, 1, []⟩)] } }

theorem witness_ServingGroupsTakeRequestsAndPublish_take : (let s := grouped [] [(9, 1)] []
      Reaches s 0x090 (ticketOf s 0x090) 1 (pageAddr 3 0x480) 8 ∧ Reaches s 0x090 (ticketOf s 0x090) 1 (pageAddr 3 0x488) 4 ∧ Reaches s 0x090 63 1 (pageAddr 3 (0x400 + 8 * 15)) 8
        ∧ s.is (RM_SG_CFG_ENABLE 15) = true ∧ (∀ h < 16, 2 ^ 18 - 1 ∉ (s.group h).published ∧ ∀ m ∈ (s.group h).members, m.1 ≠ 2 ^ 18 - 1) ∧ (s.group 15).members.length < 1024
        ∧ (9, 1) ∈ (s.group 15).members ∧ (s.group 15).published = [])
    ∧ live.is (RM_SG_CFG_ENABLE 15) = false
    ∧ 1024 ≤ ((grouped [] (List.replicate 1024 (9, 1)) []).group 15).members.length
    ∧ bit (2 ^ 15) 15 = true ∧ (grouped [(RM_SG_STAT_PENDING 15, 1)] [] []).is (RM_SG_STAT_PENDING 15) = true ∧ (grouped [] [] []).is (RM_SG_STAT_PENDING 15) = false := by
  unfold Reaches; decide +kernel

theorem witness_ServingGroupsTakeRequestsAndPublish_publish : (let s := grouped [(RM_SG_STAT_PENDING 15, 1), (RM_CTRL_SG_EN_ALL, 1), (RM_SG_CFG_POST_EN 15, 1), (RM_SG_CFG_CTR_DIE 15, 3), (RM_SG_CFG_POST_CTR 15, 255)] [(9, 1)] [9]
      stacksUsable s = true ∧ s.is (RM_SG_CFG_ENABLE 15) = true ∧ s.is RM_CTRL_SG_EN_ALL = true ∧ s.is (RM_SG_STAT_PENDING 15) = true
        ∧ bufferInUse s 15 ((s.group 15).nextStep % 2) = false
        ∧ (checkRange s 0x0A0 (s.get FW_HK_TKT_PLAN_TKT) 1 clean (s.get (RM_SG_CFG_BUF_BASE 15) + (s.group 15).nextStep % 2 * 0x8000) (listBytes (s.group 15).nextStep (s.group 15).members).length).1 = 0
        ∧ (s.group 15).published = (s.group 15).members.map Prod.fst ∧ s.is (RM_SG_CFG_POST_EN 15) = true
        ∧ s.get (CE_CTR_VALUE (s.get (RM_SG_CFG_CTR_DIE 15)) (s.get (RM_SG_CFG_POST_CTR 15))) < 0xFFFF ∧ s.get (RM_SG_CFG_CTR_DIE 15) < 4)
    ∧ live.is (RM_SG_CFG_ENABLE 15) = false := by decide +kernel

/-- A part whose plan image at 0x40000 is `bs`, while STAGE reads it. -/
def staging (bs : List Byte) : State :=
  let s := withBytes (open_ (liveWith [(RM_PLAN_ADDR_ADDR, 0x40000)])) 0x40000 bs
  { s with plan := { s.plan with reading := some 0x40000 } }

theorem witness_PlansAreStagedActivatedAndStopped : Reaches live 0x090 63 1 (pageAddr 3 0x108) 8 ∧ isIsland 0x090 = true
    ∧ (staging []).plan.reading = some 0x40000
    ∧ (live.plan.reading = none ∧ live.plan.next.isSome = false ∧ live.plan.stopping = false ∧ live.get RM_PLAN_ADDR_ADDR % 64 = 0 ∧ live.plan.staged = none)
    ∧ (liveWith [(RM_PLAN_ADDR_ADDR, 32)]).get RM_PLAN_ADDR_ADDR % 64 ≠ 0
    ∧ activateCode live (planWith []) ≠ 0
    ∧ (liveWith [(TT_CTRL_RUN, 8)]).is TT_CTRL_RUN = true ∧ live.is TT_CTRL_RUN = false
    ∧ (let s := staging []
      s.boot.step ≠ 11 ∧ (checkRange s 0x0A0 (s.get FW_HK_TKT_PLAN_TKT) 0 clean 0x40000 128).1 = 0 ∧ stageCode (readRange s 0x40000 128) ≠ 0) := by
  unfold Reaches; decide +kernel

/-- The positions and KV units, four at a time. -/
def safeUnits : List (List Nat) := [[0, 1, 2, 3], [4, 5, 6, 7], [9, 10, 11, 12], [13, 14, 15, 16], [18, 19, 20, 21], [22, 23, 24, 25], [27, 28, 29, 30], [31, 32, 33, 34], [36, 37, 38, 39]]

/-- The smallest plan that STAGE accepts: one SAFE slot of 2,200 cycles for each position and KV unit in every frame. -/
def safePlan : PlanImg := { planWith (safeUnits.flatten.map fun u => ⟨0, false, 0, 2200, 2 ^ 20 - 1, 2200, 0, 0, 0, u, 255, 0, 0, 0, u, false⟩) with percShare := 1 }

theorem safe_checks : stageChecks safePlan = [(3, true), (4, true), (5, true), (6, true), (7, true), (8, true)] := by decide +kernel

theorem witness_PlansAreStagedActivatedAndStopped_accepted : activateCode live safePlan = 0 := by
  simp only [activateCode, safe_checks]
  decide +kernel

/-- Its image with `c` as CRC32C: 128 bytes of header, then the slot records. -/
def safeHeader (c : Nat) : List Byte :=
  descOf ([0x4C504E58 + 0xB0 * 2 ^ 32 + 2 ^ 40, 1280 + c * 2 ^ 32, 7, 36, 128 + 1280 * 2 ^ 32, 1280, 2 ^ 32] ++ List.replicate 9 0)
def safeRecords (us : List Nat) : List Byte := us.flatMap fun u => descOf [2200 * 2 ^ 21 + (2 ^ 20 - 1) * 2, 2200 * 2 ^ 44 + u, 255 * 2 ^ 56, u]
def safeImage (c : Nat) : List Byte := safeHeader c ++ safeUnits.flatMap safeRecords

/-- The CRC of a byte string, evaluated byte by byte. -/
def crcFrom : Nat → List Byte → Nat
  | c, [] => c
  | c, b :: bs => match crc32cByte c b with
    | 0 => crcFrom 0 bs
    | n + 1 => crcFrom (n + 1) bs

theorem crcFrom_eq (bs : List Byte) : ∀ c, crcFrom c bs = bs.foldl crc32cByte c := by
  induction bs with
  | nil => intro c; rfl
  | cons b bs ih =>
    intro c
    rw [crcFrom, List.foldl_cons]
    split <;> rename_i h <;> rw [ih, h]

theorem safe_crc : crc32c (safeImage 0) = 942956501 := by
  rw [crc32c, ← crcFrom_eq]
  decide +kernel

theorem safe_header : (safeHeader 942956501).take 12 ++ [0#8, 0#8, 0#8, 0#8] ++ (safeHeader 942956501).drop 16 = safeHeader 0 := by decide +kernel

theorem descOf_length (ws : List Nat) : (descOf ws).length = 8 * ws.length := by
  induction ws with
  | nil => rfl
  | cons w ws ih => simp only [descOf, List.flatMap_cons, List.length_append, leBytes_length, List.length_cons] at *; omega

theorem safe_header_length (c : Nat) : (safeHeader c).length = 128 := by simp [safeHeader, descOf_length]

theorem safe_crc_bytes : (safeImage 942956501).take 12 ++ [0#8, 0#8, 0#8, 0#8] ++ (safeImage 942956501).drop 16 = safeImage 0 := by
  have h := safe_header
  simp only [safeImage] at *
  rw [List.take_append_of_le_length (by rw [safe_header_length]; decide), List.drop_append_of_le_length (by rw [safe_header_length]; decide),
    ← List.append_assoc, h]

theorem safe_length : (safeImage 942956501).length = 1280 := by
  simp [safeImage, safe_header_length, safeUnits, safeRecords, descOf_length]

theorem safe_plan : planOf (safeImage 942956501) = safePlan := by decide +kernel

theorem witness_PlansAreStagedActivatedAndStopped_image : stageCode (safeImage 942956501) = 0 := by
  simp only [stageCode, headerOk, safe_crc_bytes, safe_crc, safe_length, safe_plan, safe_checks]
  decide +kernel

end Sys2Proof.Tests
end

