-- ==== Sys2Proof/Tests/Witness4.lean ====
section
/-! SUPPORT. Concrete states and operands that meet the hypotheses of the statements about the copy engines, the tensor engines, golden
signatures and the KV units. -/

-- One theorem at a time: checked side by side, these need more threads, each with a stack of its own, than the check's memory allows.
set_option Elab.async false

namespace Sys2Proof.Tests

open Sys2Proof Sys2Proof.Machine

/-! ### Copy engines -/

/-- Copy unit 40 works on the descriptor; the page list at 0x5000 names `a`. -/
def copying (ws : List Nat) (a : Nat) : State := withBytes (running (open_ live) 40 (jobFor ws)) 0x5000 (leBytes 8 a)

/-- STRIDED, GATHER, SCATTER and FILL of 64 bytes. -/
def stridedWords : List Nat := [0x21, 0x2000, 0x3000, 64 + 2 * 2 ^ 32, 64 + 64 * 2 ^ 32, 0, 0, 0]
def gatherWords : List Nat := [0x22, 0, 0x3000, 64, 0, 0x5000, 1, 0]
def scatterWords : List Nat := [0x23, 0x2000, 0, 64, 0, 0x5000, 1, 0]
def fillWords : List Nat := [0x24, 0x0102030405060708, 0x3000, 64, 0, 0, 0, 0]
def plainWords : List Nat := [0x20, 0x2000, 0x3000, 64, 0, 0, 0, 0]

/-- The rows may be read, their destinations written, and neither meets the other. -/
def movable (s : State) (d : List Byte) (rows : List (Nat × Nat)) : Bool :=
  rows.all (fun r => (checkRange s 40 8 0 clean r.1 (cpSrcBytes d)).1 == 0)
    && (copyDests d rows).all (fun w => (checkRange s 40 8 1 clean w.1 w.2).1 == 0)
    && (storageOf s (copyDests d rows)).all fun p => (storageOf s (rows.map fun r => (r.1, cpSrcBytes d))).all fun q => !(rangesMeet p q)

theorem witness_CopyEnginesMoveRows : isCopyUnit 40 = true ∧ clean.corr = []
    ∧ (∀ ws ∈ [plainWords, stridedWords, gatherWords, scatterWords, fillWords], copyOdd (descOf ws) = false ∧ cpConvert (descOf ws) = false)
    ∧ (workingJob (copying plainWords 0) 40 0x20 = some (jobFor plainWords) ∧ movable (copying plainWords 0) (descOf plainWords) [(0x2000, 0x3000)] = true)
    ∧ (workingJob (copying stridedWords 0) 40 0x21 = some (jobFor stridedWords) ∧ cpRows (descOf stridedWords) = 2
      ∧ movable (copying stridedWords 0) (descOf stridedWords) [(0x2000, 0x3000), (0x2040, 0x3040)] = true)
    ∧ (workingJob (copying gatherWords 0x2000) 40 0x22 = some (jobFor gatherWords) ∧ (checkRange (copying gatherWords 0x2000) 40 8 0 clean 0x5000 8).1 = 0
      ∧ listOdd 1 (readRange (copying gatherWords 0x2000) 0x5000 8) = false ∧ movable (copying gatherWords 0x2000) (descOf gatherWords) [(0x2000, 0x3000)] = true)
    ∧ (workingJob (copying scatterWords 0x3000) 40 0x23 = some (jobFor scatterWords) ∧ cpBcast (descOf scatterWords) = false
      ∧ listOdd 1 (readRange (copying scatterWords 0x3000) 0x5000 8) = false ∧ movable (copying scatterWords 0x3000) (descOf scatterWords) [(0x2000, 0x3000)] = true)
    ∧ (workingJob (copying fillWords 0) 40 0x24 = some (jobFor fillWords)
      ∧ ∀ w ∈ (cpTargets (descOf fillWords) 0x3000).map fun a => (a, 64), (checkRange (copying fillWords 0) 40 8 1 clean w.1 w.2).1 = 0)
    ∧ ((∀ ws ∈ [plainWords, stridedWords, gatherWords, fillWords], bcastLeft (descOf ws) 0x3000 = false)
      ∧ bcastLeft (descOf [0x21 + 2 ^ 8 + 2 ^ 26, 0x2000, 0xE004000000, 64 + 2 * 2 ^ 32, 64 + 0x3000000 * 2 ^ 32, 0, 0, 0]) (0xE004000000 + 1 * 0x3000000) = true)
    ∧ (checkRange (running live 40 (jobFor plainWords)) 40 8 0 clean 0x2000 64).1 ≠ 0 := by decide +kernel

/-! ### Tensor engines -/

/-- Position 0, served by engine 0, works on the descriptor. -/
def engineOn (ws : List Nat) : State := running (open_ (liveWith [(TE_STATUS_STATE 0, 1)])) 0 (jobFor ws)

/-- One by one by one FP32 elements at offsets 0 and 8, the result at 16. -/
def matmulWords : List Nat := [0x40 + 2 ^ 9, 8 * 2 ^ 32, 16, 1 + 2 ^ 20 + 2 ^ 40, 0, 0, 0, 0]
def convWords : List Nat :=
  [0x41 + 2 ^ 9, 8 * 2 ^ 32, 16, 2 ^ 48 + 2 ^ 32 + 2 ^ 16 + 1, 2 ^ 60 + 2 ^ 56 + 2 ^ 52 + 2 ^ 48 + 2 ^ 44 + 2 ^ 40 + 2 ^ 32 + 2 ^ 16 + 1, 8 * 2 ^ 16, 0, 0]
def eltwiseWords : List Nat := [0x42 + 2 ^ 27, 8 * 2 ^ 32, 16, 1 + 2 ^ 20, 0, 0, 0, 0]
def reduceWords : List Nat := [0x43, 0, 16, 1 + 2 ^ 20, 0, 0, 0, 0]

/-- The checks of `legal` in the statement. -/
def legalOn (ws : List Nat) (ins outs : List (Nat × Nat)) : Bool :=
  ins.all (fun r => (checkRange (engineOn ws) 0 8 0 clean (dieAddr 0 r.1) r.2).1 == 0)
    && outs.all (fun r => (checkRange (engineOn ws) 0 8 1 clean (dieAddr 0 r.1) r.2).1 == 0)
    && !(someMeet outs) && outs.all fun o => ins.all fun i => !(rangesMeet o i)

theorem witness_EnginesComputeTheirOutput : serving (engineOn matmulWords) 0 = some 0
    ∧ (workingJob (engineOn matmulWords) 0 0x40 = some (jobFor matmulWords) ∧ checkTensor 0 (descOf matmulWords) = none ∧ dRaw (descOf matmulWords) = true
      ∧ pairPath (dAFmt (descOf matmulWords)) (dBFmt (descOf matmulWords)) = some .float ∧ legalOn matmulWords [(0, 4), (8, 4)] [(16, 4)] = true
      ∧ (matOf (descOf matmulWords) .float).outRows = [(16, 4)] ∧ (matOf (descOf matmulWords) .float).aRanges ++ (matOf (descOf matmulWords) .float).bRows = [(0, 4), (8, 4)])
    ∧ (workingJob (engineOn convWords) 0 0x41 = some (jobFor convWords) ∧ checkTensor 0 (descOf convWords) = none ∧ dRaw (descOf convWords) = true
      ∧ (matOf (descOf convWords) .float).outRows = [(16, 4)] ∧ (matOf (descOf convWords) .float).aRanges ++ (matOf (descOf convWords) .float).bRows = [(0, 4), (8, 4)])
    ∧ (workingJob (engineOn eltwiseWords) 0 0x42 = some (jobFor eltwiseWords) ∧ checkTensor 0 (descOf eltwiseWords) = none ∧ isScaled (dOutFmt (descOf eltwiseWords)) = false
      ∧ dAct (descOf eltwiseWords) = false ∧ tensorRanges (descOf eltwiseWords) = ([(0, 4), (8, 4)], [(16, 4)]))
    ∧ (workingJob (engineOn reduceWords) 0 0x43 = some (jobFor reduceWords) ∧ checkTensor 0 (descOf reduceWords) = none
      ∧ tensorRanges (descOf reduceWords) = ([(0, 4)], [(16, 4)])) := by decide +kernel

/-! ### Golden signatures -/

/-- Engine 35 in state `st`, with a test requested or not, in a plan whose slot 3 is SAFE on its position and has started in the frame
of index 0. -/
def goldenOn (st : Nat) (test : Bool) : State :=
  let s := planned (liveWith [(TE_STATUS_STATE 35, st), (TE_STATUS_SERVES 35, 7)]) [⟨0, false, 0, 2200, 1, 2200, 0, 0, 0, 34, 255, 0, 0, 0, 3, false⟩]
  { s with plan := { s.plan with slots := [(3, { SlotRun.none with started := true })] }, eng := { s.eng with sigTest := if test then [35] else [] }, isl := { s.isl with awaiting := [90] } }

theorem witness_GoldenSignaturesAreCompared : (let s := goldenOn 1 false
      0 = s.frameIdx ∧ stepRun s 35 = true ∧ s.get (TE_STATUS_STATE 35) = 1 ∧ s.get (TE_STATUS_SERVES 35) < 16 ∧ s.eng.sigTest.contains 35 = false
        ∧ shownSig (goldenSig 0) (some (some 0)) = some (s.get (TE_GOLD_SIG_SIG 35 0)) ∧ shownSig (goldenSig 0) (some (some 1)) ≠ some (s.get (TE_GOLD_SIG_SIG 35 0))
        ∧ shownSig (goldenSig 0) (some none) = none ∧ (safeSlot s 34).map (·.id) = some 3 ∧ 1 ≠ s.frameIdx)
    ∧ ((goldenOn 2 false).get (TE_STATUS_STATE 35) = 2 ∧ stepRun (goldenOn 3 false) 35 = false)
    ∧ (let s := goldenOn 1 true
      s.eng.sigTest.contains 35 = true ∧ shownSig (goldenSig 0) (some (some (2 ^ 64 - 1))) = some (2 ^ 64 - 1 - s.get (TE_GOLD_SIG_SIG 35 0)) ∧ s.isl.awaiting.contains (55 + 35) = true)
    ∧ Reaches live 0x090 63 1 (pageAddr (pageTE 35) 0x010) 8 := by unfold Reaches; decide +kernel

/-- A spare in standby, with the SAFE slot of the first position of its die at the start of the frame. -/
theorem witness_GoldenSignaturesAreCompared_spare : (let s := planned (liveWith [(TE_STATUS_STATE 35, 2)]) [⟨0, false, 0, 2200, 1, 2200, 0, 0, 0, 27, 255, 0, 0, 0, 3, false⟩]
      stepRun s 35 = true ∧ s.get (TE_STATUS_STATE 35) = 2 ∧ s.get (TE_STATUS_SERVES 35) < 16) := by decide +kernel

/-- GOLDEN and KV_GOLD of step 19. -/
def goldenWords : List Nat := [0x44 + 2 ^ 31, 0, 0, 0, 0, 0, 0, 0]
def kvGoldWords : List Nat := [0x64 + 2 ^ 31, 0, 0, 0, 0, 0, 0, 0]

theorem witness_GoldenSignaturesAreCompared_jobs : workingJob (engineOn goldenWords) 0 0x44 = some (jobFor goldenWords) ∧ serving (engineOn goldenWords) 0 = some 0
    ∧ stepsOf (stepMask (descOf goldenWords)) = [19]
    ∧ shownSig (goldenSig 19) (wrongAt [(19, some 0)] 19) = some ((engineOn goldenWords).get (TE_GOLD_SIG_SIG 0 19))
    ∧ shownSig (goldenSig 19) (wrongAt [(19, some 1)] 19) ≠ some ((engineOn goldenWords).get (TE_GOLD_SIG_SIG 0 19)) := by decide +kernel

/-- KV unit 3 in use. -/
def kvOn (test : Bool) : State :=
  let s := planned (liveWith [(KV_STATUS_STATE 3, 1)]) [⟨0, false, 0, 2200, 1, 2200, 0, 0, 0, 39, 255, 0, 0, 0, 3, false⟩]
  { s with plan := { s.plan with slots := [(3, { SlotRun.none with started := true })] }, eng := { s.eng with kvSigTest := if test then [3] else [] } }

theorem witness_KvChecksAreCompared : (let s := kvOn false
      0 = s.frameIdx ∧ safeRunning s (36 + 3) = true ∧ s.plan.compared.contains (36 + 3) = false ∧ s.get (KV_STATUS_STATE 3) = 1 ∧ s.eng.kvSigTest.contains 3 = false ∧ (safeSlot s (36 + 3)).map (·.id) = some 3
        ∧ shownSig (kvSig 0) (some (some 0)) = some (s.get (KV_GOLD_SIG_SIG 3 0)) ∧ shownSig (kvSig 0) (some none) ≠ some (s.get (KV_GOLD_SIG_SIG 3 0)))
    ∧ safeRunning live (36 + 3) = false
    ∧ ((kvOn true).eng.kvSigTest.contains 3 = true ∧ shownSig (kvSig 0) (some (some 1)) = some 1)
    ∧ (let s := running live 39 (jobFor kvGoldWords)
      workingJob s 39 0x64 = some (jobFor kvGoldWords) ∧ s.eng.failedKv.contains (39 - 36) = false ∧ stepsOf (stepMask (descOf kvGoldWords)) = [19]
        ∧ shownSig (kvSig 19) (wrongAt [(19, some 0)] 19) = some (s.get (KV_GOLD_SIG_SIG 3 19)) ∧ shownSig (kvSig 19) (wrongAt [(19, none)] 19) ≠ some (s.get (KV_GOLD_SIG_SIG 3 19)))
    ∧ Reaches live 0x090 63 1 (pageAddr (pageKV 3) 0x010) 8 := by unfold Reaches; decide +kernel

/-! ### KV units -/

/-- A context of LENGTH `len` in FP16, D 64, one layer-head, whose page list at 0x50000 has one place. -/
def ctxData (len : Nat) : List Byte :=
  descOf [len + 2 ^ 35, 0x50000 + 2 ^ 48, 2 ^ 32, 0, 0, 0x3F800000 + 0x3F800000 * 2 ^ 32, 0, 0, 0, 0, 0, 0, 0, 0, 0, 0]

/-- Unit 36 works on the descriptor, whose batch at 0x70000 names context 5 with `qrows` query rows; the context's page has the
PTE `pte`, and `pinned` contexts beside it are pinned. -/
def kvWith (ws : List Nat) (len qrows pte pinned : Nat) : State :=
  let s := running (open_ (liveWith [(KV_POOL_PAGES_PAGES 0, 1), (KV_PT_BASE_BASE 0, 0x60), (KV_POOL_BASE_BASE 0, 0x10)])) 36 (jobFor ws)
  let t := withBytes (withBytes (withBytes s 0x50000 (leBytes 4 (2 ^ 31))) 0x60000 (leBytes 8 pte)) 0x70000 (leBytes 8 (5 + qrows * 2 ^ 32))
  { t with hot := { t.hot with entries := (5, ⟨ctxData len, false, false, false⟩) :: (List.range pinned).map fun i => (6 + i, ⟨[], true, false, false⟩) } }

/-- A PTE of a valid page of context 5 with one token. -/
def goodPte : Nat := 2 ^ 62 + 5 * 2 ^ 40 + 1

/-- The batch of one entry: list, NSEQ. -/
def batchWord : Nat := 0x70000 + 2 ^ 48

def appendWords : List Nat := [0x60 + 2 ^ 12, 0x4000000 + 0x4000100 * 2 ^ 32, 0, 0, batchWord, 2 ^ 12, 0, 0]
def attnWords : List Nat := [0x61 + 2 ^ 12, 0x4000000 + 0x4000100 * 2 ^ 32, 0, 0x4000800 + 0x3F800000 * 2 ^ 32, batchWord, 2 ^ 12, 0, 0]
def bwdWords : List Nat :=
  [0x62 + 2 ^ 12, 0x4000000 + 0x4000100 * 2 ^ 32, 0x4000200 + 0x4000400 * 2 ^ 32, 0x4000600 + 0x4000900 * 2 ^ 32, batchWord, 2 ^ 12 + 0x4000800 * 2 ^ 32, 0, 0x3F800000 * 2 ^ 32]
def ctxWords (op w1 : Nat) : List Nat := [0x63 + op * 2 ^ 27, w1, 0, 0, batchWord, if op = 7 then 2 ^ 12 else 0, 0, 0]

/-- The result of an entry: 0 it runs, 1 it stops with a status of its own, 2 an access fails. -/
def howItEnds {α : Type} : Except Stop α → Nat
  | .ok _ => 0
  | .error x => if x.res.1 = 0 then 1 else 2

/-- KV unit 36 takes the entry of context 5 after it has read its batch list. -/
def takesEntry (s : State) (ws : List Nat) : State :=
  (s.act (chargeSpans 36 8 (spans (batchE s 36 8 clean (descOf ws))))).act (useCtx 8 5)

/-- Whether a batch reads as these entries. -/
def givesBatch : Except Stop (List Entry) → List Entry → Bool
  | .ok x, y => x == y
  | .error _, _ => false

/-- The one entry of that batch. -/
def entry5 (qrows : Nat) : Entry := ⟨5, qrows, 0, 0, true⟩

theorem witness_KvUnitsRunTheirEntries : (∀ ws ∈ [appendWords, attnWords, bwdWords], checkKv false (descOf ws) = none)
    ∧ (workingJob (kvWith appendWords 1 1 goodPte 0) 36 0x60 = some (jobFor appendWords) ∧ givesBatch (result <| batchE (kvWith appendWords 1 1 goodPte 0) 36 8 clean (descOf appendWords)) [entry5 1] = true
      ∧ (mget (kvWith appendWords 1 1 goodPte 0).hot.entries 5).isSome = true
      ∧ howItEnds (result <| appendEntry (takesEntry (kvWith appendWords 1 1 goodPte 0) appendWords) 36 8 clean (descOf appendWords) (entry5 1)) = 0
      ∧ howItEnds (result <| appendEntry (takesEntry (kvWith appendWords 1 1 0 0) appendWords) 36 8 clean (descOf appendWords) (entry5 1)) = 1)
    ∧ (workingJob (kvWith attnWords 1 1 goodPte 0) 36 0x61 = some (jobFor attnWords) ∧ givesBatch (result <| batchE (kvWith attnWords 1 1 goodPte 0) 36 8 clean (descOf attnWords)) [entry5 1] = true
      ∧ howItEnds (result <| attnEntry (takesEntry (kvWith attnWords 1 1 goodPte 0) attnWords) 36 8 clean [] [] 0 (descOf attnWords) (entry5 1)) = 0
      ∧ howItEnds (result <| attnEntry (takesEntry (kvWith attnWords 1 1 0 0) attnWords) 36 8 clean [] [] 0 (descOf attnWords) (entry5 1)) = 1)
    ∧ (workingJob (kvWith bwdWords 1 1 goodPte 0) 36 0x62 = some (jobFor bwdWords) ∧ givesBatch (result <| batchE (kvWith bwdWords 1 1 goodPte 0) 36 8 clean (descOf bwdWords)) [entry5 1] = true
      ∧ howItEnds (result <| bwdEntry false (takesEntry (kvWith bwdWords 1 1 goodPte 0) bwdWords) 36 8 clean [] (descOf bwdWords) (entry5 1)) = 0
      ∧ howItEnds (result <| bwdEntry false (takesEntry (kvWith bwdWords 1 1 0 0) bwdWords) 36 8 clean [] (descOf bwdWords) (entry5 1)) = 1) := by decide +kernel

/-- One entry's operands, context and page can be used: the premises of the statement, for one row and one page. -/
def usable1 (ws : List Nat) (reads writes : List (Nat × Nat)) : Bool :=
  let s := takesEntry (kvWith ws 1 1 goodPte 0) ws
  reads.all (fun r => inDie r.1 r.2 && (checkRange s 36 8 0 clean (dieAddr 0 r.1) r.2).1 == 0)
    && writes.all (fun r => inDie r.1 r.2 && (checkRange s 36 8 1 clean (dieAddr 0 r.1) r.2).1 == 0)

/-- The page of that entry, when it can be used. -/
def page1 (ws : List Nat) : Option PageRef := match result (pageE (takesEntry (kvWith ws 1 1 goodPte 0) ws) 36 8 clean (ctxData 1) 0) with
  | .ok p => some p
  | .error _ => none

theorem witness_KvEntriesComplete : ctxOk (ctxData 1) = true ∧ 1 ≤ cLength (ctxData 1) ∧ kvRope (descOf appendWords) = false ∧ kvHeads (descOf appendWords) = [0]
    ∧ (ctxBytes (takesEntry (kvWith appendWords 1 1 goodPte 0) appendWords) 5 = ctxData 1 ∧ appendBlocks (ctxData 1) 1 = [0]
      ∧ usable1 appendWords [(0x4000000, rowBytes (kvQFmt (descOf appendWords)) 64), (0x4000100, rowBytes (kvQFmt (descOf appendWords)) 64)] [] = true
      ∧ (page1 appendWords).map (fun p => (p.owned 5, p.addr, p.pteAddr, fillsPage (ctxData 1) p 0 1)) = some (true, 0x80000, 0x60000, false)
      ∧ ∀ r ∈ [(0x80000, 128), (0x84000, 128), (0x60000, 8)], (checkRange (takesEntry (kvWith appendWords 1 1 goodPte 0) appendWords) 36 8 1 clean r.1 r.2).1 = 0) := by
  decide +kernel

theorem witness_KvEntriesComplete_attn : kvRope (descOf attnWords) = false ∧ kvRetrieve (descOf attnWords) = false ∧ kvHeads (descOf attnWords) = [0]
    ∧ howItEnds (result <| maskE (takesEntry (kvWith attnWords 1 1 goodPte 0) attnWords) 36 8 clean (ctxData 1) 1) = 0
    ∧ usable1 attnWords [(0x4000000, rowBytes (kvQFmt (descOf attnWords)) 64)] [(0x4000100, rowBytes (dOutFmt (descOf attnWords)) 64), (0x4000800, 8)] = true
    ∧ (page1 attnWords).map (fun p => (p.present, p.addr, p.accepted [] (pteGen p.pte) 5)) = some (true, 0x80000, true)
    ∧ ∀ n ≤ 64, (checkRange (takesEntry (kvWith attnWords 1 1 goodPte 0) attnWords) 36 8 0 clean 0x80000 n).1 = 0 := by decide +kernel

theorem witness_KvEntriesComplete_bwd : kvRope (descOf bwdWords) = false ∧ kvHeads (descOf bwdWords) = [0]
    ∧ howItEnds (result <| maskE (takesEntry (kvWith bwdWords 1 1 goodPte 0) bwdWords) 36 8 clean (ctxData 1) 1) = 0
    ∧ usable1 bwdWords [(0x4000000, rowBytes (kvQFmt (descOf bwdWords)) 64), (0x4000100, rowBytes (kvQFmt (descOf bwdWords)) 64), (0x4000200, rowBytes (kvQFmt (descOf bwdWords)) 64),
        (0x4000800, 8)] [(0x4000400, 256), (0x4000900, 256), (0x4000600, 256)] = true
    ∧ (page1 bwdWords).map (fun p => (p.addr, p.accepted [] (pteGen p.pte) 5)) = some (0x80000, true)
    ∧ ∀ n ≤ 64, (checkRange (takesEntry (kvWith bwdWords 1 1 goodPte 0) bwdWords) 36 8 0 clean 0x84000 n).1 = 0 := by decide +kernel

/-- A CTX job of operation `op` on context 5 of LENGTH `len`. -/
def ctxOn (op len qrows pinned : Nat) : State := kvWith (ctxWords op 0x90000) len qrows goodPte pinned

theorem witness_ContextsAreWrittenAndPinned : (∀ op < 8, checkKv false (descOf (ctxWords op 0x90000)) = none
      ∧ workingJob (ctxOn op 1 1 0) 36 0x63 = some (jobFor (ctxWords op 0x90000)) ∧ givesBatch (result <| batchE (ctxOn op 1 1 0) 36 8 clean (descOf (ctxWords op 0x90000))) [entry5 1] = true
      ∧ (mget (ctxOn op 1 1 0).hot.entries 5).isSome = true ∧ dOpx (descOf (ctxWords op 0x90000)) = op
      ∧ (checkRange (takesEntry (ctxOn op 1 1 0) (ctxWords op 0x90000)) 36 8 0 clean 0x90000 128).1 = 0 ∧ (checkRange (takesEntry (ctxOn op 1 1 0) (ctxWords op 0x90000)) 36 8 1 clean 0x90000 128).1 = 0
      ∧ ((takesEntry (ctxOn op 1 1 0) (ctxWords op 0x90000)).unit 36).running = some (jobFor (ctxWords op 0x90000)))
    ∧ (ctxOk (ctxData 1048575) = true ∧ cLength (ctxData 1048575) + 1 ≤ 1048576 ∧ 1048576 < cLength (ctxData 1048575) + 2 ∧ cLength (ctxData 0) < 1 ∧ cIdx (ctxData 1) = 0)
    ∧ (wouldPin (ctxOn 4 1 1 3583) 5 ≤ 3584 ∧ 3584 < wouldPin (ctxOn 4 1 1 3584) 5) := by decide +kernel

theorem witness_ContextsAreWrittenAndPinned_pages :
    howItEnds (result <| eachPage 36 (jobFor (ctxWords 3 0x90000)) clean (takesEntry (ctxOn 3 1 0 0) (ctxWords 3 0x90000)) (ctxData 1) ((List.range (cBlocks (ctxData 1) - 0 / cTpp (ctxData 1))).map fun i => 0 / cTpp (ctxData 1) + i)
        fun b p => writeRange p.pteAddr (leBytes 8 (pteSetFill (pteBump p.pte) (if b = 0 / cTpp (ctxData 1) then 0 % cTpp (ctxData 1) else 0)))) = 0
    ∧ (checkRange (takesEntry (ctxOn 6 1 0 0) (ctxWords 6 0x90000)) 36 8 1 clean (cPlHead (ctxData 1)) (4 * min (cPlCap (ctxData 1)) (cBlocks (ctxData 1) * cLh (ctxData 1)))).1 = 0
    ∧ howItEnds (result <| eachPage 36 (jobFor (ctxWords 6 0x90000)) clean (takesEntry (ctxOn 6 1 0 0) (ctxWords 6 0x90000)) (ctxData 1) (List.range (cBlocks (ctxData 1))) fun _ p =>
        seq [writeRange p.pteAddr (leBytes 8 (clearBit (pteBump p.pte) 62)), charge 36 8 true (cPlHead (ctxData 1) + 4 * p.lp) 4, writeRange (cPlHead (ctxData 1) + 4 * p.lp) (leBytes 4 (clearBit p.entry 31))]) = 0 := by decide +kernel

end Sys2Proof.Tests
end

