-- ==== Sys2Proof/Tests/Witness5.lean ====
section
/-! SUPPORT. Concrete states and operands that meet the hypotheses of the statements about the fusion unit, Midway, Trapeze and the
record pipeline. -/

-- One theorem at a time: checked side by side, these need more threads, each with a stack of its own, than the check's memory allows.
set_option Elab.async false

namespace Sys2Proof.Tests

open Sys2Proof Sys2Proof.Machine

/-- Whether an access or a list of accesses went well. -/
def fine {α : Type} : Except Stop α → Bool
  | .ok _ => true
  | .error _ => false

/-- The value of a read that went well. -/
def got {α : Type} (x : Except Stop α) (d : α) : α := match x with
  | .ok a => a
  | .error _ => d

/-! ### The fusion unit -/

/-- Stream 3 on port `p` with SEL `sel`, ten seconds after reset, in group 2 or in none, with further fields. -/
def streaming (p sel : Nat) (grouped : Bool) (fs : List (Fld × Nat)) : State :=
  let s := open_ (liveWith ([(FU_CTRL_EN, 1), (FU_STREAM_CFG_EN 3, 1), (FU_STREAM_CFG_PORT 3, p), (FU_STREAM_SEL_SEL 3, sel), (FU_STREAM_RING_RING_BASE 3, 0x10000),
    (FU_STREAM_RING_SLOT_LOG2 3, 6), (FU_STREAM_CFG_IN_GROUP 3, if grouped then 1 else 0), (FU_STREAM_CFG_GROUP 3, 2)] ++ fs))
  { s with time := { s.time with sec := 10 } }

/-- A sample of 8 bytes at 9.5 s. -/
def sample8 (sel : Nat) : Arrival := ⟨leBytes 8 9500000000, 9500000000, sel, true⟩

/-- RAW8 in a CSI-2 selector. -/
def selRaw8 : Nat := 0x2A0

theorem witness_SamplesEnterTheirStream : 8 ≤ (sample8 0).data.length ∧ takes (streaming 0 selRaw8 false []) 3 1 0 = false ∧ takes (streaming 0 selRaw8 false []) 3 0 selRaw8 = true
    ∧ csiTypeOk (csiType (streaming 0 selRaw8 false []) 3) = true ∧ (sample8 selRaw8).good = true
    ∧ takes (streaming 1 0 false []) 3 1 0 = true ∧ takes (streaming 2 7 false []) 3 2 0 = true ∧ takes (streaming 3 0 false []) 3 3 0 = true
    ∧ takes (streaming 4 0 false []) 3 4 0 = true
    ∧ (∀ p < 5, tsDiscarded ((streaming p 0 false []).stream 3) 9500000000 (streaming p 0 false []).timestamp = false
      ∧ tsDiscarded ((streaming p 0 false []).stream 3) 10500000000 (streaming p 0 false []).timestamp = true)
    ∧ Reaches (streaming 1 0 false []) initFU (fuTicket (streaming 1 0 false [])) 1 (slotAddr (streaming 1 0 false []) 3 0) (32 + 8) := by
  unfold Reaches; decide +kernel

theorem witness_SamplesEnterTheirStream_derived : (let s := withBytes (streaming 5 0 false [(CE_CTR_VALUE 0 0, 1)]) 0x10000 (leBytes 8 9500000000 ++ leBytes 8 0 ++ leBytes 4 16)
      streamOn s 3 = true ∧ s.get (FU_STREAM_CFG_PORT 3) = 5 ∧ s.get (CE_CTR_VALUE (field 0 9 8) (field 0 7 0)) ≠ 0 ∧ s.get (FU_STREAM_SEL_SEL 3) = 0
        ∧ Reaches s initFU (fuTicket s) 1 (slotAddr s 3 0) 32 ∧ Reaches s initFU (fuTicket s) 0 (slotAddr s 3 0) (32 + min (le (readRange s (slotAddr s 3 0) 32) 16 4) (slotRoom s 3))
        ∧ le (readRange s (slotAddr s 3 0) 32) 0 8 = 9500000000)
    ∧ (streaming 5 0 false []).get (CE_CTR_VALUE 0 0) = 0 := by unfold Reaches; decide +kernel

/-- The spaces that the boundary values of the other clauses need: a late sample, the end of a window, mirrored IMU samples. -/
theorem witness_SamplesEnterTheirStream_edges :
    (let s := streaming 1 0 true [(FU_GROUP_LAST_OUT_TIME 2, 9600000000), (FU_STREAM_LATE_LWIN 3, 16), (FU_STREAM_WIN_WIN_SEEN 3, 15), (FU_STREAM_LATE_LATE_THR 3, 8)]
      let t := { s with fu := { s.fu with groups := [(2, ⟨none, none, some 1, [], [], [], [], 0⟩)] } }
      isLate t 3 9500000000 = true ∧ lwin t 3 ≤ t.get (FU_STREAM_WIN_WIN_SEEN 3) + 1 ∧ t.get (FU_STREAM_LATE_LATE_THR 3) * lwin t 3 < 1024 * 1)
    ∧ isLate (streaming 1 0 true []) 3 9500000000 = false ∧ (streaming 1 0 true []).get (FU_STREAM_WIN_WIN_SEEN 3) + 1 < lwin (streaming 1 0 true []) 3
    ∧ (let s := streaming 2 7 false [(EL_NET_CFG_IMU_EN, 1), (EL_NET_CFG_IMU_STREAM, 3)]
      (s.is EL_NET_CFG_IMU_EN && s.get EL_NET_CFG_IMU_STREAM == 3 && s.get (FU_STREAM_CFG_PORT 3) == 2 && s.is (FU_STREAM_CFG_EN 3)) = true)
    ∧ (let s := streaming 1 0 false [(FU_STREAM_CFG_POST_EN 3, 1)]
      s.is (FU_STREAM_CFG_POST_EN 3) = true ∧ s.get (FU_STREAM_CFG_PORT 3) ≠ 5 ∧ s.get (CE_CTR_VALUE 0 0) ≤ 0xFFFF)
    ∧ Reaches live 0x090 63 1 (pageAddr pageFU (0x1000 + 32 * 3)) 8 ∧ Reaches live 0x090 (ticketOf live 0x090) 1 (pageAddr pageFU (0x2000 + 32 * 3)) 4
    ∧ (let s := liveWith ((List.range 17).map fun k => (FU_STREAM_CFG_EN k, if k = 3 then 0 else 1))
      s.get (FU_STREAM_CFG_PORT 3) = 0 ∧ 16 ≤ ((List.range 64).filter fun k => k != 3 && s.is (FU_STREAM_CFG_EN k) && s.get (FU_STREAM_CFG_PORT k) == 0).length
        ∧ s.get (ERRW_VALID pageFU) = 0) := by unfold Reaches; decide +kernel

/-- Group 2 with one REQUIRED member, stream 3; its cycle is open, and the sample there or not. -/
def aligning (there : Bool) (now : Nat) (held : Option Held) : State :=
  let s := streaming 1 0 true [(FU_GROUP_CFG_EN 2, 1), (FU_STREAM_CFG_ROLE 3, 1)]
  { s with grid := { s.grid with running := true, now := now }
           fu := { s.fu with groups := [(2, ⟨some ⟨0, 1000, 500, [], 0⟩, held, none, [], [], [], [], 0⟩)], streams := if there then [(3, ⟨1, some 900, [⟨0, 900, 0x10000⟩], none⟩)] else [] } }

/-- The samples that make stream `i` present in a cycle, newest last. -/
def presentIn (s : State) (c : Cycle) (i : Nat) : List Sample := if s.is (FU_STREAM_LATE_UNREL i) then []
  else ((s.stream i).samples.filter fun a => decide (c.tPrev < (a.ts : Int)) && a.ts ≤ c.tRef).reverse

/-- The closed cycle 0 of a group. -/
def held0 : Held := ⟨0, ⟨0, 1000, 500, [], 0⟩, [], [], 0, []⟩

/-- FUSE works on group 2, of kind STATE (0) or SCENE (1). -/
def fusing (kind : Nat) (held : Option Held) (slot : Option Nat) (en : Bool) : State :=
  let s := running (streaming 1 0 false [(FU_GROUP_CFG_EN 2, if en then 1 else 0), (FU_GROUP_CFG_KIND 2, kind), (FU_GROUP_PB_PB 2, 0x20000), (FU_GROUP_RES_RES_BASE 2, 0x30000)]) 107
    { jobFor [0x80 + 2 * 2 ^ 27, 0, 0, 0, 0, 0, 0, 0] with slot := slot }
  { s with fu := { s.fu with groups := [(2, ⟨none, held, none, [], [], [], [], 0⟩)] } }

theorem witness_FusionCyclesCloseAndAreProcessed : ((aligning true 0 none).fgroup 1).opened = none ∧ ((aligning true 0 none).fgroup 2).opened = some ⟨0, 1000, 500, [], 0⟩
    ∧ members (aligning true 0 none) 2 = [(0, 3)]
    ∧ (∀ m ∈ members (aligning true 0 none) 2, presentIn (aligning true 0 none) ⟨0, 1000, 500, [], 0⟩ m.2 ≠ [])
    ∧ presentIn (aligning false 0 none) ⟨0, 1000, 500, [], 0⟩ 3 = [] ∧ (aligning false 0 none).is (FU_STREAM_CFG_ROLE 3) = true
    ∧ (aligning false 0 none).is (FU_STREAM_LATE_UNREL 3) = false
    ∧ (let s := { aligning false 0 none with regs := putFld (aligning false 0 none).regs (FU_GROUP_CFG_WAIT 2) 5 }
      s.grid.now < closeLimit s 2 ⟨0, 1000, 500, [], 0⟩ ∧ closeLimit s 2 ⟨0, 1000, 500, [], 0⟩ = 55000)
    ∧ closeLimit (aligning false 549999 none) 2 ⟨0, 1000, 500, [], 0⟩ ≤ (aligning false 549999 none).grid.now
    ∧ ((aligning true 0 (some held0)).fgroup 2).held ≠ none := by decide +kernel

theorem witness_FusionCyclesCloseAndAreProcessed_fuse : workingJob (fusing 0 none none true) unitFU 0x81 = none
    ∧ (let s := fusing 0 none none true
      (workingJob s unitFU 0x80).isSome = true ∧ (workingJob s unitFU 0x80).map (fun j => (fuseGroup j.desc, j.slot)) = some (2, none) ∧ (s.fgroup 2).held = none)
    ∧ (let s := fusing 0 (some held0) (some 7) false
      (workingJob s unitFU 0x80).map (fun j => j.slot) = some (some 7) ∧ s.is (FU_GROUP_CFG_EN 2) = false)
    ∧ (let s := fusing 0 (some held0) none true
      (s.fgroup 2).held = some held0 ∧ membersClash s 2 = false ∧ s.is (FU_GROUP_CFG_KIND 2) = false ∧ (checkRange s unitFU 8 1 clean (resultBase s 2 0) 1088).1 = 0)
    ∧ (let s := fusing 0 (some held0) (some 7) true
      s.is (FU_GROUP_CFG_EN 2) = true ∧ held0.info.at_ = s.grid.boundaryAt)
    ∧ (let s := fusing 1 (some held0) none true
      let r := sceneResult s 2 held0 (scenePar (got (readOk s unitFU 8 clean 0x20000 128) [])) []
      s.is (FU_GROUP_CFG_KIND 2) = true ∧ fine (readOk s unitFU 8 clean (s.get (FU_GROUP_PB_PB 2)) 128) = true ∧ held0.snap = []
        ∧ ((resultBase s 2 0, 64) :: (resultBase s 2 0 + r.unused.1, r.unused.2) :: r.sections.map fun q => (resultBase s 2 0 + q.1, q.2.length)).all (fun w => (checkRange s unitFU 8 1 clean w.1 w.2).1 == 0) = true)
    ∧ Reaches live 0x090 (ticketOf live 0x090) 1 (pageAddr pageFU (0x3000 + 32 * 2)) 8 ∧ Reaches live 0x090 (ticketOf live 0x090) 1 (pageAddr pageFU 0x230) 8
    ∧ mget live.fu.online 3 = none ∧ mget { live.fu with online := [(3, ([], []))] }.online 3 = some ([], []) := by unfold Reaches; decide +kernel

/-! ### Midway -/

/-- Midway works on a descriptor of `op` with word 1 `w1` and word 2 `w2`. -/
def midway (op w1 w2 : Nat) (fs : List (Fld × Nat)) : State := running (open_ (liveWith fs)) 106 (jobFor [op, w1, w2, 0, 0, 0, 0, 0])

/-- A map of one cell of 1 m in the origin of the map frame. -/
def oneCell : List (Fld × Nat) := [(MW_MAP_RES_RES, 0x3F800000), (MW_STATUS_MAP_VALID, 1), (MW_GEN_FRONT_GEN, 3)]

/-- A parameter block of MAP_FUSE: C, GS, GX and GY are 1, the grid at 64 and the bitmap at 128 of the result. -/
def fuseBlock : List Byte := leBytes 4 64 ++ leBytes 4 128 ++ leBytes 8 (2 ^ 25 + 2 ^ 18 + 2 ^ 9 + 1)

/-- A PLAN request at the cell's centre: BAND 1, and any heading and posture as goal. -/
def planBlock : List Byte :=
  leBytes 4 0x3F000000 ++ leBytes 4 0x3F000000 ++ leBytes 4 0x3F000000 ++ leBytes 12 0 ++ leBytes 8 (2 ^ 31 + 16 * 2 ^ 18) ++ leBytes 4 0 ++ leBytes 4 1

theorem witness_MidwayKeepsItsMapAndPlans : Reaches live 0x090 (ticketOf live 0x090) 1 (pageAddr pageMW 0x010) 8
    ∧ live.is MW_CTRL_EN = false ∧ (liveWith [(MW_CTRL_EN, 1)]).is MW_CTRL_EN = true ∧ mwClearing live = false ∧ mwClearing (liveWith [(MW_STATUS_CLEARING, 1)]) = true
    ∧ workingJob live unitMW 0x92 = none ∧ mwBusyMap (liveWith [(MW_STATUS_COPY_PEND, 1)]) = true
    ∧ (workingJob (midway 0x92 0 0 []) unitMW 0x92).isSome = true ∧ mwBusyMap (midway 0x92 0 0 []) = false
    ∧ (let s := midway 0x92 0 0 []
      let t := { s with rm := { s.rm with units := mset s.rm.units 106 { s.unit 106 with suspended := some (jobFor [0x93, 0, 0, 0, 0, 0, 0, 0]) } } }
      (t.unit unitMW).suspended.map (fun k => (k.status, dOpcode k.desc)) = some (none, 0x93) ∧ (workingJob t unitMW 0x92).isSome = true)
    ∧ live.is MW_STATUS_COPY_PEND = false ∧ (liveWith [(MW_STATUS_COPY_PEND, 1)]).is MW_STATUS_COPY_PEND = true
    ∧ live.mem.wf ∧ lostAt live.mem.lost (mapBuf (mwFront live) + 5) = none := by unfold Reaches; decide +kernel

theorem witness_MidwayKeepsItsMapAndPlans_updates :
    (let s := withBytes (midway 0x90 0x6000 2 [(MW_MAP_CFG_NX, 1)]) 0x6000 (leBytes 4 (2 ^ 24) ++ leBytes 4 5)
      let bs := got (readOk s unitMW 8 clean 0x6000 8) []
      (workingJob s unitMW 0x90).isSome = true ∧ fine (readOk s unitMW 8 clean (dField (descOf [0x90, 0x6000, 2, 0, 0, 0, 0, 0]) 1 47 0) 8) = true
        ∧ fine (mapMeetsE s clean ((cellsUpd s 2 bs).1.offsets s)) = true ∧ (cellsUpd s 2 bs).1.bits = [(0, 1)] ∧ (cellsUpd s 2 bs).2 = 1)
    ∧ (let s := withBytes (midway 0x91 0x8000 0x6000 []) 0x6000 fuseBlock
      fuseParOk (readRange s 0x6000 64) (fusePar (readRange s 0x6000 64)) = true ∧ fine (result (fuseReadE s clean (jobFor [0x91, 0x8000, 0x6000, 0, 0, 0, 0, 0]))) = true
        ∧ fine (mapMeetsE s clean [0]) = true ∧ (workingJob s unitMW 0x91).isSome = true)
    ∧ (let s := midway 0x91 0x8000 0x6000 []
      fine (readOk s unitMW 8 clean 0x6000 64) = true ∧ fuseParOk (readRange s 0x6000 64) (fusePar (readRange s 0x6000 64)) = false) := by decide +kernel

/-- PLAN at block 0x6000: MAX_EXP 1, K_OUT 1. -/
def planning (block : List Byte) (fs : List (Fld × Nat)) : State := withBytes (midway 0x93 0x6000 (1 + 2 ^ 16) fs) 0x6000 block

theorem witness_MidwayKeepsItsMapAndPlans_plan :
    (workingJob (planning planBlock oneCell) unitMW 0x93).isSome = true ∧ fine (readOk (planning planBlock oneCell) unitMW 8 clean 0x6000 128) = true
    ∧ (let s := planning (leBytes 128 0) oneCell
      reqOk s (readRange s 0x6000 128) (reqOf (readRange s 0x6000 128)) = false)
    ∧ (let s := planning planBlock []
      reqOk s (readRange s 0x6000 128) (reqOf (readRange s 0x6000 128)) = true ∧ s.is MW_STATUS_MAP_VALID = false)
    ∧ (let s := planning (leBytes 4 0x40000000 ++ planBlock.drop 4) oneCell
      reqOk s (readRange s 0x6000 128) (reqOf (readRange s 0x6000 128)) = true ∧ s.is MW_STATUS_MAP_VALID = true
        ∧ (got ((planE s clean ⟨1, 1, 0⟩ (reqOf (readRange s 0x6000 128))).map fun x => x.isNone) false) = true)
    ∧ (let s := planning planBlock (oneCell ++ [(MW_MARGIN_MARGIN, 0xC1200000)])
      reqOk s (readRange s 0x6000 128) (reqOf (readRange s 0x6000 128)) = true
        ∧ (got ((planE s clean ⟨1, 1, 0⟩ (reqOf (readRange s 0x6000 128))).map fun x => x.isSome) false) = true) := by decide +kernel

/-- EMIT of pose 0x6000 to 0x8000 with `n` candidates of the set of generation 3. -/
def emitting (n lost : Nat) (fs : List (Fld × Nat)) : State :=
  let s := midway 0x94 0x6000 0x8000 (oneCell ++ [(MW_LOST_GEN_LOST_GEN, lost)] ++ fs)
  { s with mw := { s.mw with nCand := n, setGen := 3 } }

theorem witness_MidwayKeepsItsMapAndPlans_emit :
    (workingJob (emitting 0 0 []) unitMW 0x94).isSome = true ∧ fine (readOk (emitting 0 0 []) unitMW 8 clean 0x6000 32) = true
    ∧ (checkRange (emitting 0 0 []) unitMW 8 1 clean 0x8000 (holdBytes (emitting 0 0 []) 0 8 (leBytes 32 0)).length).1 = 0
    ∧ (let s := emitting 1 0 []
      decide (s.mw.setGen ≤ s.get MW_LOST_GEN_LOST_GEN) = false ∧ got (ringCellsE s clean 3) [1] = []
        ∧ got ((pickE s clean (some []) 1).map fun x => x.isSome) false = true)
    ∧ (let s := emitting 1 3 []
      decide (s.mw.setGen ≤ s.get MW_LOST_GEN_LOST_GEN) = true ∧ fine (pickE s clean none 1) = true) := by decide +kernel

/-! ### Trapeze -/

/-- Trapeze works on a descriptor; `block` stands at 0x6000. -/
def solving (ws : List Nat) (block : List Byte) : State := withBytes (running (open_ live) 104 (jobFor ws)) 0x6000 block

/-- A dense problem of one variable without constraints: ITERS 8, positive σ, ρ and ε. -/
def denseHeader (n : Nat) : List Byte :=
  leBytes 8 (8 * 2 ^ 40) ++ leBytes 8 n ++ leBytes 16 0 ++ leBytes 4 1 ++ leBytes 4 1 ++ leBytes 4 1 ++ leBytes 4 0 ++ leBytes 4 1 ++ leBytes 4 0
    ++ (List.range 5).flatMap (fun i => leBytes 8 (0x9000 + 64 * i)) ++ leBytes 32 0

/-- SOLVE of the problem at 0x6000 with the state block at 0x7000 and the output at 0x8000. -/
def solveWords : List Nat := [0xA0, 0x6000, 0x7000, 0x8000, 0, 0, 0, 0]

theorem witness_SolverJobsWriteTheirOutput : workingJob live unitTP 0xA0 = none ∧ workingJob live unitTP 0xA1 = none
    ∧ (let s := solving solveWords (denseHeader 1)
      let h := hdrOf (readRange s 0x6000 128)
      workingJob s unitTP 0xA0 = some (jobFor solveWords) ∧ (s.unit unitTP).suspended = none ∧ fine (readOk s unitTP 8 clean 0x6000 128) = true
        ∧ hdrOk (readRange s 0x6000 128) h = true ∧ (if h.mpc then h.nh else h.n) = 1 ∧ fine (readOk s unitTP 8 clean 0x7000 68) = true
        ∧ fine (mapE (fun a => readOk s unitTP 8 clean a.1 a.2) h.arrays) = true ∧ (startOf h (mget s.tp (phys s 0x7000)) (readRange s 0x7000 68)).moved = false
        ∧ Reaches s unitTP 8 1 0x8000 68 ∧ Reaches s unitTP 8 1 0x7000 68 ∧ jobSlotType s (jobFor solveWords) = 0)
    ∧ (let s := solving solveWords (denseHeader 0)
      let h := hdrOf (readRange s 0x6000 128)
      hdrOk (readRange s 0x6000 128) h = true ∧ (if h.mpc then h.nh else h.n) = 0)
    ∧ (let s := solving solveWords (leBytes 128 0)
      hdrOk (readRange s 0x6000 128) (hdrOf (readRange s 0x6000 128)) = false) := by unfold Reaches; decide +kernel

/-- A job of CTRL slot 1 whose problem has DEADLINE 1 is late. -/
theorem witness_SolverJobsWriteTheirOutput_late :
    (let j := { jobFor solveWords with slot := some 1 }
      let b := (denseHeader 1).take 24 ++ leBytes 8 1 ++ (denseHeader 1).drop 32
      let s := planned (withBytes (running (open_ live) 104 j) 0x6000 b) [⟨1, false, 0, 2200, 1, 2200, 0, 0, 0, 104, 255, 0, 0, 0, 1, false⟩]
      let h := hdrOf (readRange s 0x6000 128)
      jobSlotType s j = 1 ∧ j.spoiled = false ∧ h.deadline = 1 ∧ hdrOk (readRange s 0x6000 128) h = true
        ∧ h.deadline < j.began + 300) := by decide +kernel

/-- CMD of the output record at 0x6000, map at 0x7000, destinations from 0x8000, seal at 0x8100, K 1. -/
def cmdWords : List Nat := [0xA1, 0x6000, 0x7000, 0x8000, 0x8100, 1, 0, 0]

theorem witness_SolverJobsWriteTheirOutput_cmd : workingJob live unitTP 0xA1 = none
    ∧ (let s := solving cmdWords (leBytes 64 0)
      workingJob s unitTP 0xA1 = some (jobFor cmdWords) ∧ fine (readOk s unitTP 8 clean 0x6000 64) = true ∧ bit (le (readRange s 0x6000 64) 0 8) 63 = false)
    ∧ (let s := solving cmdWords (leBytes 8 (2 ^ 63 + 1))
      bit (le (readRange s 0x6000 64) 0 8) 63 = true ∧ le (readRange s 0x6000 64) 8 8 = (jobFor cmdWords).beganFrame ∧ fine (readOk s unitTP 8 clean 0x7000 8) = true
        ∧ le (readRange s 0x7000 8) 0 8 = 0 ∧ le (readRange s 0x6000 64) 0 2 = 1 ∧ fine (readOk s unitTP 8 clean 0x6040 4) = true
        ∧ (checkRange s unitTP 8 1 clean 0x8000 4).1 = 0 ∧ (checkRange s unitTP 8 1 clean 0x8100 8).1 = 0)
    ∧ (let s := withBytes (solving cmdWords (leBytes 8 (2 ^ 63 + 1))) 0x7000 (leBytes 8 1)
      le (readRange s 0x7000 8) 0 8 = 1 ∧ ¬(field 1 11 0 < 1)) := by decide +kernel

/-! ### The record pipeline -/

/-- FEED of the file at 0x6000 into rows of 64 elements at 0x10000: ROWS 1, SEG_MAX 4, skip log at 0x7000 with room for `cap`. -/
def feedWords (cap replay : Nat) : List Nat := [0xB0 + 256 * replay, 0x6000, 0x10000, 2 ^ 32, 0, 4 * 2 ^ 24 + 64, cap * 2 ^ 48 + 0x7000, 0]

/-- A file header without records. -/
def emptyFile : List Byte :=
  let b := leBytes 4 0x5852524F ++ leBytes 2 1 ++ leBytes 2 64 ++ leBytes 8 16 ++ leBytes 8 0 ++ leBytes 36 0
  b ++ leBytes 4 (crc32c b)

/-- The pipeline works on that FEED. -/
def feeding (replay : Nat) (file : List Byte) : State := withBytes (running (open_ live) 108 (jobFor (feedWords 1 replay))) 0x6000 file

/-- A FEED at position 0 with `k` segments and `m` log entries. -/
def feedAt (k m : Nat) : FeedOut := ⟨{ FeedRun.start (jobFor (feedWords 1 0)) with segs := List.replicate k ⟨0, 0, 0, 0, 1⟩, used := k, logged := m }, [], [], 0, 0, 0, 0, false, []⟩

theorem witness_FeedsPackRowsInShuffleOrder : workingJob live unitRP 0xB0 = none ∧ (workingJob (feeding 0 emptyFile) unitRP 0xB0).isSome = true
    ∧ fine (readOk (feeding 0 emptyFile) unitRP 8 clean (fdFile (descOf (feedWords 1 0))) 64) = true
    ∧ (fileHdr (readRange (feeding 0 emptyFile) 0x6000 64)).map FileHdr.n = some 0 ∧ (fileHdr (readRange (feeding 0 []) 0x6000 64)).isNone = true
    ∧ fdReplay (descOf (feedWords 1 1)) = true ∧ fdReplay (descOf (feedWords 1 0)) = false
    ∧ (match feedLoop (feeding 0 emptyFile) 8 clean (descOf (feedWords 1 0)) ⟨0, 0, 0⟩ false 2 (feedAt 0 0) [] with
      | .done x st => x.rows.map Prod.fst == [] && st == 0x61
      | _ => false) = true := by decide +kernel

theorem witness_FeedsPackRowsInShuffleOrder_records : (let d := descOf (feedWords 1 0)
      fdElems d = 64 ∧ fdSegMax d = 4 ∧ fdRows d = 1 ∧ fdCap d = 1 ∧ fdElem d = 1
        ∧ ¬(fdElems d < (feedAt 4 0).run.used + 8 ∨ (feedAt 0 0).run.segs.length = fdSegMax d) ∧ (feedAt 4 0).run.segs.length = fdSegMax d
        ∧ fdElems d < 65 / fdElem d ∧ fdRows d ≤ (feedAt 4 0).run.row + 1
        ∧ 0 ≤ budget live (feedAt 0 0).run ∧ budget live (feedAt 0 0).run < 10 ^ 9 ∧ (feedAt 0 0).run.logged ≠ fdCap d ∧ (feedAt 0 1).run.logged = fdCap d) := by decide +kernel

theorem witness_ShuffleVisitsEveryRecordOnce : 1 ≤ 5 ∧ 5 ≤ 2 ^ 32 ∧ 7 < 2 ^ 32 ∧ (List.range 5).map (fun p => perm p 5 7 0) = [3, 1, 4, 2, 0] := by decide +kernel

end Sys2Proof.Tests
end

