-- ==== Sys2Proof/Tests/Witness6.lean ====
section
/-! SUPPORT. Concrete states and operands that meet the hypotheses of the statements about Tightrope, the axis rings, the island and the
power controllers. -/

-- One theorem at a time: checked side by side, these need more threads, each with a stack of its own, than the check's memory allows.
set_option Elab.async false

namespace Sys2Proof.Tests

open Sys2Proof Sys2Proof.Machine

/-! ### Tightrope -/

/-- Axis 5 is node 0 of ring 1, configured; the ring runs or not. The frame grid stands at cycle `now` after the point at `p`. -/
def ringed (runs : Bool) (p now : Nat) (fs : List (Fld × Nat)) : State :=
  let b := ofBool runs * 2
  let s := planned (open_ (liveWith ([(TT_AXIS_CFG_EN 5, 1), (TT_AXIS_CFG_RING 5, 1), (TT_AXIS_ST_STATE 5, 1), (TT_CTRL_RUN, b), (TT_STATUS_RUNNING, b),
    (TT_RING_CFG_ETHERTYPE 1, 0x9000)] ++ fs))) []
  { s with grid := { s.grid with pointAt := p, now := now } }

/-- Axis 5 with a sample due and in use. -/
def dueAxis (s : State) (miss : Nat) : State :=
  { s with tt := { s.tt with axes := [(5, { AxisSt.reset with on := true, due := true, missRun := miss, posRef := some 0, sent := some (3, false) })] } }

/-- A frame on ring 1 of EtherType `et`, TYPE `ty`, with its SAFE_CRC right or not. -/
def ringFrame (et ty : Nat) (body : List Byte) (good : Bool) : List Byte :=
  let safe := [1#8, BitVec.ofNat 8 ty, 0#8, 0#8] ++ leBytes 4 0 ++ leBytes 8 0 ++ body
  List.replicate 12 0#8 ++ [0x81#8, 0#8, 0#8, 0#8] ++ beBytes 2 et ++ safe ++ leBytes 4 (crc32c safe + ofBool (!good))

/-- An FB sample at θ = 100. -/
def fbBody : List Byte := leBytes 4 100 ++ leBytes 20 0

theorem witness_TightropeRunsItsAxes_points : pointDue (ringed true 0 0 []).grid = false ∧ pointDue (ringed true 0 137500 []).grid = true
    ∧ (let s := dueAxis (ringed true 0 137500 []) 0
      (s.axis 5).due = true ∧ (s.axis 5).sent = some (3, false) ∧ axisRuns s 5 = true ∧ axisRuns s 6 = false)
    ∧ (let s := { ringed true 0 550000 [] with isl := { (ringed true 0 0 []).isl with reint := 3 }, grid := { (ringed true 0 0 []).grid with boundaryAt := 550000, now := 550000, pointAt := 412500 } }
      s.isl.reint = 3 ∧ nextPoint s.grid = s.grid.boundaryAt ∧ s.isl.reintBits = 0 ∧ pointDue s.grid = true)
    ∧ (let s := { ringed true 0 137500 [] with isl := { (ringed true 0 0 []).isl with handoverAt := some 137500 } }
      s.isl.handoverAt = some 137500 ∧ 137500 ≤ nextPoint s.grid)
    ∧ (let s := dueAxis (ringed true 0 137500 [(TT_AXIS_CFG_MISS_LIM 5, 2)]) 0
      s.grid.pointAt + s.get TT_TIMING_FB_DL ≤ s.grid.now ∧ (s.axis 5).missRun + 1 < max 1 (s.get (TT_AXIS_CFG_MISS_LIM 5)))
    ∧ (let s := dueAxis (ringed true 0 137500 []) 1
      max 1 (s.get (TT_AXIS_CFG_MISS_LIM 5)) ≤ (s.axis 5).missRun + 1)
    ∧ (ringed false 0 0 [(TT_TIMING_FB_DL, 9)]).grid.pointAt + 9 > (ringed false 0 0 []).grid.now := by decide +kernel

theorem witness_TightropeRunsItsAxes_frames : (let s := dueAxis (ringed true 0 0 []) 0
      s.boot.step ≠ 7
        ∧ (ringFrame 0x0800 2 fbBody true).length = 62 ∧ ofBe (((ringFrame 0x0800 2 fbBody true).drop 16).take 2) ≠ s.get (TT_RING_CFG_ETHERTYPE 1)
        ∧ ofBe (((ringFrame 0x9000 2 fbBody true).drop 12).take 2) = 0x8100 ∧ ofBe (((ringFrame 0x9000 2 fbBody true).drop 16).take 2) = s.get (TT_RING_CFG_ETHERTYPE 1)
        ∧ frameGood (ringFrame 0x9000 2 fbBody true) = true ∧ frameGood (ringFrame 0x9000 2 fbBody false) = false
        ∧ frameGood (ringFrame 0x9000 3 (leBytes 8 0) true) = true ∧ frameGood (ringFrame 0x9000 4 (leBytes 8 0) true) = true
        ∧ sampleOf s 1 (ringFrame 0x9000 2 fbBody true) = some 5 ∧ sampleOf s 2 (ringFrame 0x9000 2 fbBody true) = none
        ∧ (mirrorAt s 5).isNone = true)
    ∧ (mirrorAt (ringed true 0 0 [(TT_MIRROR_ADDR, 0xE40C000000)]) 5).isSome = true := by decide +kernel

/-- The take of the frame is due, with a staging set of that frame number in hub SRAM. -/
def staged (frame : Nat) (reint : Nat) : State :=
  let s := withBytes (ringed true 412500 (412500 + 60500) [(TT_STAGE_BASE, 0xE400000000)]) (phys live 0xE400000000) (leBytes 8 frame)
  { s with isl := { s.isl with reint := reint } }

theorem witness_TightropeRunsItsAxes_take : takeDue (ringed true 0 0 []) = false ∧ takeDue (staged 1 2) = true ∧ takenAxes (staged 1 2) = [5]
    ∧ stageOk (staged 1 2) = true ∧ ofLe (readRange (staged 1 2) 0xE400000000 8) = frameNumber (staged 1 2) + 1
    ∧ ofLe (readRange (staged 9 2) 0xE400000000 8) ≠ frameNumber (staged 9 2) + 1
    ∧ (checkRange (staged 1 2) initTT (ttTicket (staged 1 2)) 0 clean 0xE400000000 8).1 = 0
    ∧ (checkRange (staged 1 2) initTT (ttTicket (staged 1 2)) 0 clean (0xE400000000 + 64 + 16 * 5) 12).1 = 0 ∧ (staged 1 2).isl.reint = 2 := by decide +kernel

/-- The update of ring 1 is due; the axis has its boundary at every grid point. -/
def updating (fs : List (Fld × Nat)) : State := dueAxis (ringed true 0 137000 ([(TT_AXIS_CFG_RATE 5, 3)] ++ fs)) 0

theorem witness_TightropeRunsItsAxes_update : updateDue (ringed true 0 0 []) 1 = false ∧ updateDue (updating []) 1 = true
    ∧ ((ringAxes (updating []) 1).filter fun a => boundaryNext (updating []) a && ((updating []).axis a).on) = [5] ∧ ((updating []).axis 5).posRef ≠ none
    ∧ (let s := updating []
      let o := loopStep (loopCfg s 5) (s.axis 5).cog (s.axis 5).fric (loopIn s 5 0 none)
      o.run ≠ max 1 (s.get (TT_AXIS_CFG_FAULT_CNT 5)))
    ∧ (let s := updating [(TT_CTRL_LEARN_EN, 1), (TT_AXIS_CFG_LEARN 5, 1)]
      let t := { s with tt := { s.tt with axes := [(5, { s.axis 5 with missing := false })] } }
      mayLearn t 5 = true ∧ (t.axis 5).missing = false ∧ (t.axis 5).first = false ∧ (t.axis 5).posRef = some 0
        ∧ toSigned 32 (t.get (TT_AXIS_CFG_LV_MIN 5)) ≤ ((loopIn t 5 0 none).w.natAbs : Int)
        ∧ (loopStep (loopCfg t 5) (t.axis 5).cog (t.axis 5).fric (loopIn t 5 0 none)).limited = false) := by decide +kernel

theorem witness_AxesAreStartedAndConfigured : Reaches live 0x090 63 1 (pageAddr pageTT 0x10) 8 ∧ Reaches live 0x090 63 1 (pageAddr pageTT 0x180) 8
    ∧ isIsland 0x090 = true ∧ bit ((ringed true 0 0 []).get TT_CTRL_RUN) 1 = true ∧ bit ((ringed false 0 0 []).get TT_CTRL_RUN) 1 = false
    ∧ live.planOn = false ∧ (ringed false 0 0 []).planOn = true
    ∧ ringBudget (ringed false 0 0 [(TT_TIMING_FB_DL, 2000), (TT_TIMING_CALC_OFS, 1000)]) 1 = false
    ∧ ringBudget (ringed false 0 0 [(TT_TIMING_FB_DL, 2000), (TT_TIMING_CALC_OFS, 3000)]) 1 = true ∧ ringAxes (ringed false 0 0 []) 1 = [5]
    ∧ (liveWith [(TT_CMD_STAT_BUSY, 1)]).is TT_CMD_STAT_BUSY = true ∧ live.is TT_CMD_STAT_BUSY = false
    ∧ (checkRange (open_ live) initTT (ttTicket (open_ live)) 0 clean ((open_ live).get TT_IDENT_BUF_ADDR) 5376).1 = 0
    ∧ live.tt.cmd = none ∧ enumOk [(0, 7, 1)] = true ∧ enumOk [] = false
    ∧ (liveWith [(TT_RING_STAT_LINK 1, 1)]).is (TT_RING_STAT_LINK 1) = true ∧ live.is (TT_RING_STAT_LINK 1) = false
    ∧ Reaches live 0x090 (ticketOf live 0x090) 0 (pageAddr pageTT 0x1A8) 4 ∧ Reaches live 0x090 (ticketOf live 0x090) 1 (pageAddr pageTT 0x1A8) 4
    ∧ Reaches live 0x090 (ticketOf live 0x090) 1 (pageAddr pageTT (0x5010 + 32 * 5)) 8 ∧ live.get (TT_AXIS_ST_FAULT 5) = 0
    ∧ (liveWith [(TT_AXIS_ST_FAULT 5, 31)]).get (TT_AXIS_ST_FAULT 5) = 31 := by unfold Reaches; decide +kernel

/-- An IDENT_RSP with the last 256 bytes of the record (offset 5,120) or the first 1,024. -/
def identFrame (o : Nat) : List Byte := ringFrame 0x9000 6 (leBytes 2 o ++ leBytes 2 (identLen o) ++ leBytes 4 0 ++ List.replicate (identLen o) 0#8) true

/-- A READ of node 0 on ring 1 at offset `o`. -/
def readingAt (o attempt : Nat) : State :=
  let s := ringed false 0 0 [(TT_IDENT_BUF_ADDR, 0x10000)]
  { s with tt := { s.tt with cmd := some ⟨2, 1, 0, 5, o, attempt⟩ } }

theorem witness_AxesAreStartedAndConfigured_read : (readingAt 5120 3).tt.cmd = some ⟨2, 1, 0, 5, 5120, 3⟩ ∧ (readingAt 5120 3).boot.step ≠ 7
    ∧ ofBe (((identFrame 5120).drop 12).take 2) = 0x8100 ∧ ofBe (((identFrame 5120).drop 16).take 2) = (readingAt 5120 3).get (TT_RING_CFG_ETHERTYPE 1) ∧ 18 ≤ (identFrame 5120).length
    ∧ ((identFrame 5120).getD 19 0#8).toNat = 6 ∧ ((identFrame 5120).getD 21 0#8).toNat = 0 ∧ le (identFrame 5120) 34 2 = 5120
    ∧ le (identFrame 5120) 36 2 = identLen 5120 ∧ 5376 ≤ 5120 + identLen 5120 ∧ 0 + identLen 0 < 5376
    ∧ Reaches (readingAt 5120 3) initTT (ttTicket (readingAt 5120 3)) 1 (0x10000 + 5120) (identLen 5120) := by unfold Reaches; decide +kernel

/-! ### The island -/

/-- A part whose axis 5 has a net record for ring 1, which runs, with the net armed; the island owns the rings or not. -/
def netted (owner : Nat) (fs : List (Fld × Nat)) : State :=
  withBytes (ringed true 0 137000 ([(EL_NET_TAB_ADDR, 0xE40C000000), (EL_NET_STAT_OWNER, owner), (EL_NET_STAT_ARMED, 1)] ++ fs)) (phys live (0xE40C000000 + 320))
    (leBytes 4 (2 ^ 31 + 2 ^ 28))

/-- Every carousel entry has passed since the latching at 0. -/
def passes : List (Fld × Nat) := (List.range 102).map fun e => (EL_CAR_LAST_PASS e, 1)

theorem witness_IslandLatchesCommandsAndLogs : live.doubt.bits = 0 ∧ live.is EL_NET_STAT_OWNER = false ∧ live.isl.handoverAt = none ∧ (ringed true 0 0 []).grid.running = true
    ∧ Instr.wellFormed (.doubtWireAssert [(6, 4)]) = true ∧ { live with doubt := ⟨1, 0, 0, 0⟩ }.doubt.bits ≠ 0
    ∧ (ringed true 0 137000 []).grid.pointAt + (ringed true 0 137000 []).get EL_NET_TIME_NET_OFS < (ringed true 0 137000 []).grid.now
    ∧ (ringed true 0 0 []).grid.now ≤ (ringed true 0 0 []).grid.pointAt + (ringed true 0 0 []).get EL_NET_TIME_NET_OFS
    ∧ (∀ o ∈ [0x108, 0x110, 0x118, 0x124], Reaches live 0x090 (ticketOf live 0x090) 1 (pageAddr pageEL o) 4)
    ∧ Reaches live 0x090 (ticketOf live 0x090) 1 (pageAddr pageISL 0x120) 8 ∧ Reaches live 0x090 63 1 (pageAddr pageEL 0x124) 4 ∧ netBudget live = true
    ∧ live.isl.reint = 0 ∧ live.doubted = false ∧ lockstepOk live 1 = true ∧ lockstepOk live 0 = true
    ∧ lockstepOk (liveWith [(EL_NET_STAT_PAIR_OK, 1)]) 1 = false ∧ live.get EL_NET_STAT_NET_PAIR = 0 ∧ (liveWith [(EL_NET_STAT_NET_PAIR, 1)]).get EL_NET_STAT_NET_PAIR = 1
    ∧ (let s := { liveWith passes with doubt := ⟨1, 0, 0, 0⟩ }
      s.doubted = true ∧ reintCondition s = true ∧ s.is EL_NET_STAT_ARMED = false)
    ∧ reintCondition (liveWith [(EL_CAR_FAIL 3, 1)]) = false
    ∧ (let s := { ringed true 0 0 ((EL_NET_STAT_ARMED, 1) :: passes) with doubt := ⟨1, 0, 0, 0⟩ }
      reintCondition s = true ∧ s.is EL_NET_STAT_ARMED = true ∧ s.planOn = true) := by unfold Reaches; decide +kernel

theorem witness_IslandLatchesCommandsAndLogs_net : mayExpire live 0 = false ∧ mayExpire (ringed true 0 0 []) 0 = true ∧ mayExpire { ringed true 0 0 [] with tt := { (ringed true 0 0 []).tt with axes := [(5, { AxisSt.reset with on := true })] } } 1 = true
    ∧ mayExpire (ringed true 0 0 []) 1 = false
    ∧ mayExpire { liveWith [(EL_WDOG_CFG_HOST_EN, 1), (EL_WDOG_CFG_HOST_TO, 1)] with grid := { live.grid with now := 1100000 } } 2 = true
    ∧ netDue live = false ∧ netDue (netted 1 []) = true ∧ (∀ a < 128, ((netted 1 []).axis a).due = false) ∧ (netted 1 []).is EL_NET_STAT_ARMED = true
    ∧ commanded (netted 1 []) = [5] ∧ nrRing (netRec (netted 1 []) 5) = 1 ∧ netRingAxes (netted 1 []) 1 = [5]
    ∧ cmdPasses (netted 1 [(TT_GCL_INTERVAL 16, 137500), (TT_GCL_GATES 16, 128)]) 1 1 = true
    ∧ netMode (netted 1 [(EL_NET_CFG_MODE, 2)]) = 2 ∧ (netted 1 []).isl.stopDone = false
    ∧ (let s := netted 1 [(EL_NET_CFG_MODE, 2), (EL_NET_TIME_T1_MAX, 0)]
      s.isl.handoverPoint + s.get EL_NET_TIME_T1_MAX * 137500 ≤ s.grid.pointAt)
    ∧ live.isl.carousel ≠ some 5 ∧ { live.isl with carousel := some 5 }.carousel = some 5 ∧ live.isl.reint ≠ 1 := by decide +kernel

/-- A part with a report in ingress queue 2. -/
def reported : State := { open_ live with log := ⟨[[], [], [⟨7, 0, 4, false, false, 0x090, 0, 0, 0, 0, 0, 0⟩], [], []], 1, [], [], [], []⟩ }

theorem witness_IslandLatchesCommandsAndLogs_log : nextLogQueue reported.log = some 2 ∧ (reported.log.queues.getD 2 []).length = 1 ∧ nextLogQueue live.log = none
    ∧ (reported.get EL_LOG_HEAD_HEAD + 2 ^ 32 - reported.get EL_LOG_TAIL_TAIL) % 2 ^ 32 = 0
    ∧ Reaches reported 0x0A3 (reported.get FW_HK_TKT_LOG_TKT) 1 0xE408000000 32
    ∧ (let s := liveWith [(EL_LOG_HEAD_HEAD, 4096)]
      ¬(4096 < (s.get EL_LOG_HEAD_HEAD + 2 ^ 32 - 0) % 2 ^ 32) ∧ 4096 < (s.get EL_LOG_HEAD_HEAD + 2 ^ 32 - 4097) % 2 ^ 32
        ∧ 4096 ≤ (s.get EL_LOG_HEAD_HEAD + 2 ^ 32 - s.get EL_LOG_TAIL_TAIL) % 2 ^ 32) := by unfold Reaches; decide +kernel

/-! ### Power and budget windows -/

/-- A part with a running frame grid at cycle `now`, windows begun at 0, with registers. -/
def windowing (now : Nat) (fs : List (Fld × Nat)) : State := ringed false 0 now fs

/-- A window without activity. -/
def noPower : PowerUse := ⟨[], 0⟩

theorem witness_PowerAndBudgetWindowsAct : windowDue (windowing 0 []).grid (windowing 0 []).grid.powerWindow 110000 = false
    ∧ windowDue (windowing 110000 []).grid (windowing 110000 []).grid.powerWindow 110000 = true ∧ Instr.wellFormed (.powerWindow noPower) = true
    ∧ learnedMode live = false ∧ learnedMode (ringed false 0 0 [(PW_CTRL_LEARN_EN, 1), (PW_CTRL_FIXED, 0)]) = true
    ∧ Instr.wellFormed (.tempSample (List.replicate 5 (List.replicate 16 0)) [[], [], [], []]) = true ∧ dieOff live 0 = false
    ∧ dieOff { live with boot := { live.boot with resetRunning := 15 } } 0 = true
    ∧ Instr.wellFormed (.voteReceived 0 [(3, 5, 1)]) = true ∧ (live.is PW_CTRL_VOTE_EN && live.is (YL_STATUS_UP 0)) = false
    ∧ (let s := liveWith [(PW_CTRL_VOTE_EN, 1), (YL_STATUS_UP 0, 1)]
      (s.is PW_CTRL_VOTE_EN && s.is (YL_STATUS_UP 0)) = true)
    ∧ (let s := liveWith [(PW_RAIL_CFG_ILIM 0, 800), (PW_RAIL_CFG_ILIM 6, 800), (PW_RAIL_CFG_ILIM 9, 800), (PW_RAIL_CFG_ILIM_HARD 0, 900)]
      s.get (PW_RAIL_CFG_ILIM 0) < 801 ∧ 8 * 700 ≤ 7 * s.get (PW_RAIL_CFG_ILIM 0) ∧ 7 * s.get (PW_RAIL_CFG_ILIM 0) < 8 * 701 ∧ 701 ≤ s.get (PW_RAIL_CFG_ILIM 0)
        ∧ s.get (PW_RAIL_CFG_ILIM 6) < 801 ∧ s.get (PW_RAIL_CFG_ILIM 9) < 801 ∧ s.get (PW_RAIL_CFG_ILIM_HARD 0) < 901)
    ∧ (let s := liveWith [(PW_THERM_CFG_T_THROT 0, 95), (PW_TEMP_MAX_DIE 0, 760)]
      8 * (s.get (PW_THERM_CFG_T_THROT 0) : Int) ≤ dieTemp s 0)
    ∧ (let s := liveWith [(PW_THERM_CFG_T_THROT 0, 95), (PW_TEMP_MAX_DIE 0, 744)]
      8 * ((s.get (PW_THERM_CFG_T_THROT 0) : Int) - 2) ≤ dieTemp s 0 ∧ dieTemp s 0 < 8 * (s.get (PW_THERM_CFG_T_THROT 0) : Int))
    ∧ (let s := liveWith [(PW_THERM_CFG_T_THROT 0, 95), (PW_TEMP_MAX_DIE 0, 743)]
      dieTemp s 0 < 8 * ((s.get (PW_THERM_CFG_T_THROT 0) : Int) - 2)) := by decide +kernel

theorem witness_PowerAndBudgetWindowsAct_budget : windowDue (windowing 0 []).grid (windowing 0 []).grid.windowAt 11000 = false
    ∧ windowDue (windowing 11000 []).grid (windowing 11000 []).grid.windowAt 11000 = true
    ∧ lockstepOk live 0 = true ∧ lockstepOk live 1 = true ∧ lockstepOk (liveWith [(EL_NET_STAT_PAIR_OK, 1)]) 1 = false ∧ live.isl.carousel = none
    ∧ carFits (windowing 11000 []) 0 = true
    ∧ (carOrder (windowing 11000 ((List.range 102).map fun e => (EL_CAR_EN e, ofBool (e == 3))))) = [3]
    ∧ (let s := { windowing 11000 [] with ts := { live.ts with entries := [(5, ⟨0, 0, 2000, 10, false, []⟩)] } }
      ports.contains 0 = true ∧ (mget s.ts.entries (64 * 0 + 5)).isSome = true ∧ s.ts.exempt.contains 0 = false) := by decide +kernel

end Sys2Proof.Tests
end

/-! SUPPORT. REGISTER_WRITE to the pages whose registers have no commands (R8 to R10): clusters, I/O, GPIO and PHYs. The write is the
writes of its fields one by one, then at most one event of the error window. -/

namespace Sys2Proof.Machine

variable (s : State)

/-! ### Quiet actions as a whole -/

/-- A quiet action answers the state with other registers, error log and pending messages. -/
theorem Quiet.act_eq {a : Act} (h : Quiet a) :
    s.act a = { s with regs := (s.act a).regs, log := (s.act a).log, bus := { s.bus with files := (s.act a).bus.files } } := by
  have e := congrArg (fun x : State => { x with regs := (s.act a).regs, log := (s.act a).log, bus := { x.bus with files := (s.act a).bus.files } }) (h s)
  exact e

@[simp] theorem get_respond (f : Fld) (i st : Nat) (bs : List Byte) : (s.act (respond i st bs)).get f = s.get f := rfl

/-! ### Registers and their fields -/

theorem mem_foldl_moreFields {rs : List RegRow} {fs : List FieldRow} {f : FieldRow}
    (h : f ∈ rs.foldl (fun fs r => moreFields fs r.fields) fs) : f ∈ fs ∨ ∃ r ∈ rs, f ∈ r.fields := by
  induction rs generalizing fs with
  | nil => exact .inl h
  | cons r rs ih =>
    rcases ih h with h | ⟨x, hx, hf⟩
    · rcases List.mem_append.1 h with h | h
      · exact .inl h
      · exact .inr ⟨r, List.mem_cons_self, (List.mem_filter.1 h).1⟩
    · exact .inr ⟨x, List.mem_cons_of_mem _ hx, hf⟩

/-- A register that is found has a row, and each of its fields stands in one of its rows. -/
theorem rows_of_findReg {rs : List RegRow} {o k : Nat} {fs : List FieldRow} (h : findReg rs o = some (k, fs)) :
    (∃ r ∈ rs, r.at_ o = true) ∧ ∀ f ∈ fs, ∃ r ∈ rs, f ∈ r.fields := by
  unfold findReg at h
  split at h
  · cases h
  · rename_i r t he
    cases h
    have sub : ∀ x ∈ r :: t, x ∈ rs ∧ x.at_ o = true := fun x hx => List.mem_filter.1 (he ▸ hx)
    refine ⟨⟨r, sub r List.mem_cons_self⟩, fun f hf => ?_⟩
    rcases mem_foldl_moreFields hf with hf | ⟨x, hx, hf⟩
    · exact ⟨r, (sub r List.mem_cons_self).1, hf⟩
    · exact ⟨x, (sub x (List.mem_cons_of_mem _ hx)).1, hf⟩

theorem pageRows_of_le {p : Nat} (h : 184 ≤ p) : pageRows p = [] := by
  simp (disch := omega) only [pageRows, Bool.and_eq_true, decide_eq_true_eq, if_neg]

/-- The tables of Table 18-3, page by page: only pages with the common layout have registers of their own, and no field begins
above bit 63. -/
theorem pageRows_tabled : ∀ p < 184, (isCommonPage p = true ∨ pageRows p = []) ∧ ∀ r ∈ pageRows p, ∀ f ∈ r.fields, f.lo < 64 := by
  decide +kernel

/-- The registers of Table 18-1 end below 0x100, and none of their fields begins above bit 63. -/
theorem commonRows_tabled {p : Nat} :
    ∀ r ∈ commonRows p, (0 < r.stride ∧ r.off + r.count * r.stride ≤ 0x100) ∧ ∀ f ∈ r.fields, f.lo < 64 := by
  simp [commonRows]

theorem isCommonPage_of_mem_pageRows {p : Nat} {r : RegRow} (h : r ∈ pageRows p) : isCommonPage p = true := by
  rcases Nat.lt_or_ge p 184 with hp | hp
  · exact (pageRows_tabled p hp).1.resolve_right (List.ne_nil_of_mem h)
  · rw [pageRows_of_le hp] at h; cases h

theorem lo_lt_of_mem_allRows {p : Nat} {r : RegRow} (hr : r ∈ allRows p) : ∀ f ∈ r.fields, f.lo < 64 := by
  rcases List.mem_append.1 hr with hr | hr
  · rcases Nat.lt_or_ge p 184 with hp | hp
    · exact (pageRows_tabled p hp).2 r hr
    · rw [pageRows_of_le hp] at hr; cases hr
  · exact (commonRows_tabled r hr).2

/-- The registers of a row lie in its range. -/
theorem RegRow.lt_of_at {r : RegRow} {o : Nat} (hs : 0 < r.stride) (h : r.at_ o = true) : o < r.off + r.count * r.stride := by
  simp only [RegRow.at_, Bool.and_eq_true, decide_eq_true_eq, Nat.div_lt_iff_lt_mul hs] at h
  omega

/-- A register from offset 0x100 on is one of the block's own, so its page has the common layout. -/
theorem isCommonPage_of_findReg {p o k : Nat} {fs : List FieldRow} (h : findReg (allRows p) o = some (k, fs)) (ho : 0x100 ≤ o) :
    isCommonPage p = true := by
  obtain ⟨⟨r, hr, hat⟩, _⟩ := rows_of_findReg h
  rcases List.mem_append.1 hr with hr | hr
  · exact isCommonPage_of_mem_pageRows hr
  · obtain ⟨⟨hs, hlt⟩, _⟩ := commonRows_tabled r hr
    have := RegRow.lt_of_at hs hat
    omega

theorem lo_lt_of_findReg {p o k : Nat} {fs : List FieldRow} (h : findReg (allRows p) o = some (k, fs)) {f : FieldRow} (hf : f ∈ fs) :
    f.lo < 64 := by
  obtain ⟨r, hr, hfr⟩ := (rows_of_findReg h).2 f hf
  exact lo_lt_of_mem_allRows hr f hfr

/-- A register that is reached whole is the one at the offset of the access. -/
theorem reachOf_whole {rs : List RegRow} {off w o : Nat} (h : reachOf rs off w = .whole o) : o = off := by
  unfold reachOf at h
  split at h
  case h_1 n _ _ =>
    by_cases hw : n = w
    · rw [if_pos hw] at h
      injection h with h
      exact h.symm
    · rw [if_neg hw] at h
      split at h <;> cases h
  case h_2 =>
    split at h
    · cases h
    · split at h <;> cases h

/-- Of fields whose places differ pair by pair, two that are not the same have different places. -/
theorem lo_ne_of_pairwise {fs : List FieldRow} (hd : fs.Pairwise fun f g => f.lo ≠ g.lo) {f g : FieldRow} (hf : f ∈ fs) (hg : g ∈ fs)
    (h : f ≠ g) : f.lo ≠ g.lo := by
  induction fs with
  | nil => cases hf
  | cons x xs ih =>
    obtain ⟨hx, hxs⟩ := List.pairwise_cons.1 hd
    rcases List.mem_cons.1 hf with ef | tf
    · rcases List.mem_cons.1 hg with eg | tg
      · exact absurd (ef.trans eg.symm) h
      · exact ef ▸ hx g tg
    · rcases List.mem_cons.1 hg with eg | tg
      · exact eg ▸ (hx f tf).symm
      · exact ih hxs tf tg

/-- Fields of one register with different places are different. -/
theorem rowFld_key_ne {f g : FieldRow} (p o : Nat) (h : f.lo ≠ g.lo) : (rowFld p o f).key ≠ (rowFld p o g).key := by
  simp only [Fld.key, rowFld]; omega

/-! ### The write of the fields -/

section
variable {p : Nat} (hp : 99 ≤ p)
include hp

/-- On these pages a field that is not RO or WO takes what its access code makes of the value. -/
theorem act_putField (o : Nat) (f : FieldRow) (v : Nat) : s.act (putField p o f v)
    = if f.acc = .ro ∨ f.acc = .wo then s
      else { s with regs := putFld s.regs (rowFld p o f) (written f.acc (s.get (rowFld p o f)) v) } := by
  have hq : isQueueWord p o = false := by simp [isQueueWord, pageRM]; omega
  have h4 : p ≠ 4 := by omega
  simp only [putField, act_withS, act_ite, act_skip, act_setF, hq, h4, false_and, if_false, Bool.false_eq_true]

theorem quiet_putField (o : Nat) (f : FieldRow) (v : Nat) : Quiet (putField p o f v) := by
  intro s
  rw [act_putField s hp]
  split <;> rfl

theorem keeps_get_putField {g : Fld} {o : Nat} {f : FieldRow} (v : Nat) (h : g.key ≠ (rowFld p o f).key) :
    Keeps (fun s => s.get g) (putField p o f v) := by
  intro s
  simp only [act_putField s hp]
  split
  · rfl
  · exact get_put_other s s.regs _ h

theorem get_putField_same {o : Nat} {f : FieldRow} (v : Nat) (hro : f.acc ≠ .ro) (hwo : f.acc ≠ .wo) :
    (s.act (putField p o f v)).get (rowFld p o f) = written f.acc (s.get (rowFld p o f)) v % 2 ^ (f.hi + 1 - f.lo) := by
  rw [act_putField s hp, if_neg (by simp [hro, hwo]), get_put_same]
  rfl

/-- Of fields with different places, written one after another, each takes its own write. -/
theorem get_forA_putField {o : Nat} {val : FieldRow → Nat} {fs : List FieldRow} (hd : fs.Pairwise fun f g => f.lo ≠ g.lo) {f : FieldRow}
    (hf : f ∈ fs) (hro : f.acc ≠ .ro) (hwo : f.acc ≠ .wo) :
    (s.act (forA fs fun f => putField p o f (val f))).get (rowFld p o f)
      = written f.acc (s.get (rowFld p o f)) (val f) % 2 ^ (f.hi + 1 - f.lo) := by
  induction fs generalizing s with
  | nil => cases hf
  | cons g gs ih =>
    obtain ⟨hg, hgs⟩ := List.pairwise_cons.1 hd
    rw [act_forA_cons]
    rcases List.mem_cons.1 hf with rfl | hf
    · have later : Keeps (fun s => s.get (rowFld p o f)) (forA gs fun f => putField p o f (val f)) :=
        keeps_forA_mem fun x hx => keeps_get_putField hp _ (rowFld_key_ne p o (hg x hx))
      exact (later _).trans (get_putField_same s hp _ hro hwo)
    · have kept : (s.act (putField p o g (val g))).get (rowFld p o f) = s.get (rowFld p o f) :=
        keeps_get_putField hp _ (rowFld_key_ne p o (hg f hf).symm) s
      rw [ih _ hgs hf, kept]

end

/-- The fields of a write that take their part of it: without commands of their own, and refusing nothing. -/
def takers (s : State) (init p o v : Nat) (fs : List FieldRow) : List FieldRow :=
  fs.filter fun f => f.own == 0 && (refusals s init p o f (field v f.hi f.lo)).isEmpty

theorem putFields_eq (init p o v : Nat) (fs : List FieldRow) :
    putFields s init p o v fs = forA (takers s init p o v fs) fun f => putField p o f (field v f.hi f.lo) := rfl

theorem mem_takers {s : State} {init p o v : Nat} {fs : List FieldRow} {f : FieldRow} :
    f ∈ takers s init p o v fs ↔ f ∈ fs ∧ f.own = 0 ∧ refusals s init p o f (field v f.hi f.lo) = [] := by
  simp [takers]

/-! ### The whole write -/

section
variable {p : Nat} (hp : 99 ≤ p)
include hp

theorem act_afterWrite (s0 : State) (o : Nat) : s.act (afterWrite s0 p o) = s := by
  have h8 : p ≠ 8 := by omega
  have h11 : p ≠ 11 := by omega
  have h2 : p ≠ 2 := by omega
  have h3 : p ≠ pageRM := by unfold pageRM; omega
  simp [afterWrite, h8, h11, h2, h3]

theorem quiet_plainWrite (init tkt o v : Nat) (fs : List FieldRow) : Quiet (plainWrite init tkt p o v fs) := by
  unfold plainWrite
  refine quiet_withS fun s0 => quiet_seq_cons ?_ (quiet_seq_cons ?_ (quiet_seq_cons ?_ quiet_seq_nil))
  · exact quiet_forA fun f => quiet_putField hp o f _
  · split
    · exact quiet_errWindow _ _ _ _ _ _ _
    · exact quiet_skip
  · intro s; rw [act_afterWrite s hp]

/-- A field that no event of the page's error window changes reads after the write what it reads after the writes of the fields. -/
theorem get_plainWrite {g : Fld} (hg : g.calm) (hw : ¬(g.page = p ∧ g.off % 0x10000 < 0x100)) (init tkt o v : Nat) (fs : List FieldRow) :
    (s.act (plainWrite init tkt p o v fs)).get g = (s.act (putFields s init p o v fs)).get g := by
  unfold plainWrite
  rw [act_withS, act_seq_cons, act_seq_cons, act_seq_cons, act_seq_nil, act_afterWrite _ hp]
  split
  · exact keeps_get_errWindow hg hw _ init tkt o v true _
  · rw [act_skip]

/-- A field that takes no part of a write is as before. -/
theorem get_plainWrite_other {g : Fld} (hg : g.calm) (hw : ¬(g.page = p ∧ g.off % 0x10000 < 0x100)) {init tkt o v : Nat}
    {fs : List FieldRow} (h : ∀ f ∈ takers s init p o v fs, f.acc ≠ .ro → f.acc ≠ .wo → g.key ≠ (rowFld p o f).key) :
    (s.act (plainWrite init tkt p o v fs)).get g = s.get g := by
  have kept : Keeps (fun s => s.get g) (putFields s init p o v fs) := by
    rw [putFields_eq]
    refine keeps_forA_mem fun f hf t => ?_
    by_cases ha : f.acc = .ro ∨ f.acc = .wo
    · rw [act_putField t hp, if_pos ha]
    · obtain ⟨hro, hwo⟩ := not_or.1 ha
      exact keeps_get_putField hp _ (h f hf hro hwo) t
  rw [get_plainWrite s hp hg hw]
  exact kept s

/-- A write to a register from offset 0x100 on is the write of its fields: it has no commands. -/
theorem writeWhole_plain {o k : Nat} (ho : 0x100 ≤ o) {fs : List FieldRow}
    (hf : findReg (allRows p) o = some (k, fs)) (init tkt v : Nat) : writeWhole init tkt p o v s = s.act (plainWrite init tkt p o v fs) := by
  have hc : wholeCmds init tkt p o v = none := by
    simp (disch := omega) only [wholeCmds, pageRM, Bool.and_eq_true, Bool.or_eq_true, beq_iff_eq, decide_eq_true_eq, if_neg]
  have hpc : partCmds s init tkt p o v = [] := by
    simp (disch := omega) only [partCmds, pageRM, Bool.and_eq_true, decide_eq_true_eq, if_neg]
  have hr : readyPage p = false := by
    simp [readyPage, pageRM]; omega
  simp (disch := omega) only [writeWhole, hc, hf, hpc, readyAgain, hr, if_neg, afterCmds, List.foldl_nil, Bool.false_eq_true, if_false]

/-- An access that reaches such a register whole is the write of its fields. -/
theorem writePage_plain {off w o k : Nat} (ha : regAccess off w = true) (hw : reachOf (allRows p) off w = .whole o) (ho : 0x100 ≤ o)
    {fs : List FieldRow} (hf : findReg (allRows p) o = some (k, fs)) (init tkt v : Nat) :
    writePage init tkt p off w v s = s.act (plainWrite init tkt p o v fs) := by
  rw [writePage, if_pos (isCommonPage_of_findReg hf ho), if_pos ha]
  simp only [writeReg, hw, writeWhole_plain s hp ho hf]

end

/-- A REGISTER_WRITE that passes its checker is the write to the page, under the ticket that the request carries, then the answer. -/
theorem exec_registerWrite {init tkt a w d : Nat} (hwf : Instr.wellFormed (.registerWrite init tkt a w d) = true) (hr : Reaches s init tkt 1 a w) :
    exec (.registerWrite init tkt a w d) s
      = .next ((writePage init (carried s init tkt) (pageOf a) (offOf a) w d s).act (respond init 0 [])) := by
  have arm : exec (.registerWrite init tkt a w d) s = execRegisterWrite init tkt a w d s := rfl
  unfold Reaches at hr
  rw [arm, execRegisterWrite, if_pos hwf]
  dsimp only
  rw [if_pos hr]

/-- REGISTER_WRITE to such a register: the write of its fields, then the answer. -/
theorem exec_registerWrite_plain {init tkt a w d o k : Nat} {fs : List FieldRow} (hwf : Instr.wellFormed (.registerWrite init tkt a w d) = true)
    (hr : Reaches s init tkt 1 a w) (ha : regAccess (offOf a) w = true) (hp : 99 ≤ pageOf a)
    (hw : reachOf (allRows (pageOf a)) (offOf a) w = .whole o) (ho : 0x100 ≤ o) (hf : findReg (allRows (pageOf a)) o = some (k, fs)) :
    exec (.registerWrite init tkt a w d) s
      = .next ((s.act (plainWrite init (carried s init tkt) (pageOf a) o d fs)).act (respond init 0 [])) := by
  rw [exec_registerWrite s hwf hr, writePage_plain s hp ha hw ho hf]

/-- Settles O24. The action of the write is quiet; each taker is written once, by its access code, and every other field outside the
error window has another key than the takers. -/
theorem registerWritesFollowAccessCodes : Obligations.RegisterWritesFollowAccessCodes := by
  unfold Obligations.RegisterWritesFollowAccessCodes
  intro init tkt a w d o k fs s hwf hr ha hp _ hw ho hf hd
  have inWord : ∀ f ∈ fs, f.lo < 64 := fun f h => lo_lt_of_findReg hf h
  have ho16 : o < 0x10000 := by rw [reachOf_whole hw]; exact Nat.mod_lt _ (by decide)
  have pageEq : ∀ f, (rowFld (pageOf a) o f).page = pageOf a := fun f => by simp only [rowFld, Fld.page]; omega
  have calm : ∀ f ∈ fs, (rowFld (pageOf a) o f).calm := fun f h => by
    refine ⟨inWord f h, ?_⟩; rw [pageEq]; omega
  have below : ∀ f, ¬((rowFld (pageOf a) o f).page = pageOf a ∧ (rowFld (pageOf a) o f).off % 0x10000 < 0x100) := fun f => by
    simp only [rowFld]; omega
  refine ⟨_, exec_registerWrite_plain s hwf hr ha hp hw ho hf, ?_, fun f hm hown href hro hwo => ?_, fun f hm hno => ?_, fun f hl hoff hwin hlog => ?_⟩
  · rw [act_respond, (quiet_plainWrite hp init (carried s init tkt) o d fs).act_eq s]
  · rw [get_respond, get_plainWrite s hp (calm f hm) (below f), putFields_eq]
    exact get_forA_putField s hp (hd.filter _) (mem_takers.2 ⟨hm, hown, href⟩) hro hwo
  · rw [get_respond]
    refine get_plainWrite_other s hp (calm f hm) (below f) fun g hg hro hwo => ?_
    obtain ⟨hgm, hgown, hgref⟩ := mem_takers.1 hg
    refine rowFld_key_ne _ o (lo_ne_of_pairwise hd hm hgm ?_)
    rintro rfl
    rcases hno with h | h | h | h
    · exact h hgown
    · exact h hgref
    · exact hro h
    · exact hwo h
  · rw [get_respond]
    refine get_plainWrite_other s hp ⟨hl, by simpa [Fld.page] using hlog⟩ hwin fun g hg _ _ => ?_
    exact key_ne_of_off hl (inWord g (mem_takers.1 hg).1) hoff

end Sys2Proof.Machine

/-! SUPPORT. CONTROL_FRAME_BOUNDARY (R29, R30, R286 to R289). A boundary is a frame's end, one count, at most one change of plan, and
work that leaves grid, time, plans and their registers alone: `Steady` actions. -/

namespace Sys2Proof.Machine

variable (s : State)

/-! ### What the count and the plans are -/

/-- Grid and device time, the frame plans, and the registers that show frame and plan (R30, R286 to R289). -/
structure FrameAccount where
  grid : GridSt
  time : TimeSt
  inForce : Option PlanImg
  next : Option (PlanImg × Nat)
  stopping : Bool
  frameIdx : Nat
  major : Nat
  planId : Nat
  planStatus : Nat

def State.account (s : State) : FrameAccount :=
  ⟨s.grid, s.time, s.plan.inForce, s.plan.next, s.plan.stopping, s.frameIdx, s.major, s.get RM_PLAN_ID_ID, s.get RM_STATUS_PLAN⟩

/-- The register fields of an account. -/
def accountFields : List Fld := [RM_STATUS_FRAME_IDX, RM_FRAME_MAJOR, RM_PLAN_ID_ID, RM_STATUS_PLAN]

/-- What the fields of an account read makes the account, where grid, time and plans are the same. -/
theorem account_eq {t : State} (hg : t.grid = s.grid) (ht : t.time = s.time) (hp : t.plan = s.plan)
    (hf : ∀ f ∈ accountFields, t.get f = s.get f) : t.account = s.account := by
  simp only [accountFields, List.forall_mem_cons, List.not_mem_nil, false_imp_iff, implies_true, and_true] at hf
  obtain ⟨idx, major, planId, status⟩ := hf
  simp only [State.account, State.frameIdx, State.major, hg, ht, hp, idx, major, planId, status]

/-- The field is none of an account. -/
def Fld.Apart (f : Fld) : Prop := ∀ g ∈ accountFields, g.key ≠ f.key

theorem apart_of_off {f : Fld} (hl : f.lsb < 64) (h : f.off ≠ 0x30018 ∧ f.off ≠ 0x30118 ∧ f.off ≠ 0x30120) : f.Apart := by
  have placed : ∀ g ∈ accountFields, g.lsb < 64 ∧ (g.off = 0x30018 ∨ g.off = 0x30118 ∨ g.off = 0x30120) := by decide
  intro g hg
  obtain ⟨hgl, ho⟩ := placed g hg
  exact key_ne_of_off hgl hl (by omega)

theorem account_putFld {f : Fld} (v : Nat) (h : f.Apart) : ({ s with regs := putFld s.regs f v } : State).account = s.account :=
  account_eq s rfl rfl rfl fun g hg => get_put_other s s.regs v (h g hg)

/-! ### Steady actions -/

/-- The action changes nothing that an account holds. -/
def Steady (a : Act) : Prop := Keeps State.account a

@[simp] theorem steady_skip : Steady skip := keeps_skip
theorem steady_seq_nil : Steady (seq []) := keeps_seq_nil
theorem steady_seq_cons {a : Act} {as : List Act} (h : Steady a) (hs : Steady (seq as)) : Steady (seq (a :: as)) := keeps_seq_cons h hs
@[simp] theorem steady_seq {as : List Act} (h : ∀ a ∈ as, Steady a) : Steady (seq as) := keeps_seq h
@[simp] theorem steady_whenA {c : Bool} {a : Act} (h : Steady a) : Steady (whenA c a) := keeps_whenA h
@[simp] theorem steady_whenS {c : State → Bool} {a : Act} (h : Steady a) : Steady (whenS c a) := keeps_whenS h
@[simp] theorem steady_withS {f : State → Act} (h : ∀ s, Steady (f s)) : Steady (withS f) := keeps_withS h
@[simp] theorem steady_ite {c : Prop} [Decidable c] {a b : Act} (h : Steady a) (h2 : Steady b) : Steady (if c then a else b) := keeps_ite h h2
@[simp] theorem steady_forA {α : Type} {xs : List α} {f : α → Act} (h : ∀ x, Steady (f x)) : Steady (forA xs f) := keeps_forA h
@[simp] theorem steady_setF {f : Fld} {v : Nat} (h : f.Apart) : Steady (setF f v) := fun s => account_putFld s v h
@[simp] theorem steady_countF {f : Fld} {n : Nat} (h : f.Apart) : Steady (countF f n) := fun s => account_putFld s _ h
@[simp] theorem steady_updPlan {f : PlanSt → PlanSt}
    (h : ∀ p, (f p).inForce = p.inForce ∧ (f p).next = p.next ∧ (f p).stopping = p.stopping) : Steady (updPlan f) := fun s => by
  obtain ⟨h1, h2, h3⟩ := h s.plan
  simp only [State.account, act_updPlan, h1, h2, h3]; rfl
@[simp] theorem steady_updRm (f : RmSt → RmSt) : Steady (updRm f) := fun _ => rfl
@[simp] theorem steady_updTs (f : TsSt → TsSt) : Steady (updTs f) := fun _ => rfl
@[simp] theorem steady_updHot (f : HotSt → HotSt) : Steady (updHot f) := fun _ => rfl
@[simp] theorem steady_updWear (f : WearSt → WearSt) : Steady (updWear f) := fun _ => rfl
@[simp] theorem steady_updFu (f : FuSt → FuSt) : Steady (updFu f) := fun _ => rfl
@[simp] theorem steady_updIsl (f : IslSt → IslSt) : Steady (updIsl f) := fun _ => rfl
@[simp] theorem steady_updPw (f : PwSt → PwSt) : Steady (updPw f) := fun _ => rfl
@[simp] theorem steady_updBoot (f : BootSt → BootSt) : Steady (updBoot f) := fun _ => rfl
@[simp] theorem steady_updBus (f : BusSt → BusSt) : Steady (updBus f) := fun _ => rfl
@[simp] theorem steady_updUnit (u : Nat) (f : UnitSt → UnitSt) : Steady (updUnit u f) := fun _ => rfl
@[simp] theorem steady_updSlot (i : Nat) (f : SlotRun → SlotRun) : Steady (updSlot i f) := fun _ => rfl
@[simp] theorem steady_updTsEntry (p t : Nat) (f : TsEntry → TsEntry) : Steady (updTsEntry p t f) := fun _ => rfl
@[simp] theorem steady_updFgroup (g : Nat) (f : FgSt → FgSt) : Steady (updFgroup g f) := fun _ => rfl
@[simp] theorem steady_updStream (i : Nat) (f : StreamSt → StreamSt) : Steady (updStream i f) := fun _ => rfl
@[simp] theorem steady_updPort (p : Nat) (f : YlSt → YlSt) : Steady (updPort p f) := fun _ => rfl
@[simp] theorem steady_assertWire (src o : Nat) : Steady (assertWire src o) := steady_updIsl _
@[simp] theorem steady_chargePort (t n p : Nat) : Steady (chargePort t n p) := fun _ => rfl
@[simp] theorem steady_lose (a n : Nat) : Steady (lose a n) := keeps_lose fun _ _ _ => rfl

/-- An action that is chosen by the state and then steady. -/
theorem steady_of_eq {a : Act} (h : ∀ s, ∃ b, Steady b ∧ a s = b s) : Steady a := by
  intro s
  obtain ⟨b, hb, e⟩ := h s
  simpa only [State.act, e] using hb s

/-- A quiet action is steady when it keeps the fields of the account. -/
theorem Quiet.steady {a : Act} (h : Quiet a) (hf : ∀ f ∈ accountFields, Keeps (fun s => s.get f) a) : Steady a := fun s =>
  account_eq s (h.keeps_grid s) (h.keeps_time s) (h.keeps_plan s) fun f m => hf f m s

@[simp] theorem steady_raiseInt (p b : Nat) : Steady (raiseInt p b) := by
  have apart : (INT_STAT p).Apart := apart_of_off (by simp [INT_STAT]) (by simp only [INT_STAT]; omega)
  exact (quiet_raiseInt p b).steady fun f hf => keeps_get_raiseInt b (apart f hf)

@[simp] theorem steady_reportNow {cls : Nat} (hc : cls < 16) (o code page unit init tkt : Nat) (d : Bool) (a : Option Nat) (x : Nat) :
    Steady (reportNow cls o code page unit init tkt d a x) := by
  have calm : ∀ f ∈ accountFields, f.calm := by unfold Fld.calm; decide
  exact (quiet_reportNow cls o code page unit init tkt d a x).steady fun f hf => keeps_get_reportNow (calm f hf) hc o code page unit init tkt d a x

/-! ### Fields that hold no account -/

@[simp] theorem apart_memory (n : Nat) : (BT_HBM_HEALTH_LOST_USED n).Apart :=
  apart_of_off (by simp [BT_HBM_HEALTH_LOST_USED]) (by simp only [BT_HBM_HEALTH_LOST_USED]; omega)

@[simp] theorem apart_violations (n : Nat) : (FW_VIOL_INFO_VALID n).Apart ∧ (FW_VIOL_INFO_SC n).Apart ∧ (FW_VIOL_INFO_ACC n).Apart
    ∧ (FW_VIOL_INFO_TICKET n).Apart ∧ (FW_VIOL_INFO_INIT n).Apart ∧ (FW_VIOL_INFO_WIN n).Apart ∧ (FW_VIOL_INFO_COUNT n).Apart
    ∧ (FW_VIOL_ADDR_ADDR n).Apart := by
  refine ⟨?_, ?_, ?_, ?_, ?_, ?_, ?_, ?_⟩ <;> apply apart_of_off <;> simp only [FW_VIOL_INFO_VALID, FW_VIOL_INFO_SC, FW_VIOL_INFO_ACC,
    FW_VIOL_INFO_TICKET, FW_VIOL_INFO_INIT, FW_VIOL_INFO_WIN, FW_VIOL_INFO_COUNT, FW_VIOL_ADDR_ADDR] <;> omega

@[simp] theorem apart_rates (n i : Nat) : (FW_TS_RATE_RATE n i).Apart ∧ (FW_TS_RATE_BURST n i).Apart := by
  have page : 10 ≤ if n = 4 then 10 else 18 + 16 * n := by split <;> omega
  constructor <;> apply apart_of_off <;> simp only [FW_TS_RATE_RATE, FW_TS_RATE_BURST] <;> omega

@[simp] theorem apart_engine (n : Nat) : (TE_STATUS_STATE n).Apart ∧ (TE_STATUS_SERVES n).Apart ∧ (TE_CAP_ACTIVE_ON_DIE n).Apart
    ∧ (TE_CAP_SPARE_FREE n).Apart := by
  refine ⟨?_, ?_, ?_, ?_⟩ <;> apply apart_of_off <;>
    simp only [TE_STATUS_STATE, TE_STATUS_SERVES, TE_CAP_ACTIVE_ON_DIE, TE_CAP_SPARE_FREE] <;> omega

/-- RUNNING of a carousel entry: its register's offset is 8 from a multiple of 32 on. -/
@[simp] theorem apart_carousel (i : Nat) : (EL_CAR_RUNNING i).Apart :=
  apart_of_off (by simp [EL_CAR_RUNNING]) (by simp only [EL_CAR_RUNNING]; omega)

@[simp] theorem apart_ringmaster : RM_STATUS_DEGRADED.Apart ∧ RM_MISS_CNT_PERC_MISS.Apart ∧ RM_MISS_CNT_CTRL_MISS.Apart
    ∧ RM_SVT_SVT.Apart := by unfold Fld.Apart; decide

@[simp] theorem apart_units (i : Nat) : (RM_UNIT_STAT_BACKUP_MODE i).Apart ∧ (RM_UNIT_STAT_BACKUP_NOW i).Apart
    ∧ (RM_CLIENT_SHARE_SHARE i).Apart ∧ (RM_CLIENT_ACCT_VT i).Apart := by
  refine ⟨?_, ?_, ?_, ?_⟩ <;> apply apart_of_off <;> simp only [RM_UNIT_STAT_BACKUP_MODE, RM_UNIT_STAT_BACKUP_NOW,
    RM_CLIENT_SHARE_SHARE, RM_CLIENT_ACCT_VT] <;> omega

@[simp] theorem apart_boot : PW_PHASE_VALID.Apart ∧ BT_BOOT_STAT_PHASE.Apart := by unfold Fld.Apart; decide

@[simp] theorem apart_calibration : FU_CAL_COMMIT_MARK.Apart ∧ FU_CAL_STAT_APPLIED.Apart ∧ FU_CAL_STAT_REJECTS.Apart
    ∧ FU_CAL_EPOCH_CAL_EPOCH.Apart ∧ FU_STATUS_HELD.Apart := by unfold Fld.Apart; decide

@[simp] theorem apart_groups (i : Nat) : (FU_GROUP_STAT_CYC_LOST i).Apart ∧ (FU_GROUP_STAT_TIMEOUTS i).Apart
    ∧ (FU_GROUP_STAT_CYCLE i).Apart ∧ (FU_GROUP_LAST_OUT_TIME i).Apart := by
  refine ⟨?_, ?_, ?_, ?_⟩ <;> apply apart_of_off <;> simp only [FU_GROUP_STAT_CYC_LOST, FU_GROUP_STAT_TIMEOUTS,
    FU_GROUP_STAT_CYCLE, FU_GROUP_LAST_OUT_TIME] <;> omega

@[simp] theorem apart_streams (i : Nat) : (FU_STREAM_LATE_UNREL i).Apart ∧ (FU_STREAM_WIN_WIN_SEEN i).Apart
    ∧ (FU_STREAM_WIN_WIN_LATE i).Apart := by
  refine ⟨?_, ?_, ?_⟩ <;> apply apart_of_off <;> simp only [FU_STREAM_LATE_UNREL, FU_STREAM_WIN_WIN_SEEN, FU_STREAM_WIN_WIN_LATE] <;> omega

/-! ### Memory -/

@[simp] theorem steady_spoilCtxs (cs : List Nat) : Steady (spoilCtxs cs) := by
  intro s; simp only [State.act, spoilCtxs]; split <;> rfl

/-- Used-up free values are no part of the account. -/
theorem account_bumps (n : Nat) : (s.run (List.replicate n .bump)).account = s.account := by
  induction n generalizing s with
  | zero => rfl
  | succ n ih => exact ih _

@[simp] theorem steady_spoilTake (a n : Nat) : Steady (spoilTake a n) := by
  intro s; simp only [State.act, spoilTake]; split
  · split
    · exact account_bumps _ _
    · rfl
  · rfl

@[simp] theorem steady_spoilMap : Steady spoilMap := steady_lose _ _

@[simp] theorem steady_loseRange (a n : Nat) : Steady (loseRange a n) := by
  refine steady_forA fun q => steady_of_eq fun s => ?_
  split
  · exact ⟨skip, by simp, rfl⟩
  · exact ⟨_, by simp, rfl⟩
  · exact ⟨_, by simp, rfl⟩
  · exact ⟨_, by simp, rfl⟩

@[simp] theorem steady_sendPeer (p : Nat) (bs : List Byte) : Steady (sendPeer p bs) := by
  refine steady_withS fun s => ?_
  split <;> simp

@[simp] theorem steady_store (a : Nat) (bs : List Byte) : Steady (store a bs) := fun _ => rfl

@[simp] theorem steady_storePieces (ps : List (Nat × Nat)) (bs : List Byte) : Steady (storePieces ps bs) := by
  induction ps generalizing bs with
  | nil => exact steady_skip
  | cons q r ih =>
    refine steady_seq_cons (steady_of_eq fun s => ?_) (steady_seq_cons (ih _) steady_seq_nil)
    split
    · exact ⟨_, steady_sendPeer _ _, rfl⟩
    · split
      · exact ⟨store _ _, steady_store _ _, rfl⟩
      · exact ⟨_, steady_spoilMap, rfl⟩
    · exact ⟨store _ _, steady_store _ _, rfl⟩

@[simp] theorem steady_unlist (k p n : Nat) : Steady (unlist k p n) :=
  steady_withS fun _ => steady_ite (steady_seq (by simp)) steady_skip

@[simp] theorem steady_writeRange (a : Nat) (bs : List Byte) : Steady (writeRange a bs) := by
  refine steady_seq_cons (steady_storePieces _ _) (steady_seq_cons (steady_forA fun q => steady_of_eq fun s => ?_) steady_seq_nil)
  split
  · exact ⟨_, by simp, rfl⟩
  · exact ⟨_, steady_spoilTake _ _, rfl⟩
  · exact ⟨skip, steady_skip, rfl⟩

@[simp] theorem steady_charge (init t : Nat) (w : Bool) (a n : Nat) : Steady (charge init t w a n) := by simp [charge]

@[simp] theorem steady_violation (init tkt acc a win : Nat) : Steady (violation init tkt acc a win) :=
  steady_seq_cons (steady_whenS (steady_seq_cons (fun _ => rfl) (steady_seq (by simp)))) (by simp)

/-! ### The end of a frame -/

@[simp] theorem steady_loseOuts (u : Nat) (j : Job) : Steady (loseOuts u j) := by
  refine steady_withS fun s => steady_forA fun r => steady_forA fun q => ?_
  split <;> simp

@[simp] theorem steady_stopRunning (u st : Nat) : Steady (stopRunning u st) := by
  refine steady_withS fun s => ?_
  split <;> simp [endRunning]

@[simp] theorem steady_stopSlotJobs (id : Nat) : Steady (stopSlotJobs id) :=
  steady_seq_cons (steady_withS fun _ => steady_forA fun _ => by simp) (by simp)

@[simp] theorem steady_testsEnd (t : Slot) : Steady (testsEnd t) :=
  steady_withS fun _ => steady_ite steady_skip (steady_seq (by simp))

@[simp] theorem steady_checkSlot (t : Slot) : Steady (checkSlot t) := by
  have missed : ∀ u : Nat, Steady (if t.typ = 2 then seq [countF RM_MISS_CNT_PERC_MISS 1, raiseInt pageRM 2,
        reportNow 4 4 0x131 pageRM u 0xFFF 0 false none t.id]
      else seq [countF RM_MISS_CNT_CTRL_MISS 1, raiseInt pageRM 1, reportNow 4 4 0x130 pageRM u 0xFFF 0 true none t.id, assertWire 2 4]) :=
    fun u => steady_ite (steady_seq (by simp)) (steady_seq (by simp))
  refine steady_withS fun s => steady_ite steady_skip (steady_seq_cons (by simp) (steady_seq_cons (by simp) (steady_seq_cons ?_ steady_seq_nil)))
  exact steady_ite (by simp) (steady_ite steady_skip (steady_seq (by simp [missed])))

theorem steady_endFrame : Steady endFrame :=
  steady_seq_cons (steady_withS fun _ => by simp) (by simp)

/-! ### Positions and slots -/

@[simp] theorem steady_percShare : Steady percShare := by
  refine steady_withS fun s => ?_
  split <;> simp

@[simp] theorem steady_retireUnit (u : Nat) : Steady (retireUnit u) := by
  have told : Steady (whenA (u < 36) (seq [raiseInt pageRM 4,
      reportNow 6 (u / 9) 0x151 (pageELd (u / 9)) u 0xFFF 0 false none (u + 256 * (u % 9))])) := steady_whenA (steady_seq (by simp))
  exact steady_withS fun _ => steady_ite steady_skip (steady_seq (by simp [told]))

@[simp] theorem steady_putEngine (d k st e : Nat) : Steady (putEngine d k st e) := by simp [putEngine]

@[simp] theorem steady_leavePosition (d e : Nat) : Steady (leavePosition d e) := by simp [leavePosition]

@[simp] theorem steady_substitute (u : Nat) : Steady (substitute u) := by simp [substitute]

@[simp] theorem steady_refreshCap (d : Nat) : Steady (refreshCap d) :=
  steady_withS fun _ => steady_forA fun _ => steady_seq (by simp)

@[simp] theorem steady_replaceUnit (u : Nat) : Steady (replaceUnit u) :=
  steady_ite (steady_seq (by simp)) (steady_withS fun _ => steady_ite steady_skip (steady_seq (by simp)))

@[simp] theorem steady_replaceFailed : Steady replaceFailed :=
  steady_withS fun _ => steady_seq (by simp)

@[simp] theorem steady_checkActMin : Steady checkActMin := by
  refine steady_withS fun s => ?_
  split <;> simp

@[simp] theorem steady_freshSlots : Steady freshSlots :=
  steady_withS fun _ => steady_seq (by simp)

@[simp] theorem steady_displace (t : Slot) : Steady (displace t) :=
  steady_withS fun _ => steady_ite steady_skip (steady_seq (by simp))

@[simp] theorem steady_activateBackup (t : Slot) : Steady (activateBackup t) :=
  steady_withS fun _ => steady_seq (by simp)

@[simp] theorem steady_runAsOpen (t : Slot) : Steady (runAsOpen t) := steady_updSlot _ _

@[simp] theorem steady_backupFrame : Steady backupFrame :=
  steady_withS fun _ => steady_seq (by simp)

@[simp] theorem steady_useAhead : Steady useAhead := by
  refine steady_withS fun s => steady_seq_cons (by simp) (steady_seq_cons (steady_forA fun x => ?_) steady_seq_nil)
  split <;> simp

@[simp] theorem steady_refreshReady : Steady refreshReady :=
  steady_withS fun _ => steady_seq (by simp)

/-! ### Calibration and cycles -/

@[simp] theorem steady_fuReads (a n : Nat) : Steady (fuReads a n) := by simp [fuReads]

@[simp] theorem steady_fuWrite (a : Nat) (bs : List Byte) : Steady (fuWrite a bs) :=
  steady_withS fun _ => steady_ite (steady_seq (by simp)) (by simp)

@[simp] theorem steady_applyCal : Steady applyCal :=
  steady_withS fun _ => steady_ite steady_skip (steady_seq_cons (steady_forA fun _ => steady_withS fun _ => steady_seq (by simp)) (by simp))

@[simp] theorem steady_refineCal : Steady refineCal := by
  refine steady_withS fun s => steady_seq_cons (by simp) (steady_seq_cons (steady_forA fun i => ?_) (by simp))
  split
  · simp
  · exact steady_seq (by simp)

@[simp] theorem steady_calBoundary : Steady calBoundary := by simp [calBoundary]

@[simp] theorem steady_closeCycle (g : Nat) (c : Cycle) : Steady (closeCycle g c) :=
  steady_withS fun _ => steady_seq_cons (steady_whenA (steady_seq (by simp))) (steady_seq (by simp))

@[simp] theorem steady_reinstateMembers (g : Nat) : Steady (reinstateMembers g) :=
  steady_withS fun _ => steady_forA fun _ => steady_seq (by simp)

@[simp] theorem steady_startCycle (g : Nat) : Steady (startCycle g) := by
  refine steady_withS fun s => steady_ite steady_skip (steady_seq_cons ?_ (steady_seq_cons (by simp)
    (steady_seq_cons (steady_withS fun _ => steady_seq (by simp)) steady_seq_nil)))
  split <;> simp

/-! ### Plans -/

@[simp] theorem steady_leaveBackupMode : Steady leaveBackupMode :=
  steady_withS fun _ => steady_seq (by simp)

@[simp] theorem steady_discardPhases : Steady discardPhases := by simp [discardPhases]

@[simp] theorem steady_planRates (rs : List Rate) : Steady (planRates rs) := by
  refine steady_seq_cons (by simp) (steady_seq_cons (steady_forA fun p => steady_forA fun t => steady_withS fun s => ?_)
    (steady_seq_cons (fun _ => rfl) steady_seq_nil))
  dsimp only
  split
  · exact steady_seq (by simp)
  · exact steady_ite steady_skip (steady_seq (by simp))

@[simp] theorem steady_repin (p : PlanImg) : Steady (repin p) := steady_updHot _

/-! ### What the boundary's own writes do to the account -/

theorem get_setF_same (f : Fld) (v : Nat) : (s.act (setF f v)).get f = v % 2 ^ f.width := get_put_same s s.regs f v

theorem get_setF_other {f g : Fld} {v : Nat} (h : f.key ≠ g.key) : (s.act (setF g v)).get f = s.get f := keeps_get_setF h s

theorem account_frameIdx (v : Nat) : (s.act (setF RM_STATUS_FRAME_IDX v)).account = { s.account with frameIdx := v % 2 ^ 5 } := by
  simp (disch := decide) only [State.account, State.frameIdx, State.major, get_setF_same, get_setF_other]; rfl

theorem account_major (v : Nat) : (s.act (setF RM_FRAME_MAJOR v)).account = { s.account with major := v % 2 ^ 48 } := by
  simp (disch := decide) only [State.account, State.frameIdx, State.major, get_setF_same, get_setF_other]; rfl

theorem account_planId (v : Nat) : (s.act (setF RM_PLAN_ID_ID v)).account = { s.account with planId := v % 2 ^ 64 } := by
  simp (disch := decide) only [State.account, State.frameIdx, State.major, get_setF_same, get_setF_other]; rfl

theorem account_planStatus (v : Nat) : (s.act (setF RM_STATUS_PLAN v)).account = { s.account with planStatus := v % 2 ^ 2 } := by
  simp (disch := decide) only [State.account, State.frameIdx, State.major, get_setF_same, get_setF_other]; rfl

theorem nextIdx_lt : nextIdx s < 20 := by unfold nextIdx; split <;> omega

/-- The account after the count: the boundary's cycle and t_k, frame index and major frame count (R30, R31). -/
def counted (b : Nat) : FrameAccount :=
  { s.account with grid := { s.grid with running := true, boundaryAt := b, tk := s.timestamp }, frameIdx := nextIdx s,
                   major := nextMajor s b % 2 ^ 48 }

theorem account_countFrame (b : Nat) : (s.act (countFrame b)).account = counted s b := by
  have small : nextIdx s % 2 ^ 5 = nextIdx s := Nat.mod_eq_of_lt (Nat.lt_trans (nextIdx_lt s) (by decide))
  have grid (t : State) (f : GridSt → GridSt) : (t.act (updGrid f)).account = { t.account with grid := f t.account.grid } := rfl
  simp only [countFrame, counted, act_withS, act_seq_cons, act_seq_nil, grid, account_major, account_frameIdx, small]; rfl

section
variable {s} {t : State} (h : t.account = s.account)
include h

theorem nextIdx_congr : nextIdx t = nextIdx s := by
  have grid : t.grid = s.grid := congrArg FrameAccount.grid h
  have idx : t.frameIdx = s.frameIdx := congrArg FrameAccount.frameIdx h
  rw [nextIdx, grid, idx, nextIdx]

theorem takesOver_congr (b : Nat) : takesOver t b = takesOver s b := by
  have next : t.plan.next = s.plan.next := congrArg FrameAccount.next h
  rw [takesOver, next, nextIdx_congr h, takesOver]

theorem nextMajor_congr (b : Nat) : nextMajor t b = nextMajor s b := by
  have grid : t.grid = s.grid := congrArg FrameAccount.grid h
  have major : t.major = s.major := congrArg FrameAccount.major h
  rw [nextMajor, takesOver_congr h, nextIdx_congr h, grid, major, nextMajor]

/-- What a count shows is decided by the account. -/
theorem counted_congr (b : Nat) : counted t b = counted s b := by
  have grid : t.grid = s.grid := congrArg FrameAccount.grid h
  have time : t.timestamp = s.timestamp := congrArg (fun v => (1000000000 * v.time.sec + v.time.ns) % 2 ^ 64) h
  rw [counted, h, grid, time, nextIdx_congr h, nextMajor_congr h, counted]

end

/-- Plan `p` is in force from the boundary on (R286, R287). -/
theorem account_planStarts (p : PlanImg) : (s.act (planStarts p)).account =
    { s.account with inForce := some p, next := none, planId := p.planId % 2 ^ 64, planStatus := 1 } := by
  have phases : Steady (whenA (s.get RM_PLAN_ID_ID != p.planId) discardPhases) := steady_whenA steady_discardPhases
  have booted : Steady (seq [bootPhase 12, bootStop]) := steady_seq (by simp [bootPhase, bootStop])
  have rest : Steady (seq [leaveBackupMode, planRates p.rates, repin p, raiseInt pageRM 0,
      whenA (s.boot.step == 12) (seq [bootPhase 12, bootStop])]) := steady_seq (by simp [booted])
  rw [planStarts, act_withS, act_seq_cons, act_seq_cons, act_seq_cons, act_seq_cons, rest, account_planId, phases,
    account_planStatus]; rfl

/-- No plan is in force from the boundary on (R289). -/
theorem account_planEnds : (s.act planEnds).account = { s.account with inForce := none, stopping := false, planStatus := 0 } := by
  rw [planEnds, act_seq_cons, act_seq_cons, act_seq_cons, act_seq_nil, steady_leaveBackupMode, account_planStatus]; rfl

/-! ### The whole boundary -/

/-- The account after a boundary: the count, then the plan that takes over, or the end of the one that stops. -/
def accountAfter (b : Nat) : FrameAccount := match takesOver s b with
  | some p => { counted s b with inForce := some p, next := none, planId := p.planId % 2 ^ 64, planStatus := 1 }
  | none =>
    if s.plan.stopping = true ∧ nextIdx s = 0 then { counted s b with inForce := none, stopping := false, planStatus := 0 }
    else counted s b

variable {s} {b : Nat}

theorem accountAfter_of_some {p : PlanImg} (h : takesOver s b = some p) :
    accountAfter s b = { counted s b with inForce := some p, next := none, planId := p.planId % 2 ^ 64, planStatus := 1 } := by
  simp only [accountAfter, h]

theorem accountAfter_of_none (h : takesOver s b = none) : accountAfter s b =
    if s.plan.stopping = true ∧ nextIdx s = 0 then { counted s b with inForce := none, stopping := false, planStatus := 0 } else counted s b := by
  simp only [accountAfter, h]

/-- The change of plan in a state that has just counted. -/
theorem account_changePlan {t : State} (ht : t.account = counted s b) :
    (t.act (changePlan (takesOver s b))).account = accountAfter s b := by
  have stopping : t.plan.stopping = s.plan.stopping := congrArg FrameAccount.stopping ht
  have idx : t.frameIdx = nextIdx s := congrArg FrameAccount.frameIdx ht
  cases h : takesOver s b with
  | some p => rw [accountAfter_of_some h, changePlan, account_planStarts, ht]
  | none =>
    simp only [accountAfter_of_none h, changePlan, act_whenS, stopping, idx, Bool.and_eq_true, beq_iff_eq]
    split
    · rw [account_planEnds, ht]
    · exact ht

/-- Of a boundary's parts only the count and the change of plan show in the account. -/
theorem account_frameBoundary : (s.act (frameBoundary b)).account = accountAfter s b := by
  have rest : Steady (seq [replaceFailed, checkActMin, freshSlots, backupFrame, useAhead, whenA (nextIdx s == 0) calBoundary,
      forA (List.range 16) startCycle, refreshReady]) := by simp
  rw [frameBoundary, act_withS, act_seq_cons, act_seq_cons, act_seq_cons, rest]
  exact account_changePlan ((account_countFrame _ b).trans (counted_congr (steady_endFrame s) b))

/-- Grid, time and frame index are counted whatever becomes of the plans. -/
theorem accountAfter_counts : (accountAfter s b).grid = { s.grid with running := true, boundaryAt := b, tk := s.timestamp }
    ∧ (accountAfter s b).time = s.time ∧ (accountAfter s b).frameIdx = nextIdx s ∧ (accountAfter s b).major = nextMajor s b % 2 ^ 48 := by
  unfold accountAfter
  split
  · exact ⟨rfl, rfl, rfl, rfl⟩
  · split <;> exact ⟨rfl, rfl, rfl, rfl⟩

/-! ### When a boundary is due, and whether a plan takes over -/

theorem takesOver_of_next {p : PlanImg × Nat} (hn : s.plan.next = some p) (hi : nextIdx s = 0) (hp : p.2 ≤ b) :
    takesOver s b = some p.1 := by
  simp only [takesOver, hn, hi, hp, and_self, if_true]

theorem takesOver_eq_none (h : ∀ p, s.plan.next = some p → nextIdx s ≠ 0 ∨ b < p.2) : takesOver s b = none := by
  unfold takesOver
  split
  · rename_i p hn
    have := h p hn
    exact if_neg (by omega)
  · rfl

theorem nextMajor_of_some {p : PlanImg} (h : takesOver s b = some p) : nextMajor s b % 2 ^ 48 = 0 := by
  simp only [nextMajor, h, Option.isSome_some, if_true, Nat.zero_mod]

theorem nextMajor_of_none (h : takesOver s b = none) :
    nextMajor s b % 2 ^ 48 = if s.grid.running = true ∧ nextIdx s = 0 then (s.major + 1) % 2 ^ 48 else s.major % 2 ^ 48 := by
  simp only [nextMajor, h, Option.isSome_none, Bool.false_eq_true, if_false, Bool.and_eq_true, beq_iff_eq]
  split
  · exact Nat.mod_mod _ _
  · rfl

theorem dueBoundary_eq_none (hr : s.grid.running = true → s.grid.now < s.grid.boundaryAt + 550000)
    (hp : s.grid.running = false → ∀ p, s.plan.next = some p → s.grid.now < p.2) : dueBoundary s = none := by
  unfold dueBoundary
  split
  · exact if_neg (Nat.not_le.2 (hr ‹_›))
  · split
    · exact if_neg (Nat.not_le.2 (hp (Bool.eq_false_iff.2 ‹_›) _ ‹_›))
    · rfl

theorem dueBoundary_eq_some (hr : s.grid.running = true → b = s.grid.boundaryAt + 550000)
    (hp : s.grid.running = false → ∃ p, s.plan.next = some p ∧ p.2 = b) (hb : b ≤ s.grid.now) : dueBoundary s = some b := by
  cases hg : s.grid.running with
  | true => obtain rfl := hr hg; simp only [dueBoundary, hg, hb, if_true]
  | false =>
    obtain ⟨p, hn, rfl⟩ := hp hg
    simp only [dueBoundary, hg, hn, hb, Bool.false_eq_true, if_false, if_true]

theorem exec_controlFrameBoundary : exec .controlFrameBoundary s = .next (s.act (match dueBoundary s with
    | some b => frameBoundary b
    | none => skip)) := rfl

/-- Settles O41. Without a boundary due the command skips. A boundary is read off its account: grid, time and count whatever becomes
of the plans, then plan and registers by whether a plan takes over. -/
theorem boundariesCountFramesAndSwitchPlans : Obligations.BoundariesCountFramesAndSwitchPlans := by
  unfold Obligations.BoundariesCountFramesAndSwitchPlans
  refine fun s => ⟨fun hr hp => ?_, fun b hr hp hb => ?_⟩
  · rw [exec_controlFrameBoundary, dueBoundary_eq_none hr hp, act_skip]
  have read {α : Type} {v : FrameAccount} (h : accountAfter s b = v) (π : FrameAccount → α) : π (s.act (frameBoundary b)).account = π v :=
    congrArg π (account_frameBoundary.trans h)
  obtain ⟨hgrid, htime, hidx, hmajor⟩ := accountAfter_counts (s := s) (b := b)
  have grid : (s.act (frameBoundary b)).grid = _ := (read rfl FrameAccount.grid).trans hgrid
  have major : (s.act (frameBoundary b)).get RM_FRAME_MAJOR = _ := (read rfl FrameAccount.major).trans hmajor
  obtain ⟨hfw, hsil, hdbg⟩ := act_keepsTrust s (frameBoundary b)
  refine ⟨_, by rw [exec_controlFrameBoundary, dueBoundary_eq_some hr hp hb], by rw [grid], by rw [grid], by rw [grid], by rw [grid],
    (read rfl FrameAccount.frameIdx).trans hidx, fun p hn hi hpb => ?_, fun hnot => ?_, hfw, hsil, hdbg, (read rfl FrameAccount.time).trans htime⟩
  · have takes : takesOver s b = some p.1 := takesOver_of_next hn hi hpb
    have after := accountAfter_of_some takes
    exact ⟨read after FrameAccount.inForce, read after FrameAccount.next, read after FrameAccount.planId, read after FrameAccount.planStatus,
      major.trans (nextMajor_of_some takes)⟩
  · have stays : takesOver s b = none := takesOver_eq_none hnot
    have after := accountAfter_of_none stays
    refine ⟨major.trans (nextMajor_of_none stays), ?_, fun hs hi => ?_, fun hor => ?_⟩
    · refine (read after FrameAccount.next).trans ?_
      split <;> rfl
    · rw [if_pos ⟨hs, hi⟩] at after
      exact ⟨read after FrameAccount.inForce, read after FrameAccount.planStatus⟩
    · rw [if_neg fun h => hor.elim (by simp [h.1]) (· h.2)] at after
      exact ⟨read after FrameAccount.inForce, read after FrameAccount.planStatus⟩

end Sys2Proof.Machine

/-! SUPPORT. RESET_DIE and RESET_ENG (R63, R178, R652, R653): what each changes beside the registers, and the frame of a die that comes up. -/

namespace Sys2Proof.Machine

variable (s : State)

/-! ### Writes of the island, and the guard of R652 -/

theorem isInit_of_isIsland {init : Nat} (h : isIsland init = true) : isInit init = true := by
  simp only [isIsland, Bool.or_eq_true, beq_iff_eq] at h
  rcases h with (rfl | rfl) | rfl <;> decide

theorem exec_resetDie {init tkt d : Nat} (hi : isIsland init = true) (ht : tkt < 64) (hd : d < 4)
    (hr : Reaches s init tkt 1 (pageAddr 0 0x100) 8) : exec (.resetDie init tkt d) s = .next (s.act (narrowReset (dieReset d))) := by
  have wf : Instr.wellFormed (.resetDie init tkt d) = true := by
    simp only [Instr.wellFormed, isInit_of_isIsland hi, isTicket, decide_eq_true ht, decide_eq_true hd, Bool.and_self]
  have arm : exec (.resetDie init tkt d) s = execResetDie init tkt d s := rfl
  rw [arm, execResetDie, perform_of s wf, act_islandWrite s hi hr]

theorem exec_resetEng {init tkt g : Nat} (hi : isIsland init = true) (ht : tkt < 64) (hg : g < 36)
    (hr : Reaches s init tkt 1 (pageAddr 0 0x100) 8) : exec (.resetEng init tkt g) s = .next (s.act (narrowReset (engineReset g))) := by
  have wf : Instr.wellFormed (.resetEng init tkt g) = true := by
    simp only [Instr.wellFormed, isInit_of_isIsland hi, isTicket, decide_eq_true ht, decide_eq_true hg, Bool.and_self]
  have arm : exec (.resetEng init tkt g) s = execResetEng init tkt g s := rfl
  rw [arm, execResetEng, perform_of s wf, act_islandWrite s hi hr]

theorem act_narrowReset_ignored (h : s.boot.kind = 1 ∨ s.boot.kind = 2) (a : Act) : s.act (narrowReset a) = s := by
  rcases h with h | h <;> simp [narrowReset, h]

theorem act_narrowReset (h1 : s.boot.kind ≠ 1) (h2 : s.boot.kind ≠ 2) (ht : s.pw.transition = none) (a : Act) :
    s.act (narrowReset a) = s.act a := by
  have stays : s.act abandon = s := by simp only [abandon, act_withS, ht, act_skip]
  simp [narrowReset, h1, h2, stays]

/-! ### A die's units without a job -/

theorem act_abortUnit_idle {u : Nat} (hr : (s.unit u).running = none) (hs : (s.unit u).suspended = none) : s.act (abortUnit u) = s := by
  have nothing : s.act (stopRunning u stABORTED) = s := by simp only [stopRunning, act_withS, hr, act_skip]
  have parked : s.act (stopSuspended u stABORTED) = s := by simp only [stopSuspended, act_withS, hs, act_skip]
  simp only [abortUnit, act_seq_cons, nothing, parked, act_seq_nil]

theorem act_forA_stays {α : Type} {xs : List α} {f : α → Act} (h : ∀ x ∈ xs, s.act (f x) = s) : s.act (forA xs f) = s := by
  induction xs with
  | nil => rfl
  | cons x xs ih => rw [act_forA_cons, h x List.mem_cons_self, ih fun y hy => h y (List.mem_cons_of_mem _ hy)]

/-- Of fields with different keys, each set to the same value, each reads it. -/
theorem get_forA_setF {xs : List Nat} {F : Nat → Fld} {v e : Nat} (he : e ∈ xs) (h : ∀ x ∈ xs, e ≠ x → (F e).key ≠ (F x).key) :
    (s.act (forA xs fun x => setF (F x) v)).get (F e) = v % 2 ^ (F e).width := by
  induction xs generalizing s with
  | nil => cases he
  | cons x xs ih =>
    rw [act_forA_cons]
    by_cases later : e ∈ xs
    · exact ih _ later fun y hy => h y (List.mem_cons_of_mem _ hy)
    · obtain rfl : e = x := (List.mem_cons.1 he).resolve_right later
      have kept : Keeps (fun s => s.get (F e)) (forA xs fun x => setF (F x) v) := keeps_forA_mem fun y hy =>
        keeps_get_setF (h y (List.mem_cons_of_mem _ hy) fun same => later (same ▸ hy))
      exact (kept _).trans (get_setF_same s (F e) v)

/-- What a reset of die `d` does once the die's jobs have ended. -/
def dieRestart (d : Nat) : List Act :=
  [loseDieMem d, restoreFields evDIE (diePages d), resetDieState d, linksUp d, applySpares (inScratch d), dieUp false d]

theorem act_dieReset_idle {d : Nat} (hoff : dieOff s d = false)
    (hidle : ∀ u, u < 104 → unitDie u = d → (s.unit u).running = none ∧ (s.unit u).suspended = none) :
    s.act (dieReset d) = s.act (seq (dieRestart d)) := by
  have stays : s.act (forA (dieUnits d) abortUnit) = s := act_forA_stays s fun u hu => by
    simp only [dieUnits, List.mem_filter, List.mem_range, beq_iff_eq] at hu
    obtain ⟨hr, hs⟩ := hidle u hu.1 hu.2
    exact act_abortUnit_idle s hr hs
  rw [dieReset, act_whenS, hoff]
  simp only [Bool.not_false, if_true, act_seq_cons, stays, dieRestart]

/-! ### A die comes up: its registers, the plan, messages, reports and doubt wires -/

/-- The state without what a die that comes up may change beside registers. -/
def State.still (s : State) : State := { s.loud with isl := State.reset.isl, plan := State.reset.plan }

/-- That, and what every field outside the pages `ps` reads. -/
def State.beyond (ps : List Nat) (s : State) : State × (Fld → Nat) := (s.still, fun f => if f.key / 0x400000 ∈ ps then 0 else s.get f)

variable {ps : List Nat}

theorem beyond_eq {t : State} (h : t.still = s.still) (hr : RegsBut [] ps s t) : t.beyond ps = s.beyond ps := by
  refine Prod.ext h (funext fun f => ?_)
  by_cases hf : f.key / 0x400000 ∈ ps
  · simp only [State.beyond, hf, if_true]
  · simp only [State.beyond, hf, if_false, hr f nofun hf]

theorem get_of_beyond {t : State} (h : t.beyond ps = s.beyond ps) {f : Fld} (hf : f.key / 0x400000 ∉ ps) : t.get f = s.get f := by
  have := congrFun (congrArg Prod.snd h) f
  simpa only [State.beyond, hf, if_false] using this

theorem keeps_of_beyond {α : Type} {π : State → α} {a : Act} (h : Keeps (State.beyond ps) a)
    (hπ : ∀ s : State, π s = π s.still) : Keeps π a :=
  fun s => by
    have same : (s.act a).still = s.still := congrArg Prod.fst (h s)
    rw [hπ, same, ← hπ]

theorem keepsBeyond_of_quiet {a : Act} (h : Quiet a) (hw : Writes [] ps a) : Keeps (State.beyond ps) a := fun s =>
  beyond_eq s (congrArg (fun x : State => { x with isl := State.reset.isl, plan := State.reset.plan }) (h s)) (hw s)

theorem keepsBeyond_setF {f : Fld} {v : Nat} (h : f.key / 0x400000 ∈ ps) : Keeps (State.beyond ps) (setF f v) :=
  keepsBeyond_of_quiet (quiet_setF f v) (writes_setF (.inr h))

theorem keepsBeyond_raiseInt {p : Nat} (b : Nat) (h : p ∈ ps) : Keeps (State.beyond ps) (raiseInt p b) := by
  have page : (INT_STAT p).key / 0x400000 = p := by simp only [Fld.key, INT_STAT]; omega
  exact keepsBeyond_of_quiet (quiet_raiseInt p b) (writes_raiseInt (.inr (by rwa [page])))

theorem keepsBeyond_assertWire (src o : Nat) : Keeps (State.beyond ps) (assertWire src o) := fun _ => rfl
theorem keepsBeyond_updPlan (f : PlanSt → PlanSt) : Keeps (State.beyond ps) (updPlan f) := fun _ => rfl

/-- The pages that die `d` may write as it comes up: its own, Ringmaster's, and the error log's. -/
def risePages (d : Nat) : List Nat := diePages d ++ pageRM :: logPages

theorem mem_diePages {d p : Nat} : p ∈ diePages d ↔ 16 + 16 * d ≤ p ∧ p < 32 + 16 * d := by
  simp only [diePages, List.mem_map, List.mem_range]
  exact ⟨fun ⟨i, hi, e⟩ => by omega, fun h => ⟨p - (16 + 16 * d), by omega, by omega⟩⟩

theorem mem_risePages_of_die {d p : Nat} (h : 16 + 16 * d ≤ p ∧ p < 32 + 16 * d) : p ∈ risePages d :=
  List.mem_append_left _ (mem_diePages.2 h)

theorem mem_risePages_of_log {d p : Nat} (h : p ∈ pageRM :: logPages) : p ∈ risePages d := List.mem_append_right _ h

section
variable {d : Nat}

/-- A field of one of the die's own pages. -/
theorem rise_setF {f : Fld} {v : Nat} (h : 16 + 16 * d ≤ f.key / 0x400000 ∧ f.key / 0x400000 < 32 + 16 * d) :
    Keeps (State.beyond (risePages d)) (setF f v) := keepsBeyond_setF (mem_risePages_of_die h)

theorem rise_vset (hd : d < 4) (c : CfgRecord) : Keeps (State.beyond (risePages d)) (loadVset c d) := by
  have notHub : d ≠ 4 := by omega
  refine keeps_withS fun s => keeps_seq_cons (rise_setF ?_) (keeps_seq_cons (rise_setF ?_)
    (keeps_seq_cons (keeps_whenA (keepsBeyond_assertWire _ _)) keeps_seq_nil))
  · simp only [Fld.key, PW_VSET_V_MIN, if_neg notHub]; omega
  · simp only [Fld.key, PW_VSET_V_SET, if_neg notHub]; omega

theorem rise_signatures (c : CfgRecord) : Keeps (State.beyond (risePages d)) (forA (List.range 20) fun i =>
    seq [setF (KV_GOLD_SIG_SIG d i) (c.kvGold.getD i 0), forA (List.range 9) fun k => setF (TE_GOLD_SIG_SIG (9 * d + k) i) (c.teGold.getD i 0)]) := by
  refine keeps_forA_mem fun i hi => keeps_seq_cons (rise_setF ?_) (keeps_seq_cons (keeps_forA_mem fun k hk => rise_setF ?_) keeps_seq_nil)
  · have := List.mem_range.1 hi
    simp only [Fld.key, KV_GOLD_SIG_SIG]; omega
  · have := List.mem_range.1 hi
    have := List.mem_range.1 hk
    simp only [Fld.key, TE_GOLD_SIG_SIG]; omega

theorem rise_loadDie (hd : d < 4) : Keeps (State.beyond (risePages d)) (loadDie d) := by
  refine keeps_withS fun s => keeps_seq_cons ?_ (keeps_seq_cons (rise_setF ?_) (keeps_seq_cons (rise_setF ?_) (keeps_seq_cons (rise_setF ?_)
    (keeps_seq_cons (keeps_forA_mem fun k hk => rise_setF ?_) keeps_seq_nil))))
  · split
    · exact keeps_skip
    · exact keeps_seq_cons (rise_vset hd _) (keeps_seq_cons (rise_signatures _) keeps_seq_nil)
  · simp only [Fld.key, BT_HBM_HEALTH_PPR_LEFT]; omega
  · simp only [Fld.key, BT_HBM_HEALTH_REMAP_USED]; omega
  · simp only [Fld.key, BT_HBM_CAP_USABLE_PAGES]; omega
  · have := List.mem_range.1 hk
    simp only [Fld.key, TE_HEALTH_FAIL_COUNT]; omega

theorem rise_putEngine {k : Nat} (hk : k < 9) (st e : Nat) : Keeps (State.beyond (risePages d)) (putEngine d k st e) := by
  refine keeps_seq_cons (rise_setF ?_) (keeps_seq_cons (rise_setF ?_) keeps_seq_nil)
  · simp only [Fld.key, TE_STATUS_STATE]; omega
  · simp only [Fld.key, TE_STATUS_SERVES]; omega

theorem rise_refreshCap : Keeps (State.beyond (risePages d)) (refreshCap d) := by
  refine keeps_withS fun s => keeps_forA_mem fun k hk => keeps_seq_cons (rise_setF ?_) (keeps_seq_cons (rise_setF ?_) keeps_seq_nil)
  · have := List.mem_range.1 hk
    simp only [Fld.key, TE_CAP_ACTIVE_ON_DIE]; omega
  · have := List.mem_range.1 hk
    simp only [Fld.key, TE_CAP_SPARE_FREE]; omega

theorem rise_retireUnit {u : Nat} (hu : u < 40) : Keeps (State.beyond (risePages d)) (retireUnit u) := by
  have rm : pageRM ∈ risePages d := mem_risePages_of_log List.mem_cons_self
  have told : Writes [] (risePages d) (reportNow 6 (u / 9) 0x151 (pageELd (u / 9)) u 0xFFF 0 false none (u + 256 * (u % 9))) :=
    writes_reportNow (by decide) (fun p hp => mem_risePages_of_log (List.mem_cons_of_mem _ hp)) _ _ _ _ _ _ _ _ _
  refine keeps_withS fun s => keeps_ite keeps_skip (keeps_seq_cons (keepsBeyond_setF ?_) (keeps_seq_cons (keepsBeyond_setF rm)
    (keeps_seq_cons (keepsBeyond_updPlan _) (keeps_seq_cons (keeps_whenA (keeps_seq_cons (keepsBeyond_raiseInt 4 rm)
      (keeps_seq_cons (keepsBeyond_of_quiet (quiet_reportNow _ _ _ _ _ _ _ _ _ _) told) keeps_seq_nil))) keeps_seq_nil))))
  rwa [show (RM_UNIT_STAT_BACKUP_MODE u).key / 0x400000 = pageRM by simp only [Fld.key, RM_UNIT_STAT_BACKUP_MODE, pageRM]; omega]

theorem rise_assignDie (hd : d < 4) : Keeps (State.beyond (risePages d)) (assignDie d) := by
  have rm : pageRM ∈ risePages d := mem_risePages_of_log List.mem_cons_self
  refine keeps_withS fun s => keeps_seq_cons ?positions (keeps_seq_cons ?spare (keeps_seq_cons rise_refreshCap (keeps_seq_cons ?kv
    (keeps_seq_cons ?retired (keeps_seq_cons (keeps_whenA (rise_retireUnit (by omega))) keeps_seq_nil)))))
  case positions =>
    refine keeps_forA_mem fun k hk => ?_
    have := List.mem_range.1 hk
    exact keeps_ite (rise_putEngine (by omega) _ _) (rise_putEngine (by omega) _ _)
  case spare =>
    refine keeps_ite (rise_putEngine (by decide) _ _) ?_
    split
    · exact keeps_seq_cons (rise_putEngine (by decide) _ _) (keeps_seq_cons (keepsBeyond_raiseInt 3 rm) keeps_seq_nil)
    · exact rise_putEngine (by decide) _ _
  case kv => exact rise_setF (by simp only [Fld.key, KV_STATUS_STATE]; omega)
  case retired =>
    refine keeps_forA_mem fun e he => rise_retireUnit ?_
    have inRange : e ∈ List.range 8 := by
      split at he
      · exact (List.mem_filter.1 (List.mem_of_mem_drop he)).1
      · exact (List.mem_filter.1 he).1
    have := List.mem_range.1 inRange
    omega

end

/-! ### What the parts of the restart keep -/

/-- The state without the storage, the registers, and what a die's reset may change beside them. -/
def State.outsideDies (s : State) : State :=
  { s.still with mem := State.reset.mem, fresh := 0, wear := State.reset.wear, eng := State.reset.eng, ts := State.reset.ts,
                 pw := State.reset.pw, boot := State.reset.boot }

section
variable {α : Type} {π : State → α} {d : Nat}

/-- What looks neither at registers nor at what a die's controllers hold is kept as these return to reset. -/
theorem keeps_resetDieState (h : ∀ (s : State) r w e i t, π { s with regs := r, wear := w, eng := e, isl := i, ts := t } = π s) :
    Keeps π (resetDieState d) :=
  keeps_withS fun _ => keeps_seq_cons (fun s => h s s.regs _ s.eng s.isl s.ts) (keeps_seq_cons (fun s => h s s.regs s.wear _ s.isl s.ts)
    (keeps_seq_cons (keeps_forA fun _ => keeps_setF fun s r => h s r s.wear s.eng s.isl s.ts)
      (keeps_seq_cons (fun s => h s s.regs s.wear s.eng _ s.ts)
      (keeps_seq_cons (fun s => h s s.regs s.wear s.eng s.isl _) keeps_seq_nil))))

theorem keeps_linksUp (h : ∀ (s : State) r, π { s with regs := r } = π s) : Keeps π (linksUp d) := keeps_forA fun _ => keeps_setF h

theorem keeps_loseDieMem (h : ∀ (s : State) m k, π { s with mem := m, fresh := k } = π s) : Keeps π (loseDieMem d) :=
  keeps_seq_cons (keeps_lose h) (keeps_seq_cons (keeps_lose h) keeps_seq_nil)

/-- What a die that comes up keeps besides what it keeps of `beyond`. -/
theorem keeps_dieUp (hd : d < 4) (h : ∀ (s : State) b p, π { s with boot := b, pw := p } = π s)
    (hr : ∀ a, Keeps (State.beyond (risePages d)) a → Keeps π a) : Keeps π (dieUp false d) :=
  keeps_seq_cons (fun s => h s _ s.pw) (keeps_seq_cons (fun s => h s s.boot _) (keeps_seq_cons (hr _ (rise_loadDie hd))
    (keeps_seq_cons (fun _ => rfl) (keeps_seq_cons (hr _ (rise_assignDie hd)) keeps_seq_nil))))

theorem keeps_outsideDies (hd : d < 4) : Keeps State.outsideDies (seq (dieRestart d)) :=
  keeps_seq_cons (keeps_loseDieMem fun _ _ _ => rfl) (keeps_seq_cons (fun _ => rfl) (keeps_seq_cons (keeps_resetDieState fun _ _ _ _ _ _ => rfl)
    (keeps_seq_cons (keeps_linksUp fun _ _ => rfl) (keeps_seq_cons (fun _ => rfl) (keeps_seq_cons
      (keeps_dieUp hd (fun _ _ _ => rfl) fun _ h => keeps_of_beyond h fun _ => rfl) keeps_seq_nil)))))

end

/-! ### What the restart leaves -/

section
variable {d : Nat}

/-- The storage changes in the die's local SRAMs and scratch pool alone. -/
theorem memBut_dieRestart (hd : d < 4) :
    MemBut [(0xE000000000 + d * 0x100000000, 9 * 0x400000), (0xE004000000 + d * 0x100000000, 0x3000000)] s (s.act (seq (dieRestart d))) := by
  have after : Keeps State.mem (seq (dieRestart d).tail) :=
    keeps_seq_cons (fun _ => rfl) (keeps_seq_cons (keeps_resetDieState fun _ _ _ _ _ _ => rfl) (keeps_seq_cons (keeps_linksUp fun _ _ => rfl)
      (keeps_seq_cons (fun _ => rfl) (keeps_seq_cons (keeps_dieUp hd (fun _ _ _ => rfl) fun _ h => keeps_of_beyond h fun _ => rfl) keeps_seq_nil))))
  have lost : (s.act (seq (dieRestart d))).mem = (s.act (loseDieMem d)).mem := by
    rw [dieRestart, act_seq_cons]; exact after _
  have twice : (s.act (loseDieMem d)).mem = (s.mem.lose (0xE000000000 + d * 0x100000000) (0xE000000000 + d * 0x100000000 + 9 * 0x400000) s.fresh).lose
      (0xE004000000 + d * 0x100000000) (0xE004000000 + d * 0x100000000 + 0x3000000) (s.fresh + 1) := rfl
  intro a ha
  simp only [List.forall_mem_cons, List.not_mem_nil, false_imp_iff, implies_true, and_true] at ha
  rw [lost, twice, Mem.byte_lose_out _ ha.2, Mem.byte_lose_out _ ha.1]

/-- The lost-block lists and the row moves of every stack. -/
def State.blockLists (s : State) : SMap (List Nat) × SMap (List RowMove) := (s.wear.lost, s.wear.moves)

theorem blockLists_resetDieState : (s.act (resetDieState d)).blockLists = (mdel s.wear.lost d, mdel s.wear.moves d) := by
  have after (es : List Nat) (fe : EngSt → EngSt) (fi : IslSt → IslSt) (ft : TsSt → TsSt) : Keeps State.blockLists
      (seq [updEng fe, forA es (fun e => setF (EL_CAR_RUNNING e) 0), updIsl fi, updTs ft]) :=
    keeps_seq_cons (fun _ => rfl) (keeps_seq_cons (keeps_forA fun _ => keeps_setF fun _ _ => rfl) (keeps_seq_cons (fun _ => rfl)
      (keeps_seq_cons (fun _ => rfl) keeps_seq_nil)))
  rw [resetDieState, act_withS, act_seq_cons]
  exact after _ _ _ _ _

/-- The controller's lost-block list and row moves are empty. -/
theorem wear_dieRestart (hd : d < 4) :
    mget (s.act (seq (dieRestart d))).wear.lost d = none ∧ mget (s.act (seq (dieRestart d))).wear.moves d = none := by
  have after : Keeps State.blockLists (seq [linksUp d, applySpares (inScratch d), dieUp false d]) :=
    keeps_seq_cons (keeps_linksUp fun _ _ => rfl) (keeps_seq_cons (fun _ => rfl) (keeps_seq_cons
      (keeps_dieUp hd (fun _ _ _ => rfl) fun _ h => keeps_of_beyond h fun _ => rfl) keeps_seq_nil))
  have result := (after _).trans (blockLists_resetDieState (d := d) ((s.act (loseDieMem d)).act (restoreFields evDIE (diePages d))))
  obtain ⟨lost, moves⟩ := Prod.mk.inj result
  rw [dieRestart, act_seq_cons, act_seq_cons, act_seq_cons, lost, moves]
  exact ⟨mget_mdel_same _ _, mget_mdel_same _ _⟩

/-- The die is out of reset. -/
theorem resetRunning_dieRestart (hd : d < 4) : bit (s.act (seq (dieRestart d))).boot.resetRunning d = false := by
  have after : Keeps State.boot (seq [updPw (fun p => { p with parked := p.parked.filter fun x => x != d }), loadDie d,
      whenA false (goldenTests d), assignDie d]) :=
    keeps_seq_cons (fun _ => rfl) (keeps_seq_cons (keeps_of_beyond (rise_loadDie hd) fun _ => rfl) (keeps_seq_cons (fun _ => rfl)
      (keeps_seq_cons (keeps_of_beyond (rise_assignDie hd) fun _ => rfl) keeps_seq_nil)))
  have up (t : State) : (t.act (dieUp false d)).boot = { t.boot with resetRunning := clearBit t.boot.resetRunning d } := by
    rw [dieUp, act_seq_cons]; exact after _
  simp only [dieRestart, act_seq_cons, act_seq_nil, up, bit_clearBit_same]

theorem linkIndex_lt (e : Nat) (hd : d < 4) : linkIndex e d < 4 := by
  unfold linkIndex; split <;> omega

theorem page_linkDown (e : Nat) (hd : d < 4) : (BT_LINK_STAT_DOWN e (linkIndex e d)).key / 0x400000 = 16 + 16 * e := by
  have := linkIndex_lt e hd
  simp only [Fld.key, BT_LINK_STAT_DOWN]; omega

theorem get_linksUp (hd : d < 4) {e : Nat} (he : e < 4) (hne : e ≠ d) : (s.act (linksUp d)).get (BT_LINK_STAT_DOWN e (linkIndex e d)) = 0 := by
  have apart {e' : Nat} (h : e ≠ e') : (BT_LINK_STAT_DOWN e (linkIndex e d)).key ≠ (BT_LINK_STAT_DOWN e' (linkIndex e' d)).key := by
    intro same
    have pages := congrArg (· / 0x400000) same
    simp only [page_linkDown e hd, page_linkDown e' hd] at pages
    omega
  exact get_forA_setF s (F := fun e => BT_LINK_STAT_DOWN e (linkIndex e d)) (v := 0) (by simp [he, hne]) fun e' _ h => apart h

/-- The links that join the die are up. -/
theorem linksUp_dieRestart (hd : d < 4) {e : Nat} (he : e < 4) (hne : e ≠ d) :
    (s.act (seq (dieRestart d))).is (BT_LINK_STAT_DOWN e (linkIndex e d)) = false := by
  have elsewhere : (BT_LINK_STAT_DOWN e (linkIndex e d)).key / 0x400000 ∉ risePages d := by
    rw [page_linkDown e hd, risePages, List.mem_append, mem_diePages]
    simp only [pageRM, logPages, List.mem_cons, List.not_mem_nil, or_false]
    omega
  have after : Keeps (fun s => s.get (BT_LINK_STAT_DOWN e (linkIndex e d))) (seq [applySpares (inScratch d), dieUp false d]) :=
    keeps_seq_cons (fun _ => rfl) (keeps_seq_cons (keeps_dieUp hd (fun _ _ _ => rfl) fun _ h s => get_of_beyond s (h s) elsewhere) keeps_seq_nil)
  have result : (s.act (seq (dieRestart d))).get (BT_LINK_STAT_DOWN e (linkIndex e d)) = 0 := by
    rw [dieRestart, act_seq_cons, act_seq_cons, act_seq_cons, act_seq_cons]; exact (after _).trans (get_linksUp _ hd he hne)
  rw [State.is, result]; rfl

end

/-! ### The reset of an engine that serves no position -/

theorem get_restore (f : Fld) (ev p : Nat) : (s.act (restoreFields ev [p])).get f
    = if f.key / 0x400000 = p ∧ restores ev f.key = true then f.reset else s.get f := by
  have page : f.key / 64 / 0x10000 = f.key / 0x400000 := Nat.div_div_eq_div_mul _ _ _
  have read : (s.act (restoreFields ev [p])).get f
      = (mget (mdelIf s.regs fun k => [p].contains (k / 64 / 0x10000) && restores ev k) f.key).getD f.reset := rfl
  rw [read, mget_mdelIf, page]
  simp only [List.contains_cons, List.contains_nil, Bool.or_false, Bool.and_eq_true, beq_iff_eq]
  split <;> rfl

/-- An engine that serves no position: its page's fields return to reset, its requested test is cancelled, and its carousel entry is no
longer awaited (R170, R178). -/
theorem act_engineReset_spare {g : Nat} (hst : s.get (TE_STATUS_STATE g) ≠ 1) : s.act (engineReset g) =
    (({ s.act (restoreFields evENG [pageTE g]) with eng := { s.eng with sigTest := s.eng.sigTest.filter fun x => x != g } } : State).act
      (whenA (s.isl.awaiting.contains (55 + g)) (seq [setF (EL_CAR_RUNNING (55 + g)) 0,
        updIsl fun i => { i with awaiting := i.awaiting.filter fun e => e != 55 + g }]))) := by
  have free : servedUnit s g = none := by simp [servedUnit, hst]
  rw [engineReset, act_withS, free, act_seq_cons, act_seq_cons, act_seq_cons, act_seq_cons, act_seq_nil]
  rfl

theorem page_carRunning {g : Nat} (hg : g < 36) : (EL_CAR_RUNNING (55 + g)).key / 0x400000 = 2 := by
  simp only [Fld.key, EL_CAR_RUNNING]; omega

/-- The state after such a reset, part by part. -/
theorem engineReset_spare {g : Nat} (hst : s.get (TE_STATUS_STATE g) ≠ 1) :
    s.act (engineReset g) = { s with
      regs := (s.act (engineReset g)).regs
      eng := { s.eng with sigTest := s.eng.sigTest.filter fun x => x != g }
      isl := { s.isl with awaiting := s.isl.awaiting.filter fun e => e != 55 + g } } := by
  have absent (h : ¬ s.isl.awaiting.contains (55 + g) = true) : s.isl.awaiting.filter (fun e => e != 55 + g) = s.isl.awaiting := by
    refine List.filter_eq_self.2 fun e he => ?_
    have : e ≠ 55 + g := fun same => h (by simpa [same] using he)
    simpa using this
  rw [act_engineReset_spare s hst, act_whenA]
  split
  · rfl
  · rename_i h
    rw [absent h]; rfl

/-- A field other than the carousel entry's RUNNING reads its reset value where ENG restores it, and else what it read. -/
theorem get_engineReset_spare {g : Nat} (hst : s.get (TE_STATUS_STATE g) ≠ 1) {f : Fld} (hf : f.key ≠ (EL_CAR_RUNNING (55 + g)).key) :
    (s.act (engineReset g)).get f = if f.key / 0x400000 = pageTE g ∧ restores evENG f.key = true then f.reset else s.get f := by
  have entry : Keeps (fun s => s.get f) (whenA (s.isl.awaiting.contains (55 + g)) (seq [setF (EL_CAR_RUNNING (55 + g)) 0,
      updIsl fun i => { i with awaiting := i.awaiting.filter fun e => e != 55 + g }])) :=
    keeps_whenA (keeps_seq_cons (keeps_get_setF hf) (keeps_seq_cons (fun _ => rfl) keeps_seq_nil))
  rw [act_engineReset_spare s hst]
  exact (entry _).trans (get_restore s f evENG (pageTE g))

/-- Settles O28. A reset that R652 ignores changes nothing. Of a die whose units hold no job only the restart remains, and of an engine
that serves no position the restored fields, the test and the carousel entry. -/
theorem dieAndEngineResetsStayLocal : Obligations.DieAndEngineResetsStayLocal := by
  unfold Obligations.DieAndEngineResetsStayLocal
  intro init tkt d g s hi ht hd hg hr
  rw [exec_resetDie s hi ht hd hr, exec_resetEng s hi ht hg hr]
  refine ⟨fun hk => ?_, fun h1 h2 htr => ⟨fun hoff hidle => ⟨_, rfl, ?_⟩, fun hst => ⟨_, rfl, ?_⟩⟩⟩
  · rw [act_narrowReset_ignored s hk, act_narrowReset_ignored s hk]; exact ⟨rfl, rfl⟩
  · rw [act_narrowReset s h1 h2 htr, act_dieReset_idle s hoff hidle]
    obtain ⟨lost, moves⟩ := wear_dieRestart s hd
    have read {α : Type} (π : State → α) (hπ : ∀ s : State, π s = π s.outsideDies) : π (s.act (seq (dieRestart d))) = π s := by
      rw [hπ, keeps_outsideDies hd s, ← hπ]
    exact ⟨memBut_dieRestart s hd, lost, moves, resetRunning_dieRestart s hd, fun e he hne => linksUp_dieRestart s hd he hne,
      read State.doubt fun _ => rfl, read State.time fun _ => rfl, read State.grid fun _ => rfl, read State.rm fun _ => rfl,
      read State.hot fun _ => rfl, read State.fu fun _ => rfl, read State.tt fun _ => rfl, read State.fw fun _ => rfl⟩
  · rw [act_narrowReset s h1 h2 htr]
    have parts := engineReset_spare s hst
    have eng := congrArg State.eng parts
    have isl := congrArg State.isl parts
    refine ⟨?_, ?_, ?_, fun f hf hno => ?_, fun f hp hres => ?_⟩
    · rw [eng, isl]; exact parts
    · rw [eng]; simp
    · rw [isl]; simp
    · rw [get_engineReset_spare s hst hf, if_neg hno]
    · have elsewhere : f.key ≠ (EL_CAR_RUNNING (55 + g)).key := by
        intro same
        rw [same, page_carRunning hg, pageTE] at hp
        omega
      rw [get_engineReset_spare s hst elsewhere, if_pos ⟨hp, hres⟩]

end Sys2Proof.Machine

/-! SUPPORT. MATMUL, CONV, ELTWISE and REDUCE (R127, R128, R136, R148, R150). A job of legal ranges is: its charges, the rows stored, the
counts, and the end with DONE. A `Stores` action is what storing a row can do. -/

namespace Sys2Proof.Machine

variable (s : State)

/-! ### One k-group -/

theorem chunks_nil {α : Type} (n k : Nat) : chunks n k ([] : List α) = [] := by cases k <;> rfl

/-- A list of at most `n` elements is one chunk. -/
theorem chunks_of_le {α : Type} {n k : Nat} {x : α} {xs : List α} (h : xs.length < n) : chunks n (k + 1) (x :: xs) = [x :: xs] := by
  have fits : (x :: xs).length ≤ n := h
  rw [chunks, List.take_of_length_le fits, List.drop_of_length_le fits, chunks_nil]
  rfl

/-- An integer accumulator of one k-group is the exact sum, saturated (R118, R128). -/
theorem dotInt_of_le {x y : List Int} (he : x.length = y.length) (hl : x.length ≤ 32) :
    (dotInt x y).1 = satS 32 ((x.zip y).foldl (fun n p => n + p.1 * p.2) 0) := by
  match x, y, he with
  | [], [], _ => rfl
  | a :: x, b :: y, he =>
    have short : (x.zip y).length < 32 := by
      rw [List.length_zip]
      simp only [List.length_cons] at hl
      omega
    rw [dotInt, List.zip_cons_cons, List.length_cons, chunks_of_le short]
    simp only [List.foldl_cons, List.foldl_nil, Bool.false_eq_true, if_false, Int.zero_add]

/-- A float accumulator of one k-group is the exact sum, rounded once (R127). -/
theorem dotFloat_of_le {v w : Val} {x y : List Val} (he : x.length = y.length) (hl : x.length < 32) :
    dotFloat (v :: x) (w :: y) = f32 (((x.zip y).map fun p => p.1.mul p.2).foldl Val.add (v.mul w)) := by
  have short : (x.zip y).length < 32 := by rw [List.length_zip]; omega
  rw [dotFloat, List.zip_cons_cons, List.length_cons, chunks_of_le short]
  rfl

/-! ### What storing a row can do -/

/-- The state without what a tensor job may change beside its unit. -/
def State.besideJob (s : State) : State :=
  { s with regs := [], mem := State.reset.mem, fresh := 0, plan := { s.plan with slots := [] }, wear := { s.wear with lost := [] },
           hot := { s.hot with spoiled := [] }, bus := { s.bus with sent := [] }, yl := [], ts := State.reset.ts, tt := State.reset.tt }

/-- The state with other turnstiles. -/
def State.withTs (s : State) (v : TsSt) : State := { s with ts := v }

/-- LOST_USED of the four stacks. -/
def lostFields : List Fld := (List.range 4).map BT_HBM_HEALTH_LOST_USED

/-- The action does not see the turnstiles, changes what a stored row may change, and of the registers LOST_USED alone. -/
structure Stores (a : Act) : Prop where
  unseen : ∀ (s : State) v, (s.withTs v).act a = (s.act a).withTs v
  frame : Keeps State.besideJob a
  fields : Writes lostFields [] a

theorem stores_skip : Stores skip := ⟨fun _ _ => rfl, fun _ => rfl, writes_skip⟩
theorem stores_seq_nil : Stores (seq []) := ⟨fun _ _ => rfl, fun _ => rfl, writes_seq_nil⟩
theorem stores_seq_cons {a : Act} {as : List Act} (h : Stores a) (hs : Stores (seq as)) : Stores (seq (a :: as)) where
  unseen s v := by rw [act_seq_cons, act_seq_cons, h.unseen, hs.unseen]
  frame := keeps_seq_cons h.frame hs.frame
  fields := writes_seq_cons h.fields hs.fields

theorem stores_forA {β : Type} {xs : List β} {f : β → Act} (h : ∀ x ∈ xs, Stores (f x)) : Stores (forA xs f) := by
  induction xs with
  | nil => exact stores_seq_nil
  | cons x xs ih => exact stores_seq_cons (h x List.mem_cons_self) (ih fun y hy => h y (List.mem_cons_of_mem _ hy))

/-- An action chosen from the state, though not from the turnstiles. -/
theorem stores_withS {f : State → Act} (hf : ∀ (s : State) v, f (s.withTs v) = f s) (h : ∀ s, Stores (f s)) : Stores (withS f) where
  unseen s v := by rw [act_withS, hf, (h s).unseen, act_withS]
  frame := keeps_withS fun s => (h s).frame
  fields := writes_withS fun s => (h s).fields

theorem stores_ite {c : Prop} [Decidable c] {a b : Act} (h : c → Stores a) (h2 : ¬c → Stores b) : Stores (if c then a else b) := by
  split
  · exact h ‹_›
  · exact h2 ‹_›

theorem stores_store (a : Nat) (bs : List Byte) : Stores (store a bs) := ⟨fun _ _ => rfl, fun _ => rfl, writes_of_regs fun _ => rfl⟩
theorem stores_spoilMap : Stores spoilMap := ⟨fun _ _ => rfl, fun _ => rfl, writes_of_regs fun _ => rfl⟩

theorem stores_sendPeer (p : Nat) (bs : List Byte) : Stores (sendPeer p bs) := by
  refine stores_withS (fun _ _ => rfl) fun s => ?_
  split
  · exact stores_seq_cons ⟨fun _ _ => rfl, fun _ => rfl, writes_of_regs fun _ => rfl⟩
      (stores_seq_cons ⟨fun _ _ => rfl, fun _ => rfl, writes_of_regs fun _ => rfl⟩ stores_seq_nil)
  · exact stores_skip

theorem stores_unlist {k : Nat} (hk : k < 4) (p n : Nat) : Stores (unlist k p n) := by
  refine stores_withS (fun _ _ => rfl) fun s => stores_ite (fun _ => ?_) fun _ => stores_skip
  have listed : BT_HBM_HEALTH_LOST_USED k ∈ lostFields := List.mem_map_of_mem (List.mem_range.2 hk)
  exact stores_seq_cons ⟨fun _ _ => rfl, fun _ => rfl, writes_of_regs fun _ => rfl⟩
    (stores_seq_cons ⟨fun _ _ => rfl, fun _ => rfl, writes_setF (.inl listed)⟩ stores_seq_nil)

theorem stores_spoilCtxs (cs : List Nat) : Stores (spoilCtxs cs) := by
  cases cs with
  | nil => exact stores_skip
  | cons c cs => exact ⟨fun _ _ => rfl, fun _ => rfl, writes_of_regs fun _ => rfl⟩

/-- A write that meets a take changes values taken, and uses up free values (R504). -/
theorem spoilTake_effects {a n : Nat} {e : Eff} (h : e ∈ spoilTake a n s) : (∃ v, e = .setTt v) ∨ e = .bump := by
  unfold spoilTake at h
  split at h
  · split at h
    · rcases List.mem_cons.1 h with h | h
      · exact .inl ⟨_, h⟩
      · exact .inr (List.eq_of_mem_replicate h)
    · cases h
  · cases h

/-- Effects that do not see the turnstiles, run one after another. -/
theorem run_withTs {es : List Eff} (h : ∀ e ∈ es, ∀ (s : State) v, (s.withTs v).apply e = (s.apply e).withTs v) (v : TsSt) :
    (s.withTs v).run es = (s.run es).withTs v := by
  induction es generalizing s with
  | nil => rfl
  | cons e es ih => rw [run_cons, h e List.mem_cons_self, ih _ fun e he => h e (List.mem_cons_of_mem _ he), run_cons]

theorem stores_spoilTake (a n : Nat) : Stores (spoilTake a n) where
  unseen s v := run_withTs s (fun e he s v => by rcases spoilTake_effects _ he with ⟨_, rfl⟩ | rfl <;> rfl) v
  frame := keeps_of_apply fun s e he t => by rcases spoilTake_effects s he with ⟨_, rfl⟩ | rfl <;> rfl
  fields := writes_of_regs (keeps_of_apply (π := State.regs) fun s e he t => by rcases spoilTake_effects s he with ⟨_, rfl⟩ | rfl <;> rfl)

theorem stores_storePieces (ps : List (Nat × Nat)) (bs : List Byte) : Stores (storePieces ps bs) := by
  induction ps generalizing bs with
  | nil => exact stores_skip
  | cons q r ih =>
    have plain : Stores (withS fun s => store (phys s q.1) (bs.take q.2)) := stores_withS (fun _ _ => rfl) fun _ => stores_store _ _
    have map (o : Nat) : Stores fun s => if mapWritable s o q.2 then [.write (phys s q.1) (bs.take q.2)] else spoilMap s := by
      have chosen : (fun s => if mapWritable s o q.2 then [Eff.write (phys s q.1) (bs.take q.2)] else spoilMap s)
          = withS fun s => if mapWritable s o q.2 then store (phys s q.1) (bs.take q.2) else spoilMap := by
        funext s; simp only [withS]; split <;> rfl
      rw [chosen]
      exact stores_withS (fun _ _ => rfl) fun _ => stores_ite (fun _ => stores_store _ _) fun _ => stores_spoilMap
    refine stores_seq_cons ?_ (stores_seq_cons (ih _) stores_seq_nil)
    split
    · exact stores_sendPeer _ _
    · exact map _
    · exact plain

theorem region_stack_lt {a k off : Nat} (h : region a = .stack k off) : k < 4 := by
  unfold region at h
  dsimp only at h
  repeat' split at h
  all_goals cases h
  · omega
  · exact Nat.mod_lt _ (by decide)

theorem stores_writeRange (a : Nat) (bs : List Byte) : Stores (writeRange a bs) := by
  refine stores_seq_cons (stores_storePieces _ _) (stores_seq_cons (stores_forA fun q _ => ?_) stores_seq_nil)
  split
  · rename_i k off h
    exact stores_withS (f := fun s => seq [unlist k (phys s q.1) q.2, spoilCtxs (ctxsAt s (phys s q.1) q.2)]) (fun _ _ => rfl) fun s =>
      stores_seq_cons (stores_unlist (region_stack_lt h) _ _) (stores_seq_cons (stores_spoilCtxs _) stores_seq_nil)
  · exact stores_spoilTake _ _
  · exact stores_skip

/-! ### Ranges that pass their checks -/

theorem act_noteCorr_none {ecc : Ecc} (hc : ecc.corr = []) (init tkt a n : Nat) : s.act (noteCorr init tkt ecc a n) = s := by
  rw [noteCorr, act_withS, hc]; rfl

theorem act_charge (init t : Nat) (w : Bool) (a n : Nat) : s.act (charge init t w a n) = s.withTs (s.act (charge init t w a n)).ts := by
  have h : (s.act (charge init t w a n)).uncharged.withTs (s.act (charge init t w a n)).ts = s.uncharged.withTs (s.act (charge init t w a n)).ts := by
    rw [keeps_charge init t w a n s]
  exact h

theorem checkPiece_withTs (v : TsSt) (init tkt acc : Nat) (ecc : Ecc) (a n : Nat) :
    checkPiece (s.withTs v) init tkt acc ecc a n = checkPiece s init tkt acc ecc a n := by
  rfl

/-- No check looks at the turnstiles. -/
theorem checkRange_withTs (v : TsSt) (init tkt acc : Nat) (ecc : Ecc) (a n : Nat) :
    checkRange (s.withTs v) init tkt acc ecc a n = checkRange s init tkt acc ecc a n := by
  simp only [checkRange, checkPiece_withTs]

theorem cellOcc_withTs (v : TsSt) (b : Nat) (ds : List Nat) (x y z : Nat) : cellOcc (s.withTs v) b ds x y z = cellOcc s b ds x y z := by
  have mem : (s.withTs v).mem = s.mem := rfl
  simp only [cellOcc, cellBits, mem]

theorem nearestOther_withTs (v : TsSt) (b : Nat) (ds : List Nat) (x y z : Nat) :
    nearestOther (s.withTs v) b ds x y z = nearestOther s b ds x y z := by
  simp only [nearestOther, cellOcc_withTs]

theorem stored_withTs (v : TsSt) (p : Nat) : (s.withTs v).stored p = s.stored p := by
  have code (b : Nat) (ds : List Nat) (cell : Nat) : distCode (s.withTs v) b ds cell = distCode s b ds cell := by
    simp only [distCode, cellOcc_withTs, nearestOther_withTs]
  have mem : (s.withTs v).mem = s.mem := rfl
  have mw : (s.withTs v).mw = s.mw := rfl
  simp only [State.stored, code, mem, mw]

/-- No read looks at the turnstiles. -/
theorem readRange_withTs (v : TsSt) (a n : Nat) : readRange (s.withTs v) a n = readRange s a n := by
  have place (a : Nat) : phys (s.withTs v) a = phys s a := rfl
  have mem : (s.withTs v).mem = s.mem := rfl
  have fresh : (s.withTs v).fresh = s.fresh := rfl
  simp only [readRange, place, stored_withTs, mem, fresh]

theorem dieReader_withTs (v : TsSt) (u : Nat) : dieReader (s.withTs v) u = dieReader s u := by
  funext o n
  simp only [dieReader, readRange_withTs]

/-- Ranges that all pass their checks are charged, one after another, and then `ok` runs. -/
theorem act_accessAll {u tkt : Nat} {ecc : Ecc} (hc : ecc.corr = []) {rs : List (Nat × Nat × Nat)}
    (h : ∀ r ∈ rs, (checkRange s u tkt r.1 ecc r.2.1 r.2.2).1 = 0) (ok : Act) (bad : Nat → Act) :
    ∃ v, s.act (accessAll u tkt ecc rs ok bad) = (s.withTs v).act ok := by
  induction rs generalizing s with
  | nil => exact ⟨s.ts, rfl⟩
  | cons r rs ih =>
    obtain ⟨acc, a, n⟩ := r
    have first : (checkRange s (jobInit u) tkt acc ecc a n).1 = 0 := h (acc, a, n) List.mem_cons_self
    obtain ⟨v, hv⟩ := ih (s.withTs (s.act (charge (jobInit u) tkt (acc == 1) a n)).ts) fun r hr => by
      rw [checkRange_withTs]; exact h r (List.mem_cons_of_mem _ hr)
    refine ⟨v, ?_⟩
    rw [accessAll, access, act_withS]
    dsimp only
    rw [if_pos first, act_seq_cons, act_noteCorr_none s hc, act_seq_cons, act_charge, act_seq_cons, act_seq_nil, hv]
    rfl

/-! ### A job's run -/

variable {u g : Nat} {j : Job} {ecc : Ecc}

theorem workingJob_eq_some {op : Nat} (h : workingJob s u op = some j) :
    (s.unit u).running = some j ∧ j.status = none ∧ dOpcode j.desc = op := by
  unfold workingJob at h
  split at h
  · rename_i i hi
    split at h
    · rename_i hw
      cases h
      simp only [Bool.and_eq_true, Option.isNone_iff_eq_none, beq_iff_eq] at hw
      exact ⟨hi, hw.1.1, hw.2⟩
    · cases h
  · cases h

theorem act_onTensor {op : Nat} (hw : workingJob s u op = some j) (hs : serving s u = some g) (hb : ∀ b ∈ ecc.uncorr, b < 2 ^ 48)
    (k : Nat → Job → Act) : s.act (onTensor u op ecc k) = s.act (k g j) := by
  have stored : (ecc.uncorr.any fun b => decide (2 ^ 48 ≤ b)) = false := by
    simpa using hb
  rw [onTensor, act_withS, hw, hs]
  dsimp only
  rw [stored]
  rfl

/-- Output rows stored one after another. -/
def storeRows (u : Nat) (outs : List (Nat × Nat)) (rows : List (List Byte)) : Act :=
  forA (outs.zip rows) fun w => writeRange (dieAddr (u / 9) w.1.1) w.2

theorem stores_storeRows (outs : List (Nat × Nat)) (rows : List (List Byte)) : Stores (storeRows u outs rows) :=
  stores_forA fun _ _ => stores_writeRange _ _

/-- The job may read `ins` and write `outs`, and no output row meets another or an operand. -/
def LegalRanges (s : State) (u : Nat) (j : Job) (ecc : Ecc) (ins outs : List (Nat × Nat)) : Prop :=
  (∀ r ∈ ins, (checkRange s u j.ticket 0 ecc (dieAddr (u / 9) r.1) r.2).1 = 0)
    ∧ (∀ r ∈ outs, (checkRange s u j.ticket 1 ecc (dieAddr (u / 9) r.1) r.2).1 = 0)
    ∧ someMeet outs = false ∧ ∀ o ∈ outs, ∀ i ∈ ins, rangesMeet o i = false

variable {s} {ins outs : List (Nat × Nat)} {rows : List (List Byte)}

theorem act_withRanges (hl : LegalRanges s u j ecc ins outs) (hc : ecc.corr = []) (ok : Act) :
    ∃ v, s.act (withRanges u j ecc ins outs ok) = (s.withTs v).act ok := by
  obtain ⟨hins, houts, _, _⟩ := hl
  refine act_accessAll s hc (fun r hr => ?_) ok _
  rcases List.mem_append.1 hr with hr | hr
  · obtain ⟨q, hq, rfl⟩ := List.mem_map.1 hr
    exact hins q hq
  · obtain ⟨q, hq, rfl⟩ := List.mem_map.1 hr
    exact houts q hq

/-- Rows that overlap nothing are stored (R135). -/
theorem putRows_legal (hl : LegalRanges s u j ecc ins outs) : putRows u false ins outs rows = storeRows u outs rows := by
  obtain ⟨_, _, apart, clear⟩ := hl
  have free : (outs.any fun o => ins.any (rangesMeet o)) = false := by
    simp only [List.any_eq_false, List.any_eq_true, not_exists, not_and]
    intro o ho i hi
    rw [clear o ho i hi]
    decide
  rw [putRows, apart, free]
  rfl

/-! ### The counts -/

/-- The counters and CTRL checks of engine `g`. -/
def countFields (g : Nat) : List Fld :=
  [TE_CVT_CNT_OUT_OF_RANGE g, TE_CVT_CNT_NAN_LOST g, TE_ACC_CNT_ACC_SAT g, TE_CTRL_CHK_NAN_SEEN g, TE_CTRL_CHK_SAT_SEEN g, TE_CTRL_CHK_INF_SEEN g]

/-- The action keeps the storage, changes of the registers `countFields` alone, and nothing that `besideJob` shows. -/
structure Counts (g : Nat) (a : Act) : Prop where
  mem : Keeps State.mem a
  frame : Keeps State.besideJob a
  fields : Writes (countFields g) [] a

theorem counts_skip : Counts g skip := ⟨fun _ => rfl, fun _ => rfl, writes_skip⟩
theorem counts_seq_nil : Counts g (seq []) := ⟨fun _ => rfl, fun _ => rfl, writes_seq_nil⟩
theorem counts_seq_cons {a : Act} {as : List Act} (h : Counts g a) (hs : Counts g (seq as)) : Counts g (seq (a :: as)) :=
  ⟨keeps_seq_cons h.mem hs.mem, keeps_seq_cons h.frame hs.frame, writes_seq_cons h.fields hs.fields⟩
theorem counts_whenA {c : Bool} {a : Act} (h : Counts g a) : Counts g (whenA c a) :=
  ⟨keeps_whenA h.mem, keeps_whenA h.frame, writes_whenA fun _ => h.fields⟩
theorem counts_setF {f : Fld} {v : Nat} (h : f ∈ countFields g) : Counts g (setF f v) := ⟨fun _ => rfl, fun _ => rfl, writes_setF (.inl h)⟩
theorem counts_countF {f : Fld} {n : Nat} (h : f ∈ countFields g) : Counts g (countF f n) :=
  ⟨fun _ => rfl, fun _ => rfl, writes_countF (.inl h)⟩
theorem counts_updSlot (i : Nat) (f : SlotRun → SlotRun) : Counts g (updSlot i f) := ⟨fun _ => rfl, fun _ => rfl, writes_of_regs fun _ => rfl⟩

theorem counts_withS {f : State → Act} (h : ∀ s, Counts g (f s)) : Counts g (withS f) :=
  ⟨keeps_withS fun s => (h s).mem, keeps_withS fun s => (h s).frame, writes_withS fun s => (h s).fields⟩

theorem counts_tensorCounts (oor lost sat : Nat) (inf : Bool) : Counts g (tensorCounts u g oor lost sat inf) := by
  have slotted (id : Nat) : Counts g (seq [whenA (lost != 0) (setF (TE_CTRL_CHK_NAN_SEEN g) 1), whenA (sat != 0) (setF (TE_CTRL_CHK_SAT_SEEN g) 1),
      whenA inf (setF (TE_CTRL_CHK_INF_SEEN g) 1),
      whenA (lost != 0 || sat != 0 || inf) (updSlot id fun r => { r with doubtful := r.doubtful ++ [u / 9] })]) :=
    counts_seq_cons (counts_whenA (counts_setF (by simp [countFields]))) (counts_seq_cons (counts_whenA (counts_setF (by simp [countFields])))
      (counts_seq_cons (counts_whenA (counts_setF (by simp [countFields]))) (counts_seq_cons (counts_whenA (counts_updSlot _ _)) counts_seq_nil)))
  refine counts_withS fun s => counts_seq_cons (counts_countF (by simp [countFields])) (counts_seq_cons (counts_countF (by simp [countFields]))
    (counts_seq_cons (counts_countF (by simp [countFields])) (counts_seq_cons ?_ counts_seq_nil)))
  split
  · exact counts_skip
  · exact slotted _

/-! ### The whole run -/

/-- The running job ends with DONE, its rows stored, with nothing else changed but what the statement names: the body of `ends`. -/
def EndsWithRows (s : State) (u g : Nat) (j : Job) (c : Instr) (outs : List (Nat × Nat)) (rows : List (List Byte)) : Prop :=
  ∃ t, exec c s = .next t
    ∧ t.mem = (s.act (storeRows u outs rows)).mem
    ∧ t.unit u = { s.unit u with running := some { j with status := some 0, stopWith := none } } ∧ (∀ v, v ≠ u → t.unit v = s.unit v)
    ∧ t = { s with
        regs := t.regs, mem := t.mem, fresh := t.fresh, rm := { s.rm with units := t.rm.units }
        plan := { s.plan with slots := t.plan.slots }, wear := { s.wear with lost := t.wear.lost }
        hot := { s.hot with spoiled := t.hot.spoiled }, bus := { s.bus with sent := t.bus.sent }, yl := t.yl, ts := t.ts, tt := t.tt }
    ∧ RegsBut (countFields g ++ lostFields) [] s t

/-- The end of a running job that has not ended yet. -/
theorem act_endRunning {st : Nat} (hr : (s.unit u).running = some j) (hs : j.status = none) : s.act (endRunning u st)
    = { s with rm := { s.rm with units := mset s.rm.units u { s.unit u with running := some { j with status := some st, stopWith := none } } } } := by
  have ended : s.act (endRunning u st) = { s with rm := { s.rm with units := mset s.rm.units u { s.unit u with
    running := (s.unit u).running.map fun j => if j.status.isSome then j else { j with status := some st, stopWith := none } } } } := rfl
  rw [ended, hr, Option.map_some, hs]
  rfl

theorem writes_mono {fs gs : List Fld} {ps : List Nat} {a : Act} (h : Writes fs ps a) (sub : ∀ f ∈ fs, f ∈ gs) : Writes gs ps a :=
  fun s f h1 h2 => h s f (fun g hg => h1 g (sub g hg)) h2

/-- Storing and counting change what `besideJob` leaves out, and their fields. -/
theorem besideJob_rows (v : TsSt) {counts : Act} (hk : Counts g counts) :
    (((s.withTs v).act (storeRows u outs rows)).act counts).besideJob = s.besideJob
      ∧ RegsBut (countFields g ++ lostFields) [] s (((s.withTs v).act (storeRows u outs rows)).act counts) := by
  have stored := stores_storeRows (u := u) outs rows
  refine ⟨(hk.frame _).trans (stored.frame _), ?_⟩
  exact regsBut_trans (writes_mono stored.fields (fun f hf => List.mem_append_right _ hf) (s.withTs v))
    (writes_mono hk.fields (fun f hf => List.mem_append_left _ hf) _)

theorem endsWithRows {c : Instr} {v : TsSt} {counts : Act} (hr : (s.unit u).running = some j) (hs : j.status = none) (hk : Counts g counts)
    (he : exec c s = .next ((s.withTs v).act (seq [storeRows u outs rows, counts, endRunning u stDONE]))) :
    EndsWithRows s u g j c outs rows := by
  obtain ⟨beside, fields⟩ := besideJob_rows (s := s) (u := u) (outs := outs) (rows := rows) v hk
  have mem : (((s.withTs v).act (storeRows u outs rows)).act counts).mem = (s.act (storeRows u outs rows)).mem := by
    rw [hk.mem, (stores_storeRows outs rows).unseen]; rfl
  rw [act_seq_cons, act_seq_cons, act_seq_cons, act_seq_nil] at he
  generalize ((s.withTs v).act (storeRows u outs rows)).act counts = t at beside fields mem he
  have rm : t.rm = s.rm := (congrArg (fun x : State => x.rm) beside :)
  have units (w : Nat) : t.unit w = s.unit w := by rw [State.unit, rm, State.unit]
  rw [act_endRunning (by rw [units, hr]) hs] at he
  refine ⟨_, he, mem, ?_, fun w hw => ?_, ?_, fields⟩
  · rw [State.unit, mget_mset_same, units]; rfl
  · rw [State.unit, mget_mset_other _ _ hw]; exact units w
  · exact (congrArg (fun x : State => { x with
      regs := t.regs, mem := t.mem, fresh := t.fresh,
      rm := { x.rm with units := mset t.rm.units u { t.unit u with running := some { j with status := some stDONE, stopWith := none } } },
      plan := { x.plan with slots := t.plan.slots }, wear := { x.wear with lost := t.wear.lost },
      hot := { x.hot with spoiled := t.hot.spoiled }, bus := { x.bus with sent := t.bus.sent }, yl := t.yl, ts := t.ts, tt := t.tt }) beside :)

/-! ### The four commands -/

theorem matOf_raw (d : List Byte) (p : Path) : (matOf d p).raw = dRaw d := by
  unfold matOf; split <;> rfl

/-- MATMUL and CONV with RAW output (R127, R128, R136). -/
theorem endsWithRows_raw {op : Nat} {c : Instr} {p : Path} (hc : (op = 0x40 ∧ c = .matmul u ecc) ∨ (op = 0x41 ∧ c = .conv u ecc))
    (hu : isEngineUnit u = true) (hs : serving s u = some g) (hcorr : ecc.corr = []) (hb : ∀ b ∈ ecc.uncorr, b < 2 ^ 48)
    (hw : workingJob s u op = some j) (hp : pairPath (dAFmt j.desc) (dBFmt j.desc) = some p) (hraw : dRaw j.desc = true)
    (hl : LegalRanges s u j ecc ((matOf j.desc p).aRanges ++ (matOf j.desc p).bRows) (matOf j.desc p).outRows) :
    EndsWithRows s u g j c (matOf j.desc p).outRows (((matOf j.desc p).accs (dieReader s u)).map fun r => r.flatMap fun x => leBytes 4 x.1) := by
  obtain ⟨hr, hst, _⟩ := workingJob_eq_some s hw
  have engine : exec c s = .next (s.act (onTensor u op ecc fun g j => match pairPath (dAFmt j.desc) (dBFmt j.desc) with
      | some p => runMatrix u g (matOf j.desc p) j ecc
      | none => skip)) := by
    rcases hc with ⟨rfl, rfl⟩ | ⟨rfl, rfl⟩
    · exact perform_of s (show Instr.wellFormed (.matmul u ecc) = true from hu) _
    · exact perform_of s (show Instr.wellFormed (.conv u ecc) = true from hu) _
  rw [act_onTensor s hw hs hb, hp] at engine
  dsimp only at engine
  rw [runMatrix, matOf_raw, hraw, if_pos rfl] at engine
  obtain ⟨v, hv⟩ := act_withRanges hl hcorr _
  rw [hv, act_withS] at engine
  dsimp only at engine
  rw [putRows_legal hl, dieReader_withTs] at engine
  exact endsWithRows hr hst (counts_tensorCounts _ _ _ _) engine

theorem zipIdx_tab {β : Type} (n : Nat) (f : Nat → β) : (tab n f).zipIdx = (List.range n).map fun i => (f i, i) := by
  apply List.ext_getElem
  · simp
  · intro i h1 h2
    simp [tab]

/-- Row `i` of an ELTWISE without activation: the operation on the decoded elements (R148). -/
def elResult (rd : Reader) (d : List Byte) (i : Nat) : List Nat :=
  let n := elCols d
  let k := if (if dField d 4 63 32 = 0 then 1 else elRows d) = 1 then 0 else i
  let x := (rowVals (dAFmt d) n (rd (dField d 1 31 0 + i * dField d 4 31 0) (rowBytes (dAFmt d) n))).map toF32
  let y := if elBinary d then (rowVals (dBFmt d) n (rd (dField d 1 63 32 + k * dField d 4 63 32) (rowBytes (dBFmt d) n))).map toF32 else []
  x.zipIdx.map fun q => elOp (dOpx d) q.1 (y.getD q.2 0)

/-- ELTWISE to a plain format without ACT (R148). -/
theorem endsWithRows_eltwise (hu : isEngineUnit u = true) (hs : serving s u = some g) (hcorr : ecc.corr = []) (hb : ∀ b ∈ ecc.uncorr, b < 2 ^ 48)
    (hw : workingJob s u 0x42 = some j) (hout : isScaled (dOutFmt j.desc) = false) (hact : dAct j.desc = false)
    (hl : LegalRanges s u j ecc (tensorRanges j.desc).1 (tensorRanges j.desc).2) :
    EndsWithRows s u g j (.eltwise u ecc) (tensorRanges j.desc).2 ((List.range (elRows j.desc)).map fun i =>
      (convertRow (dOutFmt j.desc) (srRow (dSR j.desc) (dField j.desc 6 63 32) i (elCols j.desc))
        ((elResult (dieReader s u) j.desc i).map f32Val)).bytes) := by
  obtain ⟨hr, hst, _⟩ := workingJob_eq_some s hw
  have engine : exec (.eltwise u ecc) s = execEltwise u ecc s := rfl
  have wf : Instr.wellFormed (.eltwise u ecc) = true := hu
  have plain : (!isScaled (dOutFmt j.desc)) = true := by rw [hout]; rfl
  rw [execEltwise, perform_of s wf, act_onTensor s hw hs hb] at engine
  dsimp only at engine
  rw [if_pos plain] at engine
  obtain ⟨v, hv⟩ := act_withRanges hl hcorr _
  rw [hv, act_withS] at engine
  rw [hact, Bool.false_and, finishPlain, putRows_legal hl, dieReader_withTs, zipIdx_tab, List.map_map, List.map_map] at engine
  exact endsWithRows hr hst (counts_tensorCounts _ _ _ _) engine

/-- The results of a REDUCE, one for each row, or for each column with AXIS 1 (R149, R150). -/
def rdResults (rd : Reader) (d : List Byte) : List Nat :=
  let rows := (tensorRanges d).1.map fun r => (rowVals (dAFmt d) (elCols d) (rd r.1 r.2)).map toF32
  let lists := if rdAxis d then (List.range (elCols d)).map fun c => rows.map fun r => r.getD c 0 else rows
  lists.map fun xs =>
    if rdOp d = 4 ∨ rdOp d = 5 then rdArg (rdOp d) xs else if rdAxis d then (rdFold (rdOp d) (xs.map (rdElem (rdOp d)))).getD 0
    else rdLanes (rdOp d) (xs.map (rdElem (rdOp d)))

/-- REDUCE. -/
theorem endsWithRows_reduce (hu : isEngineUnit u = true) (hs : serving s u = some g) (hcorr : ecc.corr = []) (hb : ∀ b ∈ ecc.uncorr, b < 2 ^ 48)
    (hw : workingJob s u 0x43 = some j) (hl : LegalRanges s u j ecc (tensorRanges j.desc).1 (tensorRanges j.desc).2) :
    EndsWithRows s u g j (.reduce u ecc) (tensorRanges j.desc).2 [(rdResults (dieReader s u) j.desc).flatMap (leBytes 4)] := by
  obtain ⟨hr, hst, _⟩ := workingJob_eq_some s hw
  have engine : exec (.reduce u ecc) s = execReduce u ecc s := rfl
  have wf : Instr.wellFormed (.reduce u ecc) = true := hu
  rw [execReduce, perform_of s wf, act_onTensor s hw hs hb] at engine
  obtain ⟨v, hv⟩ := act_withRanges hl hcorr _
  rw [hv, act_withS] at engine
  dsimp only at engine
  rw [putRows_legal hl, dieReader_withTs, act_seq_cons, act_seq_cons, act_seq_nil] at engine
  refine endsWithRows (counts := skip) (v := v) hr hst counts_skip ?_
  rw [act_seq_cons, act_seq_cons, act_skip, act_seq_cons, act_seq_nil]
  exact engine

/-- Settles O43. Every access passes and is charged, then the rows are stored: what storing and counting leave alone is read off
`besideJob`. The accumulators of one k-group are the two facts about a single chunk. -/
theorem enginesComputeTheirOutput : Obligations.EnginesComputeTheirOutput := by
  unfold Obligations.EnginesComputeTheirOutput
  intro u g ecc s j hu hs hcorr hb
  refine ⟨fun x y => dotInt_of_le, fun v w x y => dotFloat_of_le, fun op c hc hw p hp hraw hl => ?_, fun hw hout hact hl => ?_, fun hw hl => ?_⟩
  · exact endsWithRows_raw hc hu hs hcorr hb hw hp hraw hl
  · exact endsWithRows_eltwise hu hs hcorr hb hw hout hact hl
  · exact endsWithRows_reduce hu hs hcorr hb hw hl

end Sys2Proof.Machine

/-! SUPPORT. GOLDEN_COMPARE (R169 to R172). What fails with an engine is its position's job, and with it the job's output wherever it lies. -/

namespace Sys2Proof.Machine

/-! ### A failure that meets a take of the staging set -/

/-- Engine 0 serves position 0, whose SAFE slot has started in the frame of index 0. The position's running job writes hub shared SRAM, as
no engine job that passes its checks does (R131), where a take of the staging set has just read axis 5. -/
def meetsTake : State :=
  { State.reset with
    regs := putFld [] (TE_STATUS_STATE 0) 1
    fw := ⟨[], [(0, ⟨2 ^ 63 + 15, 0xFFFFFFFFF * 4096, 0, 2 ^ 64 - 1⟩)]⟩
    rm := { State.reset.rm with units :=
      [(0, ⟨some ⟨0, 0, 0, none, [], 8, true, none, 0, true, none, [(0xE400000000, 8)], none, false, 0, 0, 0, [], [], []⟩, none, [], false, false⟩)] }
    plan := { State.reset.plan with
      inForce := some ⟨7, [⟨0, false, 0, 2200, 1, 2200, 0, 0, 0, 0, 255, 0, 0, 0, 3, false⟩], [], [], 0, 0, 0⟩
      slots := [(3, { SlotRun.none with started := true })] }
    tt := { State.reset.tt with axes := [(5, AxisSt.reset)], taking := some ⟨0, 0xE400000000, [5]⟩ }
    pw := { State.reset.pw with good := [0] }
    boot := { State.reset.boot with resetRunning := 0 } }

/-- Axis 5 has a set in use. -/
def takenAxis (o : Host.Outcome State Fault Refusal) : Bool := match o with
  | .next t => ((mget t.tt.axes 5).bind AxisSt.posRef).isSome
  | _ => false

theorem meetsTake_runs : stepRun meetsTake 0 = true ∧ meetsTake.get (TE_STATUS_STATE 0) = 1 ∧ meetsTake.get (TE_STATUS_SERVES 0) < 16
    ∧ 0 = meetsTake.frameIdx := by decide +kernel

/-- With the signature missing, the engine fails, its position's output is lost, and with it the take (R172, R504). -/
theorem meetsTake_spoils : takenAxis (exec (.goldenCompare 0 0 (some none)) meetsTake) = true := by decide +kernel

/-- Refutes O44: a failing comparison does not keep Tightrope's state, for the lost output of the position's job may lie in the staging set
that was just taken. The state is `meetsTake`; the signature is missing. -/
theorem not_goldenSignaturesAreCompared : ¬ Obligations.GoldenSignaturesAreCompared := by
  unfold Obligations.GoldenSignaturesAreCompared
  rintro ⟨compare, -⟩
  obtain ⟨hrun, hstate, hserves, hidx⟩ := meetsTake_runs
  obtain ⟨t, ht, -, -, -, -, fails, -⟩ := compare 0 0 (some none) meetsTake (by decide) hidx (by decide) hrun (.inl hstate) hserves
  obtain ⟨-, -, -, -, -, -, -, -, htt⟩ := fails rfl nofun
  have spoilt := meetsTake_spoils
  rw [ht, takenAxis, htt] at spoilt
  exact absurd spoilt (by decide)

end Sys2Proof.Machine
